-- ==== Sys2Proof/Word.lean ====
section
/-!
DEFINITION. The word types of the block, and the small enumerations that several chapters share.
-/
namespace Sys2Proof

/-- One byte. -/
abbrev Byte := BitVec 8
/-- A 32-bit register of a thread, a uniform register or an accumulator element. -/
abbrev W32 := BitVec 32
/-- A 64-bit register of the register window (R5), or one word of a kernel instruction (R133). -/
abbrev W64 := BitVec 64
/-- The sticky arithmetic flag word (R54). -/
abbrev Flags := BitVec 16

/-- Sparse data by key: a list of pairs with rising keys. -/
abbrev Map (α : Type) := List (Nat × α)

/-- The eleven element formats (R35). -/
inductive ElemFmt where
  | fp32 | bf16 | fp16 | e4m3 | e5m2 | e3m2 | e2m3 | e2m1 | int8 | kb24 | kb16
  deriving DecidableEq, Repr

/-- The rounding modes of CVT (R56). -/
inductive Rnd where
  | rne | rtz | rdn | rup | rna | sr
  deriving DecidableEq, Repr

/-- The two block-scale formats (R47). -/
inductive ScaleFmt where
  | e8m0 | fs8
  deriving DecidableEq, Repr

/-- The parameters of a floating-point format (R38): exponent bits, mantissa bits, bias, whether the
all-ones exponent holds infinity and NaN, and whether the all-ones code alone is a NaN (E4M3). -/
structure FloatSpec where
  ebits  : Nat
  mbits  : Nat
  bias   : Nat
  ieee   : Bool
  topNaN : Bool
  deriving DecidableEq, Repr

/-- An exact value (R38, R70): NaN, an infinity, or a signed fraction of two naturals. -/
inductive Val where
  | nan
  | inf (neg : Bool)
  | fin (neg : Bool) (num den : Nat)
  deriving DecidableEq, Repr

/-- A completion status (R11), one byte. -/
abbrev Status := BitVec 8

end Sys2Proof
end

