-- ==== Sys2Proof/Syntax.lean ====
section
/-!
DEFINITION. The commands of the block: every row of the operations table is one constructor of `Instr`,
with the operands the command carries.
-/
namespace Sys2Proof

/-- Where and when a kernel instruction issues (R113 to R117): the core, the quarter, which of the quarter's
group slots have a ready path as far as pipes and latencies go, and in the chosen group which lanes do.
Which of them issues is the block's own choice. -/
structure At where
  core   : Nat
  quarter : Nat
  groups : BitVec 16
  lanes  : BitVec 32
  deriving DecidableEq, Repr


/-- The commands of the block: one constructor for each row of the operations table. -/
inductive Instr where
  /-- REGISTER_WRITE (R6): A write to a register field that has no step of its own stores or clears the value as the field's type states. -/
  | registerWrite (agent off size v : Nat)
  /-- UNMAPPED_ACCESS (R8): A misaligned or wrong-size register access, or an access to an offset with no register, reads 0, drops the write and is logged as an unmapped access. -/
  | unmappedAccess (off size : Nat)
  /-- MESSAGE_DELIVERY (R288): An interrupt message reaches the IOD interrupt unit, is routed, takes its sequence number and is written to each enabled destination ring, or waits or is dropped. -/
  | messageDelivery (src : Nat)
  /-- RING_ENTRY_ACKNOWLEDGED (R288): The home acknowledges a ring entry write and the device writes the new tail into the ring header. -/
  | ringEntryAcknowledged (r : Nat)
  /-- RING_TAIL_ACKNOWLEDGED (R288): The home acknowledges the tail write and the device stores the ring identity to the target IMSIC file or sends the MSI-X vector. -/
  | ringTailAcknowledged (r : Nat)
  /-- RING_ENABLE (R291): Writing 1 to CC_NQ_CFG_n.enable checks the fields and placement, reads the header and enables the ring with tail, head and drop at 0, or records an error. -/
  | ringEnable (n v : Nat)
  /-- RING_DISABLE (R291): Writing 0 to CC_NQ_CFG_n.enable disables the ring and drops and counts its waiting messages. -/
  | ringDisable (n v : Nat)
  /-- CC_NQ_HEAD_WRITE (R291): A write of a control-complex ring's head is accepted unless it exceeds tail or leaves more than the ring size outstanding. -/
  | ccNqHeadWrite (n v : Nat)
  /-- HN_RING_ENABLE (R316): Writing 1 to FE_HN_CFG_n.enable checks the fields, reads the header over PCIe and enables the host notification ring or records an error. -/
  | hnRingEnable (n v : Nat) (readable : Bool)
  /-- HN_RING_DISABLE (R316): Writing 0 to FE_HN_CFG_n.enable disables the host notification ring and drops its waiting messages. -/
  | hnRingDisable (n v : Nat)
  /-- FE_HN_HEAD_WRITE (R316): A write of a host notification ring's head is accepted or dropped as for a control-complex ring. -/
  | feHnHeadWrite (n v : Nat)
  /-- GROUP_PLACE (R305): A later group of a launch is placed on the core that next frees a slot, in the quarter with fewest groups and its lowest free slot. -/
  | groupPlace (p n : Nat)
  /-- IADD (R143): Integer add. -/
  | iadd (a : At)
  /-- ISUB (R143): Integer subtract. -/
  | isub (a : At)
  /-- IMUL (R143): Low 32 bits of an integer product. -/
  | imul (a : At)
  /-- IMULHI_U (R143): High 32 bits of an unsigned integer product. -/
  | imulhiU (a : At)
  /-- IMULHI_S (R143): High 32 bits of a signed integer product. -/
  | imulhiS (a : At)
  /-- IMAD (R143): Integer multiply-add, low 32 bits. -/
  | imad (a : At)
  /-- IMIN_S (R143): Signed integer minimum. -/
  | iminS (a : At)
  /-- IMIN_U (R143): Unsigned integer minimum. -/
  | iminU (a : At)
  /-- IMAX_S (R143): Signed integer maximum. -/
  | imaxS (a : At)
  /-- IMAX_U (R143): Unsigned integer maximum. -/
  | imaxU (a : At)
  /-- AND (R143): Bitwise AND. -/
  | and (a : At)
  /-- OR (R143): Bitwise OR. -/
  | or (a : At)
  /-- XOR (R143): Bitwise XOR. -/
  | xor (a : At)
  /-- SHL (R143): Logical shift left. -/
  | shl (a : At)
  /-- SHR (R143): Logical shift right. -/
  | shr (a : At)
  /-- SAR (R143): Arithmetic shift right. -/
  | sar (a : At)
  /-- BFE_U (R143): Zero-extended bit-field extract. -/
  | bfeU (a : At)
  /-- BFE_S (R143): Sign-extended bit-field extract. -/
  | bfeS (a : At)
  /-- BFI (R143): Bit-field insert. -/
  | bfi (a : At)
  /-- POPC (R143): Population count. -/
  | popc (a : At)
  /-- CLZ (R143): Count leading zeros. -/
  | clz (a : At)
  /-- BREV (R143): Bit reverse. -/
  | brev (a : At)
  /-- MOV (R143): Register move. -/
  | mov (a : At)
  /-- SEL (R143): Select by predicate. -/
  | sel (a : At)
  /-- ISETP (R143): Integer compare writing a predicate. -/
  | isetp (a : At)
  /-- PSET (R143): Predicate truth-table combination. -/
  | pset (a : At)
  /-- IADD64 (R143): 64-bit add on register pairs. -/
  | iadd64 (a : At)
  /-- SHFL (R143): Cross-lane shuffle within the path. -/
  | shfl (a : At)
  /-- VOTE (R143): ALL, ANY or BALLOT across the path's lanes. -/
  | vote (a : At)
  /-- READLANE (R143): Copies one lane's register into a uniform register. -/
  | readlane (a : At)
  /-- FADD (R144): FP32 add. -/
  | fadd (a : At)
  /-- FMUL (R144): FP32 multiply. -/
  | fmul (a : At)
  /-- FFMA (R144): FP32 fused multiply-add with one rounding. -/
  | ffma (a : At)
  /-- FMIN (R144): FP32 minimum. -/
  | fmin (a : At)
  /-- FMAX (R144): FP32 maximum. -/
  | fmax (a : At)
  /-- FSETP (R144): FP32 compare writing a predicate. -/
  | fsetp (a : At)
  /-- RCP (R144): Correctly rounded reciprocal. -/
  | rcp (a : At)
  /-- RSQ (R144): Correctly rounded reciprocal square root. -/
  | rsq (a : At)
  /-- SQRT (R144): Correctly rounded square root. -/
  | sqrt (a : At)
  /-- EX2 (R144): Correctly rounded base-2 exponential. -/
  | ex2 (a : At)
  /-- LG2 (R144): Correctly rounded base-2 logarithm. -/
  | lg2 (a : At)
  /-- VDOT (R145): Defined dot product of 32 pairs accumulated into g(d). -/
  | vdot (a : At)
  /-- VDOT_Z (R145): Defined dot product of 32 pairs from a zero accumulator. -/
  | vdotZ (a : At)
  /-- CVT (R152): Element-form conversion of each lane's value. -/
  | cvt (a : At)
  /-- CVT_F2S (R146): Saturating conversion to signed 32-bit integer. -/
  | cvtF2s (a : At)
  /-- CVT_F2U (R146): Saturating conversion to unsigned 32-bit integer. -/
  | cvtF2u (a : At)
  /-- CVT_S2F (R146): Conversion from signed 32-bit integer. -/
  | cvtS2f (a : At)
  /-- CVT_U2F (R146): Conversion from unsigned 32-bit integer. -/
  | cvtU2f (a : At)
  /-- CVT_B16E (R152): Block-forming conversion in blocks of 16 with E8M0 scales. -/
  | cvtB16e (a : At)
  /-- CVT_B16F (R152): Block-forming conversion in blocks of 16 with FS8 scales. -/
  | cvtB16f (a : At)
  /-- CVT_B32E (R152): Block-forming conversion in a block of 32 with an E8M0 scale. -/
  | cvtB32e (a : At)
  /-- CVT_B32F (R152): Block-forming conversion in a block of 32 with an FS8 scale. -/
  | cvtB32f (a : At)
  /-- CVT_KBE (R152): KB encode of 32 FP32 lanes. -/
  | cvtKbe (a : At)
  /-- CVT_KBD (R152): KB decode to FP32. -/
  | cvtKbd (a : At)
  /-- LD (R147): Load from global memory, SLM, constants or the launch constant buffer. -/
  | ld (a : At)
  /-- ST (R147): Store to global memory or SLM. -/
  | st (a : At)
  /-- LDU (R147): Uniform load from CONST or LCB. -/
  | ldu (a : At)
  /-- ATOM_ADD (R151): Atomic add returning the old value. -/
  | atomAdd (a : At)
  /-- ATOM_MIN (R151): Atomic minimum. -/
  | atomMin (a : At)
  /-- ATOM_MAX (R151): Atomic maximum. -/
  | atomMax (a : At)
  /-- ATOM_AND (R151): Atomic AND. -/
  | atomAnd (a : At)
  /-- ATOM_OR (R151): Atomic OR. -/
  | atomOr (a : At)
  /-- ATOM_XOR (R151): Atomic XOR. -/
  | atomXor (a : At)
  /-- ATOM_EXCH (R151): Atomic exchange. -/
  | atomExch (a : At)
  /-- ATOM_CAS (R151): Atomic compare and swap. -/
  | atomCas (a : At)
  /-- SEM_SIG (R155): Adds to a core semaphore after the group's SLM stores complete and wakes satisfied waiters. -/
  | semSig (a : At)
  /-- SEM_WAIT (R155): Each thread waits until the semaphore reaches its target. -/
  | semWait (a : At)
  /-- SEM_RD (R149): Reads a core semaphore into a uniform register. -/
  | semRd (a : At)
  /-- BAR_ARV (R387): Arrives once at a barrier of the named scope, or is held as a repeated arrival. -/
  | barArv (a : At)
  /-- BRA (R156): Relative branch. -/
  | bra (a : At)
  /-- BRX (R156): Indirect branch to a register pair. -/
  | brx (a : At)
  /-- CALL (R156): Branch saving the return address. -/
  | call (a : At)
  /-- EXIT (R122): Threads of the path exit; a group with all threads exited frees its slot. -/
  | exitThreads (a : At)
  /-- GJOIN (R120): Threads wait until every thread of the mask has exited or waits at the same GJOIN. -/
  | gjoin (a : At)
  /-- YIELD (R121): Resets the path's starvation count and makes it not ready for the next issue. -/
  | yield (a : At)
  /-- BRK (R149): Raises the break kernel trap. -/
  | brk (a : At)
  /-- NOP (R149): No effect. -/
  | nop (a : At)
  /-- MLOAD (R153): Checks and queues a load of the shadow stationary set. -/
  | mload (a : At)
  /-- MSWAP (R85): Queues an exchange of the stationary buffers. -/
  | mswap (a : At)
  /-- MSTREAM (R153): Checks operands and extents and queues a stream of rows through the array. -/
  | mstream (a : At)
  /-- MDRAIN (R99): Checks and queues a drain of accumulator rows with conversion. -/
  | mdrain (a : At)
  /-- ACC_RD (R149): Reads an accumulator element per lane, ordered by tile busy state. -/
  | accRd (a : At)
  /-- ACC_WR (R149): Writes an accumulator element per lane, ordered by tile busy state. -/
  | accWr (a : At)
  /-- TM_COPY (R180): Queues a raw copy of a tensor at the tensor mover. -/
  | tmCopy (a : At)
  /-- TM_XPOSE (R181): Queues a transposed copy of a tensor into SLM at the tensor mover. -/
  | tmXpose (a : At)
  /-- FT_RD (R159): Reads a snapshot of the core's frame-time replica. -/
  | ftRd (a : At)
  /-- FT_WAIT (R159): Each thread waits until frame time reaches the target key. -/
  | ftWait (a : At)
  /-- FT_WAIT_RELEASE (R159): A thread waiting in FT.WAIT becomes ready when the replica reaches its target. -/
  | ftWaitRelease (n : Nat)
  /-- WATCH (R160): Queues the presentation of a tensor to a Clove slot at the tensor mover. -/
  | watch (a : At)
  /-- FENCE_PUB (R157): The path waits until every earlier global write of the group is acknowledged. -/
  | fencePub (a : At)
  /-- CACHE_INV (R158): Invalidates the core's L1 once the group has no global load outstanding. -/
  | cacheInv (a : At)
  /-- CORE_STOPPED (R124): A core of a stopped launch reports that it has stopped and its stores have completed. -/
  | coreStopped (n : Nat)
  /-- QUARTER_GATE (R383): A quarter gates its issue clock after 8 cycles with no active path while a thread waits. -/
  | quarterGate (n q cycles : Nat)
  /-- SLM_GRANT (R168): The SLM thread side grants a waiting quarter's instruction and runs its passes. -/
  | slmGrant (n cycles : Nat)
  /-- MEMORY_ACCESS_CHECK (R251): A global access is translated and checked, raising a memory fault or waiting or paging in. -/
  | memoryAccessCheck (n id : Nat)
  /-- TABLE_WALK_COMPLETE (R247): A translation table walk returns and the translation is installed. -/
  | tableWalkComplete (n id : Nat)
  /-- LOAD_RETURN (R242): Data of a global load returns to the core, filling the L1 unless invalidated. -/
  | loadReturn (n id : Nat)
  /-- WRITE_ACKNOWLEDGE (R238): A global write's acknowledgement returns from its point of coherence. -/
  | writeAcknowledge (n id : Nat)
  /-- SLICE_LINE_REQUEST (R237): A line request arrives at a stack-cache slice and is served as a hit, a miss or a merge, with recalls of hart copies. -/
  | sliceLineRequest (n id line victim : Nat)
  /-- HBM_RUN_COMPLETE (R234): An HBM access run completes and its fill or write-back data is installed. -/
  | hbmRunComplete (line : Nat)
  /-- AGE_PROMOTE (R236): A bulk request that has waited age_limit SCLK cycles is served as class 0 from then on. -/
  | agePromote (line : Nat)
  /-- SLICE_INVALIDATE_COMPLETE (R240): A slice finishes invalidating all lines after reset. -/
  | sliceInvalidateComplete (slice : Nat)
  /-- SYSTEM_CACHE_INVALIDATE_COMPLETE (R246): The system cache finishes invalidating all sets after reset. -/
  | systemCacheInvalidateComplete
  /-- TLB_INVALIDATE_CONFIRMED (R252): Every TLB holder confirms an entry invalidation and the causing command completes or the page returns. -/
  | tlbInvalidateConfirmed
  /-- PAGE_CLEAR_COMPLETE (R253): A page being cleared to zero is complete and may be mapped. -/
  | pageClearComplete (frame : Nat)
  /-- THERMAL_READ (R260): Every 1 ms PWR reads each stack's temperature and updates the die throttle levels. -/
  | thermalRead (stack temp : Nat)
  /-- MATRIX_DISPATCH (R93): The matrix instruction at the queue head leaves for its free unit once its dependences are met. -/
  | matrixDispatch (n bubble : Nat)
  /-- MLOAD_COMPLETE (R84): The loader has written the last row of the shadow set and signals its semaphore. -/
  | mloadComplete (n : Nat)
  /-- MSTREAM_COMPLETE (R102): The last output row of an MSTREAM is available and its semaphore is signalled. -/
  | mstreamComplete (n stall : Nat)
  /-- DRAIN_DESTINATION_READ_RETURN (R98): A drain-through destination row read returns and releases a waiting row. -/
  | drainDestinationReadReturn (n : Nat)
  /-- MDRAIN_COMPLETE (R99): MDRAIN writes its last row and signals its semaphore. -/
  | mdrainComplete (n : Nat)
  /-- LAUNCH_CLEAR_COMPLETE (R92): The launch-start accumulator and SLM clears finish and waiting accesses proceed. -/
  | launchClearComplete (n : Nat)
  /-- TENSOR_MOVER_START (R179): A tensor-mover or WATCH instruction at the head starts once the group's earlier writes have completed. -/
  | tensorMoverStart (n : Nat)
  /-- TENSOR_MOVER_COMPLETE (R182): Every write of a mover instruction is done and its semaphore is signalled. -/
  | tensorMoverComplete (n : Nat)
  /-- OFFLOAD (R200): Cassia allocates host pages, marks the range leaving and copies it to the host tier, or leaves the slot RETAINED. -/
  | offload (k : Nat)
  /-- OFFLOAD_ACKNOWLEDGED (R200): All OFFLOAD writes are acknowledged; the range is invalidated, marked off-loaded and the slot set HOST. -/
  | offloadAcknowledged
  /-- PREFETCH (R201): Cassia brings an off-loaded tensor back to HBM page by page, or frees a FREE or RETAINED slot at once. -/
  | prefetch (k : Nat)
  /-- PREFETCH_PAGE_MAPPED (R201): A prefetched page lands and is mapped; after the last, the slot becomes FREE. -/
  | prefetchPageMapped
  /-- DISCARD (R202): Returns a slot's host pages and sets it FREE without moving data. -/
  | casDiscard (k : Nat)
  /-- PAGE_IN_COMPLETE (R203): A page-in maps its page and the waiting accesses proceed. -/
  | pageInComplete
  /-- UPDATE (R213): A Saffron UPDATE is released to all twelve units, each taking the records in its stack. -/
  | safUpdate (k : Nat)
  /-- FACTOR_LOAD (R221): Each Saffron unit copies 128 KiB into a factor slot. -/
  | factorLoad (k : Nat)
  /-- PROG_LOAD (R222): Each Saffron unit checks and stores an update program in a program slot. -/
  | progLoad (k : Nat)
  /-- RECORD_UPDATE (R214): A unit applies one optimizer step to a record once its record and gradient reads return. -/
  | recordUpdate (u k n : Nat)
  /-- FACTOR_LOAD_COPY_COMPLETE (R221): A unit's copy of a factor or program slot completes and the slot becomes valid in that unit. -/
  | factorLoadCopyComplete (u k : Nat)
  /-- SAFFRON_COMMAND_COMPLETE (R213): Every unit has finished a Saffron command and every write is acknowledged; flags are ORed and it completes. -/
  | saffronCommandComplete (k : Nat)
  /-- MAP (R256): Creates an object with cleared pages from the partition pool, or waits for pages. -/
  | mapObject (k : Nat)
  /-- MAP_RESUME (R256): A waiting MAP proceeds when enough pages or object entries have freed. -/
  | mapResume (k : Nat)
  /-- UNMAP (R325): An object becomes DRAINING with its drain stamp and the UNMAP completes OK. -/
  | unmapObject (k : Nat)
  /-- ALIAS (R256): Creates a legacy-tagged object whose leaves map a storage object. -/
  | aliasObject (k : Nat)
  /-- MODEL_REG (R257): Registers a model or maps an existing one read-only into the context. -/
  | modelReg (k : Nat)
  /-- MODEL_DEREG (R257): Removes the context's mapping of a model. -/
  | modelDereg (k : Nat)
  /-- MODEL_PIN (R258): Raises a model's pin count. -/
  | modelPin (k : Nat)
  /-- MODEL_UNPIN (R258): Lowers a model's pin count. -/
  | modelUnpin (k : Nat)
  /-- MODEL_HOT (R258): Starts promotion of a model and completes when it is HOT. -/
  | modelHot (k : Nat)
  /-- PROMOTION_PAGE_LANDED (R258): A promoted page lands in HBM and its leaf is switched to the hot frame. -/
  | promotionPageLanded (k : Nat)
  /-- EVICTION_COMPLETE (R258): An evicting model's leaves are back on the warm copy and its hot pages return to the pool. -/
  | evictionComplete (k : Nat)
  /-- HART_LOAD (R272): A hart load is performed under RVWMO or IO ordering with forwarding from its buffers. -/
  | hartLoad (h pa n pbmt : Nat) (mmode fetch : Bool)
  /-- HART_STORE (R274): A hart store enters the store buffer or combining buffer after its checks. -/
  | hartStore (h pa n v pbmt : Nat) (ntl mmode : Bool)
  /-- HART_AMO (R277): A hart AMO is performed in the L1 or at the home. -/
  | hartAmo (h pa op n v cmp pbmt : Nat) (rl mmode : Bool)
  /-- LR (R278): Load-reserved sets a reservation on a 64-B granule. -/
  | lr (h pa n pbmt : Nat) (rl mmode : Bool)
  /-- SC (R278): Store-conditional succeeds only with a reservation and ends it. -/
  | sc (h pa n v pbmt : Nat) (rl mmode : Bool)
  /-- FENCE (R273): Orders the hart's accesses, flushing combining-buffer entries when its predecessor set includes W. -/
  | fence (h pred succ : Nat)
  /-- FENCE_I (R266): Orders the hart's stores before its later fetches. -/
  | fenceI (h : Nat)
  /-- CBO_ZERO (R277): Writes a 64-B block of zeros as one access. -/
  | cboZero (h pa pbmt : Nat) (mmode : Bool)
  /-- WRS_NTO (R280): Stops the hart until its reservation is lost or an enabled interrupt is pending. -/
  | wrsNto (h : Nat)
  /-- WRS_STO (R280): As WRS.NTO with a 1 µs limit. -/
  | wrsSto (h : Nat)
  /-- WRS_TIMEOUT (R280): A WRS.STO ends after 3,000 HCLK cycles. -/
  | wrsTimeout (h : Nat)
  /-- HART_TRAP_ENTRY (R282): A hart takes a trap after draining its store and combining buffers, losing its reservation. -/
  | hartTrapEntry (h cause : Nat)
  /-- STORE_BUFFER_DRAIN (R274): The store-buffer head entry leaves once its line is held M or it is sent to its IO target. -/
  | storeBufferDrain (h : Nat)
  /-- COMBINING_IDLE_TIMEOUT (R275): 256 HCLK cycles after its last merge a combining-buffer entry is written out. -/
  | combiningIdleTimeout (h block : Nat)
  /-- RESERVATION_HOLD_EXPIRY (R279): A write recall held by a reservation proceeds after 64 HCLK cycles. -/
  | reservationHoldExpiry (h : Nat)
  /-- HART_POWERDOWN_ACK (R284): A hart finishes draining and writing back and acknowledges the power-down request. -/
  | hartPowerdownAck (h : Nat)
  /-- HANDSHAKE_TIMEOUT (R284): No acknowledgement 100 µs after the request: the domain stays on and the command completes with TIMEOUT. -/
  | handshakeTimeout (d : Nat)
  /-- DOORBELL (R294): A doorbell write is accepted, making entries fetchable and stamping them, or dropped. -/
  | doorbell (q v : Nat) (whole : Bool)
  /-- ENTRY_FETCH (R293): A batch of ring entries returns to the front end and head is written. -/
  | entryFetch (q n : Nat)
  /-- ENTRY_RELEASE (R298): The front end releases a queue's next entry to its executor, or completes it CONTEXT_LOST for a lost context. -/
  | entryRelease (q : Nat)
  /-- ENTRY_COMPLETE (R298): An entry completes, FE_QDONE is written and its notification and subscription messages are queued. -/
  | entryComplete (k : Nat)
  /-- ENTRY_TIMEOUT (R299): An entry exceeds its time limit, is stopped and completes with TIMEOUT, losing its context. -/
  | entryTimeout (k : Nat)
  /-- ENTRY_NOP (R296): A NOP entry completes at once; with notify it is a fence. -/
  | entryNop (k : Nat)
  /-- LAUNCH (R304): A LAUNCH entry's descriptor is checked and, if valid, is chosen to run. -/
  | launch (k : Nat)
  /-- WAIT (R300): A WAIT entry completes when another queue's FE_QDONE or frame time reaches its target. -/
  | waitEntry (k : Nat)
  /-- WAIT_FRAME_TIME_REACHED (R300): A mode-1 WAIT completes when the front end's replica reaches its key. -/
  | waitFrameTimeReached (k : Nat)
  /-- CHIP (R433): A CHIP entry's command is sent to the chiplet in a CMD message with a unique tag. -/
  | chip (k tag : Nat)
  /-- GRAPH_RUN (R311): A GRAPH_RUN binds its version and starts releasing ready nodes. -/
  | graphRun (k : Nat)
  /-- GRAPH_CREATE (R310): Copies a graph image into the store as version 1. -/
  | graphCreate (k : Nat)
  /-- GRAPH_PATCH (R310): Creates the next version with replaced nodes. -/
  | graphPatch (k : Nat)
  /-- GRAPH_DESTROY (R310): Ends a graph once its runs complete. -/
  | graphDestroy (k : Nat)
  /-- SLOT_MAP (R302): Firmware maps a READY queue into a free or reclaimed slot. -/
  | slotMap (q slot : Nat)
  /-- PRELOAD (R307): The front end loads the next launch's descriptor, constant buffer and code into the cores' shadow sets. -/
  | preload (p k : Nat)
  /-- PRELOAD_COMPLETE (R307): A preload's reads have all returned. -/
  | preloadComplete (p : Nat)
  /-- LAUNCH_START (R308): The start command installs the shadow sets, starts the clears and places the first wave. -/
  | launchStart (p : Nat)
  /-- LAUNCH_COMPLETE (R306): Every core of a launch has drained and the launch completes; the scheduler chooses the next candidate. -/
  | launchComplete (p : Nat)
  /-- EPOCH_MOVE (R314): A unit moves to the next mode epoch once it holds nothing stamped earlier. -/
  | epochMove (u : Nat)
  /-- QUEUE_ENABLE (R317): Writing 1 to FE_QCTL_q.enable checks the fields and ring and enables the queue. -/
  | queueEnable (q : Nat)
  /-- QUEUE_DISABLE (R317): Writing 0 to FE_QCTL_q.enable disables an idle queue or is dropped. -/
  | queueDisable (q : Nat)
  /-- QUEUE_DESTROY (R333): Writing 1 to FE_QCTL_q.destroy closes the queue and stops its running work. -/
  | queueDestroy (q : Nat)
  /-- DESTROY_QUIESCED (R333): Engines holding the queue's work have quiesced; remaining entries complete ABORTED and the queue is disabled. -/
  | destroyQuiesced (q : Nat)
  /-- CREATE (R342): Makes a FREE context LIVE in a partition. -/
  | ctxCreate (cc : Bool)
  /-- KILL (R335): Makes a LIVE context LOST with cause 6. -/
  | ctxKill
  /-- DESTROY (R337): Starts ending a context, destroying its queues, graphs, slots, subscriptions and objects. -/
  | ctxDestroy
  /-- CONTEXT_DESTROY_COMPLETE (R337): After its queues are destroyed the context's tables are returned and it becomes FREE. -/
  | contextDestroyComplete (ctx : Nat)
  /-- MEMCMD (R342): Executes a memory command from a physical address with nowait forced. -/
  | memcmd
  /-- MAP_IO (R342): Creates an object with IO leaves in the PCIe or chiplet window. -/
  | mapIo
  /-- SUBSCRIBE (R331): Creates a subscription to a queue's entry, or returns ALREADY_DONE or BAD_ARG. -/
  | subscribe
  /-- UNSUBSCRIBE (R342): Removes a subscription of the selected context. -/
  | unsubscribe
  /-- FE_CTX_FLAGS_CLEAR (R323): Writing 1s to FE_CTX_FLAGS clears bits of the selected context's flag word. -/
  | feCtxFlagsClear (v : Nat)
  /-- OBJECT_FREE (R326): A DRAINING object with no holder left is invalidated, its pages returned and its Cassia slots freed. -/
  | objectFree (id : Nat)
  /-- FUNCTION_LEVEL_RESET (R339): A PCIe function reset disables host rings and loses and destroys every HOST-owned context. -/
  | functionLevelReset
  /-- BUCKET_REFILL (R345): Every 0.5 µs each token bucket refills and held requests are admitted. -/
  | bucketRefill
  /-- SWAP_OUT_COMPLETE (R353): A context's HBM pages have moved to the host tier and it becomes SWAPPED. -/
  | swapOutComplete (ctx : Nat)
  /-- SWAP_IN_COMPLETE (R353): A context's moved pages are back in HBM and it becomes RESIDENT. -/
  | swapInComplete (ctx : Nat)
  /-- LAUNCH_SAVED (R355): Every core has written its save record and the launch is saved. -/
  | launchSaved (p : Nat)
  /-- RESTORE_COMPLETE (R357): A saved launch's records are restored and its first instruction follows. -/
  | restoreComplete (p : Nat)
  /-- STEP_RELEASE (R360): Frame time reaches a batch step's release; its models are acquired and it becomes a candidate. -/
  | stepRelease (k : Nat)
  /-- MERIDIAN_EVALUATION (R363): At the decision tick Meridian predicts the step's end and abandons it for the fallback if late. -/
  | meridianEvaluation (k : Nat)
  /-- PTP_EVENT_MESSAGE (R372): A PTP message received on the FTB port is timestamped and processed. -/
  | ptpEventMessage (completes : Bool) (ns : Nat)
  /-- ANALOG_FRAME_START (R373): The chiplet reports an analogue frame start, forming a measurement and applying an armed alignment. -/
  | analogFrameStart (period lines : Nat)
  /-- FTB_LOSS_TIMEOUT (R374): No measurement for loss_ms moves a LOCKED FTB to HOLDOVER. -/
  | ftbLossTimeout
  /-- RESYNC (R375): Writing 1 to FTB_CTL.resync requests a step to the reference at the next measurement. -/
  | resync
  /-- FTB_ALIGN_ARM (R392): Setting FTB_ALIGN.arm sets the frame count at the next analogue frame start. -/
  | ftbAlignArm (frame : Nat)
  /-- BARRIER_CONTRIBUTION (R386): A contribution reaches a tree level; a counter reaching its count contributes upward or completes the barrier. -/
  | barrierContribution (part idx : Nat)
  /-- BARRIER_RELEASE (R387): A barrier release reaches a core, increments the named semaphores and releases held arrivals. -/
  | barrierRelease (n b : Nat)
  /-- ARRIVE (R389): An ARRIVE datagram from a child is counted or answered with a resent RELEASE. -/
  | nbgArrive (port d : Nat)
  /-- RELEASE (R389): A RELEASE datagram from the parent completes the phase and is forwarded down. -/
  | nbgRelease (port d : Nat)
  /-- ARRIVE_RESEND (R389): After retry_us without a RELEASE the node resends ARRIVE. -/
  | arriveResend (g b : Nat)
  /-- NBG_ENABLE (R392): Writing 1 to BT_NBG_STATUS_g.enable sets every phase to 0 and clears abandoned. -/
  | nbgEnable (g : Nat)
  /-- LANE_FAILURE (R397): An optical lane's error rate or fault substitutes the spare or degrades the port, retraining the link. -/
  | laneFailure (port lane : Nat)
  /-- LINK_UP (R398): A port's link comes up and a message is sent. -/
  | linkUp (p : Nat)
  /-- LINK_DOWN (R398): A port's link goes down and a message is sent. -/
  | linkDown (p : Nat)
  /-- RECEIVE_FRAME (R401): A frame not handled by the device is written to the port's receive frame ring or dropped. -/
  | receiveFrame (port : Nat) (data : List Byte)
  /-- TRANSMIT_FRAME (R401): A frame written by the stack to the transmit frame ring is sent unchanged. -/
  | transmitFrame (port : Nat)
  /-- NODE_TABLE_ENABLE (R400): Writing 1 to NET_NODETAB.enable checks the node table header. -/
  | nodeTableEnable (v : Nat)
  /-- CONNECTION_INSTALL (R403): Writing enable = 1 installs a RoCEv2 connection in RTS. -/
  | connectionInstall (v : Nat)
  /-- CONNECTION_RESET (R403): Writing enable = 0 returns a connection to RESET. -/
  | connectionReset (v : Nat)
  /-- REGION_ENABLE (R404): Writing enable = 1 checks and enables a region, raising its generation and clearing reduce counters. -/
  | regionEnable (v : Nat)
  /-- REGION_DISABLE (R404): Writing enable = 0 disables a region. -/
  | regionDisable (v : Nat)
  /-- RDMA_WRITE_REQUEST (R404): An inbound RDMA WRITE is checked against its region and applied, or NAKed. -/
  | rdmaWriteRequest (qpn psn op rkey off len rank : Nat) (first last ce notify : Bool) (imm : Nat) (data : List Byte) (poison : List Nat)
  /-- RDMA_READ_REQUEST (R404): An inbound RDMA READ is checked and answered. -/
  | rdmaReadRequest (qpn psn rkey off len : Nat) (ce : Bool)
  /-- RDMA_READ_RESPONSE (R406): READ response data arrives and is written locally. -/
  | rdmaReadResponse (qpn psn : Nat) (ce : Bool) (data : List Byte)
  /-- ROCE_ACK (R406): An acknowledgement arrives; a WRITE or RWRITE whose packets are all acknowledged completes. -/
  | roceAck (qpn psn : Nat) (ce : Bool)
  /-- ROCE_NAK (R403): A NAK arrives; RNR retries, others put the connection in ERROR and complete the command. -/
  | roceNak (qpn psn code : Nat) (ce : Bool)
  /-- ACK_TIMEOUT (R402): An acknowledgement timeout triggers go-back-N retransmission or exhausts retries. -/
  | ackTimeout (conn : Nat)
  /-- RNR_RETRY_TIMER (R409): 10 µs after an RNR NAK the sender retries. -/
  | rnrRetryTimer (conn : Nat)
  /-- CNP_RECEIVED (R402): A CNP halves the connection's send rate. -/
  | cnpReceived (qpn : Nat)
  /-- RATE_INCREASE_TIMER (R402): Each 55 µs without a CNP raises the connection's rate. -/
  | rateIncreaseTimer (conn : Nat)
  /-- WRITE (R405): Sends an RDMA WRITE on a connection. -/
  | netWrite (k n : Nat)
  /-- READ (R405): Sends an RDMA READ on a connection. -/
  | netRead (k : Nat)
  /-- RWRITE (R408): Sends reduce contributions of a rank to a reduce region. -/
  | rwrite (k n : Nat)
  /-- MIRROR (R414): Copies records into a shard copy of the partner's hold area. -/
  | mirror (k n held : Nat)
  /-- DIGEST (R415): Sends a Clove record to the twin for comparison. -/
  | digest (k : Nat)
  /-- REFILL (R418): Sends a shard's newest complete copy to the replacement module. -/
  | refill (k n : Nat)
  /-- HELLO (R412): A received HELLO qualifies and advances pairing toward PAIRED. -/
  | hello (seq gen node mac serial cap size inst : Nat) (twinRole seen : Bool)
  /-- HELLO_TIMER (R412): Every 100 µs an unpaired module sends HELLO. -/
  | helloTimer
  /-- HEARTBEAT (R412): A received HEARTBEAT keeps the pair alive. -/
  | heartbeat (seq : Nat)
  /-- HEARTBEAT_TIMER (R412): Every 10 µs without other twin traffic a paired module sends HEARTBEAT. -/
  | heartbeatTimer
  /-- JOURNAL (R413): A received JOURNAL stores advancing FE_QDONE pairs and its stamp. -/
  | journal (seq lo hi : Nat) (pairs : List Nat)
  /-- JOURNAL_SWEEP (R413): Every 1 ms all 1,024 FE_QDONE values are sent. -/
  | journalSweep
  /-- SHARD_BEGIN (R414): The partner marks a shard copy FILLING. -/
  | shardBegin (seq shard copy len : Nat)
  /-- SHARD_END (R414): The partner marks a shard copy COMPLETE and newest. -/
  | shardEnd (seq shard copy : Nat)
  /-- DIGEST_RECEIVED (R415): A received DIGEST is compared with the local record or held. -/
  | digestReceived (seq slot tag : Nat) (record : List Byte)
  /-- DIGEST_RESULT (R415): A received result completes the DIGEST and a message is sent. -/
  | digestResult (seq slot tag result : Nat)
  /-- DIGEST_HOLD_EXPIRY (R415): An unmatched digest record expires with result EXPIRED. -/
  | digestHoldExpiry
  /-- DETACH (R416): A received DETACH takes the module to DETACHED with cause 1. -/
  | detach (seq : Nat)
  /-- COMMANDED_DETACH (R416): Writing NET_TWIN_CTL.detach waits for twin commands, sends a journal sweep and DETACH. -/
  | commandedDetach
  /-- TWIN_LOSS (R416): Nothing received for loss_us dissolves the pair on the survivor. -/
  | twinLoss
  /-- PAIRING_TIMEOUT (R412): A PAIRING module hearing nothing for loss_us returns to its previous state. -/
  | pairingTimeout
  /-- ADAPTER_RETRY (R421): A flit fails its CRC and is retried, taking the link down after 8 retries. -/
  | adapterRetry (l n : Nat) (ok : Bool)
  /-- RD (R426): Finov read request for a 128-B line. -/
  | finovRd (l : Nat) (flits : List Byte)
  /-- WR (R426): Finov full-line write. -/
  | finovWr (l : Nat) (flits : List Byte)
  /-- WRP (R426): Finov partial write with a byte mask. -/
  | finovWrp (l : Nat) (flits : List Byte)
  /-- ATOM (R426): Finov atomic request. -/
  | finovAtom (l op ty v cmp : Nat) (flits : List Byte)
  /-- DATA (R426): Finov line data response. -/
  | finovData (l : Nat) (flits : List Byte)
  /-- ACK (R426): Finov write acknowledgement. -/
  | finovAck (l : Nat) (flits : List Byte)
  /-- ATOM_RSP (R426): Finov atomic old-value response. -/
  | atomRsp (l : Nat) (flits : List Byte)
  /-- FWD_S (R268): A home forwards a read to the M holder, which supplies data and goes to S. -/
  | fwdS (l h : Nat) (flits : List Byte)
  /-- FWD_I (R268): A home forwards a write to the M holder, which supplies data and goes to I. -/
  | fwdI (l h : Nat) (flits : List Byte)
  /-- INV (R268): A home invalidates a hart copy. -/
  | finovInv (l h : Nat) (flits : List Byte)
  /-- CACK (R268): A hart acknowledges a coherence request. -/
  | cack (l : Nat) (flits : List Byte)
  /-- CDATA (R268): A hart acknowledges with a 64-B half of write-back data. -/
  | cdata (l : Nat) (flits : List Byte)
  /-- MSG (R426): An interrupt message carried over Finov. -/
  | finovMsg (l : Nat) (flits : List Byte)
  /-- REG_RD (R426): Register read over DBG or MGMT. -/
  | regRd (l : Nat) (dbg : Bool) (flits : List Byte)
  /-- REG_WR (R426): Register write over DBG or MGMT. -/
  | regWr (l : Nat) (dbg : Bool) (flits : List Byte)
  /-- REG_RSP (R426): Register read data or write acknowledgement. -/
  | regRsp (l : Nat) (dbg : Bool) (flits : List Byte)
  /-- CHIPLET_LINK_ACTIVE (R430): The chiplet link becomes active and each side sends CAP. -/
  | chipletLinkActive
  /-- CAP (R431): A chiplet capability offer is negotiated, making the site ACTIVE or isolating it. -/
  | chipCap (flits : List Byte)
  /-- CAP_TIMEOUT (R431): No CAP within 1 ms isolates the site. -/
  | capTimeout
  /-- CMD (R433): A chiplet command is received by the chiplet. -/
  | chipCmd (tag : Nat) (fields : List Nat)
  /-- ABORT (R433): The IOD asks the chiplet to stop a command. -/
  | chipAbort (tag : Nat)
  /-- DONE (R433): The chiplet ends a command and its result becomes the completion status. -/
  | chipDone (flits : List Byte)
  /-- ABORT_TIMEOUT (R433): No DONE within 1 s of ABORT isolates the site. -/
  | abortTimeout (tag : Nat)
  /-- CHIPLET_ISOLATE (R432): Writing D2D_CHIP_CTL.isolate isolates the chiplet site. -/
  | chipletIsolate
  /-- CHIPLET_RENEGOTIATE (R432): Writing D2D_CHIP_CTL.renegotiate retrains an isolated site. -/
  | chipletRenegotiate
  /-- DECODE (R434): The Frame I/O chiplet decodes an AV1 or HEVC bitstream to the host tier. -/
  | chipDecode (tag frame : Nat) (data : List Byte)
  /-- SDI_FRAME (R434): The Frame I/O chiplet outputs a frame on an SDI output at its present key. -/
  | sdiFrame (tag out : Nat)
  /-- PWR_AUTH_WRITE (R436): A write to PWR_AUTH.holder changes the power authority holder. -/
  | pwrAuthWrite (agent v : Nat)
  /-- PCIE_LINK_DOWN_FALLBACK (R437): With fallback_cc, after the PCIe link has been down 1 s the holder becomes CC. -/
  | pcieLinkDownFallback
  /-- DENIED_WRITE (R437): A power write from the agent that is not the holder is dropped and counted. -/
  | deniedWrite (agent off : Nat)
  /-- PCU_SAMPLE (R438): Every 10 µs the PCU samples junction temperature and rail current and sets throttle levels. -/
  | pcuSample (temps : List Nat) (amps mv gated : Nat)
  /-- DOMAIN_ON (R442): Starts a power domain or latches a pending enable. -/
  | domainOn (agent d : Nat)
  /-- DOMAIN_OFF (R442): Drains and switches off a power domain where R440 allows. -/
  | domainOff (agent d : Nat)
  /-- DOMAIN_STARTUP_COMPLETE (R441): A domain finishes start-up and is ON. -/
  | domainStartupComplete (d : Nat)
  /-- DOMAIN_SHUTDOWN_COMPLETE (R441): A domain finishes shutdown and is OFF, starting again if an enable is pending. -/
  | domainShutdownComplete (d : Nat)
  /-- SET_OP (R444): Commits a new die operating point by raising the mode epoch. -/
  | setOp (agent mask mhz : Nat)
  /-- SET_FSP (R444): Commits a new host-tier frequency set point by raising the mode epoch. -/
  | setFsp (agent point : Nat)
  /-- PLL_RELOCK_COMPLETE (R444): A die's PLL relocks at its new frequency. -/
  | pllRelockComplete (d : Nat)
  /-- SELF_REFRESH_EXIT (R444): The host tier leaves self-refresh after a set-point change. -/
  | selfRefreshExit
  /-- SHUTDOWN (R455): Unloads the image, runs the shutdown self-test, writes the record and switches domains off. -/
  | shutdown (agent kib : Nat)
  /-- SHUTDOWN_SELF_TEST_COMPLETE (R461): The shutdown programme finishes and the record is sealed and written. -/
  | shutdownSelfTestComplete (found cleared : List (List Byte))
  /-- HART_RESTART (R456): Starts a stopped hart at the reset vector. -/
  | hartRestart (agent h : Nat)
  /-- HART_RESET (R283): Applies a commanded reset to one hart. -/
  | hartReset (agent h : Nat)
  /-- POWER_GOOD (R447): The PCU reports power good and the boot ROM starts. -/
  | powerGood
  /-- ROM_COMPLETE (R447): The boot ROM has read fuses, started the CSB, trained PCIe and started the responder. -/
  | romComplete
  /-- FETCH (R448): Writing FETCH starts reading a boot object over PCIe into the boot buffer. -/
  | bootFetch
  /-- FETCH_COMPLETE (R448): A fetched object has been read and is presented to the phase awaiting it. -/
  | fetchComplete (ok : Bool)
  /-- SKIP_RECORD (R447): Writing SKIP_RECORD ends AWAIT_RECORD and selects boot self-test. -/
  | skipRecord
  /-- TRAINING_COMPLETE (R462): Training of an HBM stack, LPDDR5X channel or internal Finov link succeeds or makes the module unserviceable. -/
  | trainingComplete (u : Nat) (ok : Bool)
  /-- BOOT_CHECK_COMPLETE (R461): The boot check finishes, passing to APPLY or falling back to boot self-test. -/
  | bootCheckComplete (found : List (List Byte))
  /-- BOOT_SELF_TEST_COMPLETE (R461): Boot self-test finishes and repairs are chosen or the module is unserviceable. -/
  | bootSelfTestComplete (found : List (List Byte))
  /-- APPLY_COMPLETE (R454): The image is applied, the tree built, unused domains switched off and state becomes CONFIGURED. -/
  | applyComplete
  /-- QUIESCE (R454): Writing QUIESCE makes the image QUIESCING and detaches a paired twin. -/
  | quiesce (agent : Nat)
  /-- STATUS_REQ (R453): The boot responder answers with STATUS carrying GLB_BOOT_STATUS. -/
  | statusReq (src object seq : Nat)
  /-- PUT (R453): The boot responder writes a payload into the boot buffer, binding to its sender. -/
  | bootPut (src object seq off : Nat) (data : List Byte)
  /-- COMMIT (R453): The boot responder presents the object and answers COMMIT_ACK. -/
  | bootCommit (src object seq len : Nat)
  /-- RESPONDER_BINDING_TIMEOUT (R453): After 10 s without a datagram the responder's binding ends. -/
  | responderBindingTimeout
  /-- CORRECTED_ERROR (R469): A correctable error is corrected, counted and logged. -/
  | correctedError (site unit row addr : Nat) (pages : List Nat)
  /-- UNCORRECTABLE_ERROR (R470): An uncorrectable error poisons its line, or is fatal in a tag or directory, and is logged. -/
  | uncorrectableError (site unit addr : Nat)
  /-- SPARE_SIGNATURE_TEST_COMPLETE (R467): A spare finishes its 2 ms signature test and enters service or is retired. -/
  | spareSignatureTestComplete (c : Nat) (ok : Bool)
  /-- PAGE_RELOAD_COMPLETE (R472): A bad hot-model page is reloaded from the warm copy, its leaf switched and the frame retired. -/
  | pageReloadComplete
  /-- FATAL_RESET (R475): Writing RAS_CTL.fatal_reset after a fatal error reinitialises the module. -/
  | fatalReset (agent : Nat)
  /-- RAS_LOG_SEL_WRITE (R475): Writing RAS_LOG_SEL captures the selected log entry into RAS_LOG_W0 to W3. -/
  | rasLogSelWrite (v : Nat)
  /-- RETURN_AUTHORISATION (R459): A signed return authorisation over SPDM fuses the move to RETURN. -/
  | returnAuthorisation (auth : List Byte)
  /-- SNAPSHOT_CAPTURE (R477): Writing DBG_SNAP_CTL.capture strobes every counter into its shadow. -/
  | snapshotCapture
  /-- SNAPSHOT_ARM (R477): Writing DBG_SNAP_AT_HI with arm = 1 arms a keyed snapshot. -/
  | snapshotArm (v : Nat)
  /-- SNAPSHOT_KEY_REACHED (R477): Each counter captures when its domain's replica reaches the key; gen rises when all have captured. -/
  | snapshotKeyReached
  /-- ARM (R479): Arms a Clove slot and clears its parts. -/
  | cloveArm
  /-- CLOSE (R479): Closes an armed Clove slot with the parts it holds. -/
  | cloveClose
  /-- DISARM (R479): Returns a Clove slot to IDLE. -/
  | cloveDisarm
  /-- BUILD (R484): Starts gathering a Starchart wait-for record, with or without freeze. -/
  | starBuild (mask : Nat) (freeze : Bool)
  /-- STARCHART_BUILD_COMPLETE (R484): The Starchart record is written, busy clears and a message is sent. -/
  | starchartBuildComplete
  /-- PWR_EN_RISE (R495): PWR_EN high lets the main converter run and power up proceeds to PWRGD. -/
  | pwrEnRise
  /-- PWR_EN_FALL (R496): PWR_EN low removes the rail as a loss of input power. -/
  | pwrEnFall
  /-- MOD_RST_N_ASSERT (R495): MOD_RST_N low acts as loss of input power on all but the always-on domain. -/
  | modRstNAssert
  /-- MOD_RST_N_RELEASE (R495): MOD_RST_N high returns the device to POWER_UP when PWR_EN is high. -/
  | modRstNRelease
  /-- PERST_N_ASSERT (R496): PERST_N low is a Conventional Reset of the PCIe function. -/
  | perstNAssert
  /-- PERST_N_RELEASE (R496): PERST_N released lets PCIe train. -/
  | perstNRelease
  /-- HOUSEKEEPING_UP (R495): Housekeeping comes up, the always-on domain is live and SLOT_ID is sampled. -/
  | housekeepingUp (slot : Nat)
  /-- INPUT_UNDERVOLTAGE (R489): Input below 38.0 V for 100 µs shuts down as a loss of input power. -/
  | inputUndervoltage
  /-- RAIL_OVERCURRENT (R491): 1.8 V rail overcurrent shuts down as a trip with cause 3. -/
  | railOvercurrent
  /-- RAIL_OVERVOLTAGE (R491): 1.8 V rail overvoltage shuts down as a trip with cause 4. -/
  | railOvervoltage
  /-- STAGE_OVER_TEMPERATURE (R498): The 48 V stage above its fused limit shuts down as a trip with cause 5. -/
  | stageOverTemperature
  /-- STAGE_MEASUREMENT (R490): Every 1 ms the stage measures input voltage, current, power and temperature. -/
  | stageMeasurement (mv ma watts temp : Nat)
  /-- COOLANT_SAMPLE (R498): Every 100 ms inlet and outlet temperatures are measured. -/
  | coolantSample (inlet outlet : Nat)
  /-- ELSFP_LIGHT_LOSS (R497): Removal or loss of light of a laser-source module takes its four ports' links down. -/
  | elsfpLightLoss (k : Nat)
  /-- SET_ENDPOINT_ID (R499): MCTP control Set Endpoint ID. -/
  | setEndpointId (eid : Nat)
  /-- GET_ENDPOINT_ID (R499): MCTP control Get Endpoint ID. -/
  | getEndpointId
  /-- GET_MCTP_VERSION_SUPPORT (R499): MCTP control Get MCTP Version Support. -/
  | getMctpVersionSupport (typ : Nat)
  /-- GET_MESSAGE_TYPE_SUPPORT (R499): MCTP control Get Message Type Support. -/
  | getMessageTypeSupport
  /-- GET_TID (R499): PLDM base GetTID. -/
  | getTid
  /-- GET_PLDM_VERSION (R499): PLDM base GetPLDMVersion. -/
  | getPldmVersion (typ : Nat)
  /-- GET_PLDM_TYPES (R499): PLDM base GetPLDMTypes. -/
  | getPldmTypes
  /-- GET_PLDM_COMMANDS (R499): PLDM base GetPLDMCommands. -/
  | getPldmCommands (typ : Nat)
  /-- GET_SENSOR_READING (R499): PLDM GetSensorReading returns a module sensor. -/
  | getSensorReading (id : Nat)
  /-- GET_VERSION (R499): SPDM GET_VERSION. -/
  | getVersion
  /-- GET_CAPABILITIES (R499): SPDM GET_CAPABILITIES. -/
  | getCapabilities
  /-- NEGOTIATE_ALGORITHMS (R499): SPDM NEGOTIATE_ALGORITHMS. -/
  | negotiateAlgorithms
  /-- GET_DIGESTS (R499): SPDM GET_DIGESTS. -/
  | getDigests
  /-- GET_CERTIFICATE (R499): SPDM GET_CERTIFICATE. -/
  | getCertificate (slot : Nat)
  /-- CHALLENGE (R499): SPDM CHALLENGE. -/
  | challenge (nonce : Nat)
  /-- GET_MEASUREMENTS (R499): SPDM GET_MEASUREMENTS answered by the CSB. -/
  | getMeasurements (index : Nat)
  /-- KEY_EXCHANGE (R499): SPDM KEY_EXCHANGE. -/
  | keyExchange
  /-- FINISH (R499): SPDM FINISH. -/
  | spdmFinish
  /-- END_SESSION (R499): SPDM END_SESSION. -/
  | endSession
  /-- PCIE_INBOUND_ACCESS (R471): A memory read or write from the external host over PCIe or CXL.io reaches a device address and is served at its home, recalling hart copies, or ends in a completer abort on poison. -/
  | pcieInboundAccess (pa n tag : Nat) (write : Bool) (data : List Byte)
  /-- PCIE_LINK_STATE_CHANGE (R437): The PCIe link goes down or comes back, starting or cancelling the 1 s count after which the power authority falls back to CC. -/
  | pcieLinkStateChange (up : Bool)
  /-- MIN_RUN_ELAPSED (R354): A running ordinary launch reaches min_run_us while a strictly higher-priority candidate waits, and the scheduler pre-empts it. -/
  | minRunElapsed (p : Nat)
  /-- MACHINE_TIMER (R286): mtime reaches a hart's mtimecmp or Sstc comparator and a timer interrupt becomes pending, waking WRS or leading to trap entry. -/
  | machineTimer (h : Nat)
  /-- REGISTER_READ_CAPTURE (R392): A read of FTB_NOW_LO, NET_TJ_STAMP_LO, DBG_SNAP_STAMP_LO or CAS_SLOT_INFO captures the companion registers for later reads. -/
  | registerReadCapture (off size tag : Nat)
  /-- TRIP_N_RELEASE (R496): PWR_EN held low for 1 s after a trip releases TRIP_N so that a later PWR_EN rise can restart the module. -/
  | tripNRelease
  /-- ELSFP_LIGHT_RETURN (R497): A laser-source module is inserted or its light returns, and its four optical ports train again. -/
  | elsfpLightReturn (k : Nat)
  /-- VOLTAGE_RAMP_COMPLETE (R444): A die's voltage ramp to its new V(f) point ends, after which a raising change relocks the PLL and PWR_OP mv shows the new voltage. -/
  | voltageRampComplete (d : Nat)
  /-- UNSUPPORTED_REQUEST (R402): A received RoCEv2 SEND, atomic, UD or other unsupported request is NAKed as an invalid request. -/
  | unsupportedRequest (qpn psn bytes : Nat) (ce : Bool)
  /-- PDR_REPOSITORY_REQUEST (R499): A PLDM type 2 request reads the PDR repository over MCTP on I3C. -/
  | pdrRepositoryRequest (rec_ : Nat)
  /-- FRU_DATA_REQUEST (R499): A PLDM type 4 request reads the FRU data: part, variant, serial and stepping. -/
  | fruDataRequest
  deriving DecidableEq, Repr

end Sys2Proof
end

