-- ==== Sys2Proof/Machine/Flags.lean ====
section
/-!
DEFINITION. The sticky arithmetic flags (R54): the bit of each flag.
-/
namespace Sys2Proof.Machine

/-! ### Sticky flags (R54) -/

/-- A value was flushed under R52. -/
def flagFlush : Flags := 1
/-- A NaN was produced from operands none of which was NaN. -/
def flagInvalid : Flags := 2
/-- A finite result exceeded the largest finite magnitude, or a scale was clamped. -/
def flagOverflow : Flags := 4
/-- A NaN or infinity went to a destination that cannot hold it. -/
def flagNanDropped : Flags := 8
/-- An INT32 accumulation wrapped. -/
def flagIntWrap : Flags := 16
/-- A conversion to an integer saturated or converted a NaN. -/
def flagIntSat : Flags := 32
/-- A legacy-tagged load or store executed. -/
def flagLegacy : Flags := 64


end Sys2Proof.Machine
end

