-- ==== Sys2Proof/Machine/Maps.lean ====
section
/-!
DEFINITION. Sparse maps with rising keys, memory as such a map of non-zero bytes, and bit slices.
-/
namespace Sys2Proof.Machine

/-- The value under a key. -/
def mget {α : Type} : Map α → Nat → Option α
  | [], _ => none
  | (k', v) :: t, k => if k = k' then some v else mget t k

/-- The value under a key, or a default. -/
def mgetD {α : Type} (m : Map α) (k : Nat) (d : α) : α := (mget m k).getD d

/-- Stores a value under a key, keeping the keys rising. -/
def mset {α : Type} : Map α → Nat → α → Map α
  | [], k, v => [(k, v)]
  | (k', v') :: t, k, v =>
    if k < k' then (k, v) :: (k', v') :: t
    else if k = k' then (k, v) :: t
    else (k', v') :: mset t k v

/-- Removes a key. -/
def mdel {α : Type} : Map α → Nat → Map α
  | [], _ => []
  | (k', v') :: t, k => if k = k' then mdel t k else (k', v') :: mdel t k

/-- Changes the value under a key where there is one. -/
def mupd {α : Type} : Map α → Nat → (α → α) → Map α
  | [], _, _ => []
  | (k', v') :: t, k, f => if k = k' then (k', f v') :: t else (k', v') :: mupd t k f

/-- A set of naturals held as a rising list. -/
def sIns : List Nat → Nat → List Nat
  | [], k => [k]
  | x :: t, k => if k < x then k :: x :: t else if k = x then x :: t else x :: sIns t k

/-- One byte of a sparse memory: an unlisted byte reads 0. -/
def byteAt (m : Map Byte) (a : Nat) : Byte := mgetD m a 0

/-- Writes one byte of a sparse memory: writing 0 removes the entry, so equal memories are equal lists. -/
def byteSet (m : Map Byte) (a : Nat) (b : Byte) : Map Byte := if b = 0 then mdel m a else mset m a b

/-- Reads `n` bytes, lowest address first, as a little-endian number. -/
def bytesAt (m : Map Byte) (a : Nat) : Nat → Nat
  | 0 => 0
  | n + 1 => (byteAt m a).toNat + 256 * bytesAt m (a + 1) n

/-- Writes the low `n` bytes of a number, lowest address first. -/
def bytesSet (m : Map Byte) (a v : Nat) : Nat → Map Byte
  | 0 => m
  | n + 1 => bytesSet (byteSet m a (BitVec.ofNat 8 v)) (a + 1) (v / 256) n

/-- Reads `n` bytes as a list, lowest address first. -/
def listAt (m : Map Byte) (a : Nat) : Nat → List Byte
  | 0 => []
  | n + 1 => byteAt m a :: listAt m (a + 1) n

/-- Writes a list of bytes, lowest address first. -/
def listSet (m : Map Byte) (a : Nat) : List Byte → Map Byte
  | [] => m
  | b :: t => listSet (byteSet m a b) (a + 1) t

/-- Writes the bytes of a list whose mask bit is set (bit 0 for the first byte). -/
def maskSet (m : Map Byte) (a mask : Nat) : List Byte → Map Byte
  | [] => m
  | b :: t => maskSet (if mask % 2 = 1 then byteSet m a b else m) (a + 1) (mask / 2) t

/-- The canonical form of a sparse memory, above a bound: addresses strictly rising, no entry 0. -/
def memCanon : Nat → Map Byte → Bool
  | _, [] => true
  | lo, (a, b) :: t => decide (lo ≤ a) && decide (b ≠ 0) && memCanon (a + 1) t

/-- A memory is in its canonical form. -/
def Memory.wf (m : Map Byte) : Bool := memCanon 0 m

/-- Bits `[lo + n - 1 : lo]` of a number. -/
def bits (x lo n : Nat) : Nat := (x >>> lo) % 2 ^ n

/-- Bit `i` of a number. -/
def bit (x i : Nat) : Bool := bits x i 1 = 1

/-- Replaces bits `[lo + n - 1 : lo]` of a number. -/
def setBits (x lo n v : Nat) : Nat := x - bits x lo n * 2 ^ lo + (v % 2 ^ n) * 2 ^ lo

/-- A number as one bit. -/
def b2n (b : Bool) : Nat := if b then 1 else 0

/-- The little-endian value of a list of bytes. -/
def leNat : List Byte → Nat
  | [] => 0
  | b :: t => b.toNat + 256 * leNat t

/-- Bytes `i` to `i + n - 1` of a structure, little-endian. -/
def le (b : List Byte) (i n : Nat) : Nat := leNat ((b.drop i).take n)

/-- The low `n` bytes of a number, lowest first. -/
def natLe (v : Nat) : Nat → List Byte
  | 0 => []
  | n + 1 => BitVec.ofNat 8 v :: natLe (v / 256) n

/-- Sign extension of the low `n` bits to an integer. -/
def sextInt (x n : Nat) : Int :=
  let y := x % 2 ^ n
  if 2 * y < 2 ^ n then (y : Int) else (y : Int) - (2 ^ n : Nat)

/-- A list element by index, or a default. -/
def nth {α : Type} (l : List α) (i : Nat) (d : α) : α := l.getD i d

/-- Replaces a list element by index, where it exists. -/
def nthSet {α : Type} : List α → Nat → α → List α
  | [], _, _ => []
  | _ :: t, 0, v => v :: t
  | x :: t, i + 1, v => x :: nthSet t i v

/-- Applies a function at every index below `n`, rising. -/
def iter {σ : Type} (n : Nat) (f : Nat → σ → σ) (s : σ) : σ :=
  (List.range n).foldl (fun s i => f i s) s

/-- Applies a function for every element of a list, in order. -/
def forAll {α σ : Type} (l : List α) (f : α → σ → σ) (s : σ) : σ := l.foldl (fun s x => f x s) s

/-- The indices below `n` whose bit is set. -/
def bitList (x n : Nat) : List Nat := (List.range n).filter (fun i => bit x i)

end Sys2Proof.Machine
end

