-- ==== Sys2Proof/Machine/Formats.lean ====
section
/-!
DEFINITION. Element formats, exact values and rounding (R35 to R63): decoding, one rounding of an exact
value, conversion with its flags, the KB block formats, scales and stochastic rounding.
-/
namespace Sys2Proof.Machine

/-! ### Formats (R35, R38) -/

/-- The format a code names (R35); reserved codes name none (R36). -/
def fmtOfCode : Nat → Option ElemFmt
  | 0 => some .fp32 | 1 => some .bf16 | 2 => some .fp16 | 3 => some .e4m3 | 4 => some .e5m2
  | 5 => some .e3m2 | 6 => some .e2m3 | 7 => some .e2m1 | 8 => some .int8 | 9 => some .kb24
  | 10 => some .kb16 | _ => none

/-- The layout of a floating-point format (R38); INT8 and the KB formats have none and take FP32's. -/
def floatSpec : ElemFmt → FloatSpec
  | .bf16 => ⟨8, 7, 127, true, false⟩
  | .fp16 => ⟨5, 10, 15, true, false⟩
  | .e4m3 => ⟨4, 3, 7, false, true⟩
  | .e5m2 => ⟨5, 2, 15, true, false⟩
  | .e3m2 => ⟨3, 2, 3, false, false⟩
  | .e2m3 => ⟨2, 3, 1, false, false⟩
  | .e2m1 => ⟨2, 1, 1, false, false⟩
  | _ => ⟨8, 23, 127, true, false⟩

/-- Element size in bits (R35); a KB block is 97 or 65 bytes for 32 elements and has no element size. -/
def elemBits : ElemFmt → Nat
  | .fp32 => 32 | .bf16 => 16 | .fp16 => 16 | .e4m3 => 8 | .e5m2 => 8 | .e3m2 => 6 | .e2m3 => 6
  | .e2m1 => 4 | .int8 => 8 | .kb24 => 0 | .kb16 => 0

/-- The formats R52 flushes. -/
def isFlushable : ElemFmt → Bool
  | .fp32 => true | .bf16 => true | .fp16 => true | _ => false

/-- 2 to an integer power, as a fraction. -/
def pow2Frac (e : Int) : Nat × Nat := if 0 ≤ e then (2 ^ e.toNat, 1) else (1, 2 ^ (-e).toNat)

/-- A natural times a power of two, as an exact value. -/
def mkFin (neg : Bool) (n : Nat) (e : Int) : Val :=
  let p := pow2Frac e
  .fin neg (n * p.1) p.2

/-- The exact value of a code of a floating-point format (R38). -/
def decodeFloat (f : FloatSpec) (x : Nat) : Val :=
  let neg := bit x (f.ebits + f.mbits)
  let e := bits x f.mbits f.ebits
  let m := bits x 0 f.mbits
  if f.ieee && e = 2 ^ f.ebits - 1 then (if m = 0 then .inf neg else .nan)
  else if f.topNaN && e = 2 ^ f.ebits - 1 && m = 2 ^ f.mbits - 1 then .nan
  else if e = 0 then mkFin neg m (1 - (f.bias : Int) - f.mbits)
  else mkFin neg (2 ^ f.mbits + m) ((e : Int) - f.bias - f.mbits)

/-- The exact value of an element (R38, R41). -/
def decodeElem (f : ElemFmt) (x : Nat) : Val :=
  if f = .int8 then
    let v := sextInt x 8
    .fin (v < 0) v.natAbs 1
  else decodeFloat (floatSpec f) x

/-- Is a code a nonzero subnormal of its format? -/
def isSubCode (f : FloatSpec) (x : Nat) : Bool := bits x f.mbits f.ebits = 0 && bits x 0 f.mbits ≠ 0

/-- The sign bit alone of a code. -/
def signedZero (f : FloatSpec) (neg : Bool) : Nat := b2n neg * 2 ^ (f.ebits + f.mbits)

/-- R52 applied to one code: a subnormal of a flushable format becomes a zero of its sign. -/
def ftzCode (ftz : Bool) (f : ElemFmt) (x : Nat) : Nat × Flags :=
  if ftz && isFlushable f && isSubCode (floatSpec f) x then
    (signedZero (floatSpec f) (bit x ((floatSpec f).ebits + (floatSpec f).mbits)), flagFlush)
  else (x, 0)

/-- An element's exact value after R52. -/
def readElem (ftz : Bool) (f : ElemFmt) (x : Nat) : Val × Flags :=
  let c := ftzCode ftz f x
  (decodeElem f c.1, c.2)

/-- The canonical NaN of a format (R40); the formats without one give +0 (R58). -/
def canonNaN : ElemFmt → Nat
  | .fp32 => 0x7FC00000 | .bf16 => 0x7FC0 | .fp16 => 0x7E00 | .e4m3 => 0x7F | .e5m2 => 0x7E | _ => 0

/-- The code of the largest finite magnitude, without its sign. -/
def maxFinCode (f : FloatSpec) : Nat :=
  if f.ieee then (2 ^ f.ebits - 1) * 2 ^ f.mbits - 1
  else if f.topNaN then 2 ^ (f.ebits + f.mbits) - 2
  else 2 ^ (f.ebits + f.mbits) - 1

/-! ### Exact values -/

/-- floor(log2 (n / d)) of a positive fraction. -/
def log2Frac (n d : Nat) : Int :=
  let g : Int := (Nat.log2 n : Int) - Nat.log2 d
  let p := pow2Frac g
  if d * p.1 ≤ n * p.2 then g else g - 1

/-- Is the magnitude n₁/d₁ less than n₂/d₂? -/
def fracLt (n1 d1 n2 d2 : Nat) : Bool := n1 * d2 < n2 * d1

/-- A signed fraction's numerator. -/
def signedNum (neg : Bool) (n : Nat) : Int := if neg then -(n : Int) else n

/-- The exact product of two finite values. -/
def finMul (a b : Val) : Val :=
  match a, b with
  | .fin s n d, .fin s' n' d' => .fin (s != s') (n * n') (d * d')
  | _, _ => .nan

/-- Is the value a zero? -/
def isZeroVal : Val → Bool
  | .fin _ 0 _ => true
  | _ => false

/-! ### Stochastic rounding (R61, R62) -/

/-- The mixing function of R61. -/
def mix64 (z : W64) : W64 :=
  let z := (z ^^^ (z >>> 30)) * 0xBF58476D1CE4E5B9#64
  let z := (z ^^^ (z >>> 27)) * 0x94D049BB133111EB#64
  z ^^^ (z >>> 31)

/-- The random word of one element (R61). -/
def srBits (seed ctr : W64) (idx : W32) : W64 :=
  let k := mix64 (seed ^^^ 0x6A09E667F3BCC908#64)
  let x := mix64 (k ^^^ ctr)
  mix64 (x ^^^ (idx.setWidth 64 * 0x9E3779B97F4A7C15#64))

/-- The 24 bits compared with t (R62). -/
def srR (seed ctr : W64) (idx : W32) : Nat := (srBits seed ctr idx).toNat >>> 40

/-! ### Rounding -/

/-- Rounds the non-negative fraction n/d, counted in units, to an integer number of units (R56, R62).
`r` is the random number of the element under SR. -/
def roundUnits (mode : Rnd) (r : Nat) (neg : Bool) (n d : Nat) : Nat :=
  let q := n / d
  let rem := n % d
  if rem = 0 then q
  else match mode with
    | .rne => if 2 * rem < d then q else if d < 2 * rem then q + 1 else if q % 2 = 0 then q else q + 1
    | .rtz => q
    | .rdn => if neg then q + 1 else q
    | .rup => if neg then q else q + 1
    | .rna => if 2 * rem < d then q else q + 1
    | .sr => if r < rem * 2 ^ 24 / d then q + 1 else q

/-- The exponent of the unit in which a magnitude n/d is rounded: the format's precision above the
minimum normal, its subnormal spacing below (R57 step 2). -/
def unitExp (f : FloatSpec) (n d : Nat) : Int :=
  let emin : Int := 1 - (f.bias : Int)
  let e := if n = 0 then emin else log2Frac n d
  (if e < emin then emin else e) - f.mbits

/-- A magnitude rounded to the precision of a format with unbounded exponent: its number of units and
the exponent of the unit. -/
def roundMag (f : FloatSpec) (mode : Rnd) (r : Nat) (neg : Bool) (n d : Nat) : Nat × Int :=
  let u := unitExp f n d
  let p := pow2Frac (-u)
  (roundUnits mode r neg (n * p.1) (d * p.2), u)

/-- The magnitude code of q units of exponent u, exact and within the format's range. -/
def encodeMag (f : FloatSpec) (q : Nat) (u : Int) : Nat :=
  if q = 0 then 0
  else
    let e : Int := (Nat.log2 q : Int) + u
    let emin : Int := 1 - (f.bias : Int)
    if e < emin then q
    else
      let sh : Int := e - f.mbits - u
      let m := if 0 ≤ sh then q / 2 ^ sh.toNat else q * 2 ^ (-sh).toNat
      ((e + f.bias).toNat) * 2 ^ f.mbits + (m - 2 ^ f.mbits)

/-- Does a rounded magnitude exceed the largest finite one? -/
def beyondMax (f : FloatSpec) (q : Nat) (u : Int) : Bool :=
  match decodeFloat f (maxFinCode f) with
  | .fin _ n d => let p := pow2Frac u; n * p.2 < q * p.1 * d
  | _ => false

/-- Overflow of a finite value (R58): the code without its sign. -/
def overflowCode (f : FloatSpec) (mode : Rnd) (sat neg : Bool) : Nat :=
  if f.ieee then
    if sat then maxFinCode f
    else
      let toInf := match mode with
        | .rne => true | .rna => true | .sr => true | .rtz => false | .rdn => neg | .rup => !neg
      if toInf then (2 ^ f.ebits - 1) * 2 ^ f.mbits else maxFinCode f
  else if f.topNaN then (if sat then maxFinCode f else 2 ^ (f.ebits + f.mbits) - 1)
  else maxFinCode f

/-- Conversion of an exact value to a floating-point element format (R57, R58), with its flags.
E4M3's overflow without sat is the positive NaN code 0x7F. -/
def convFloat (ftz : Bool) (ef : ElemFmt) (mode : Rnd) (sat : Bool) (r : Nat) (v : Val) : Nat × Flags :=
  let f := floatSpec ef
  let sgn (neg : Bool) := signedZero f neg
  match v with
  | .nan =>
    if f.ieee || f.topNaN then (canonNaN ef, 0) else (0, flagNanDropped)
  | .inf neg =>
    if f.ieee then ((2 ^ f.ebits - 1) * 2 ^ f.mbits + sgn neg, 0)
    else if f.topNaN && !sat then (canonNaN ef, flagNanDropped)
    else (maxFinCode f + sgn neg, flagNanDropped)
  | .fin neg n d =>
    if n = 0 then (sgn neg, 0)
    else
      let tooBig : Nat × Flags :=
        if f.topNaN && !sat then (canonNaN ef, flagOverflow)
        else (overflowCode f mode sat neg + sgn neg, flagOverflow)
      let direct := mode = .sr &&
        (match decodeFloat f (maxFinCode f) with | .fin _ m e => fracLt m e n d | _ => false)
      if direct then tooBig
      else
        let qu := roundMag f mode r neg n d
        if beyondMax f qu.1 qu.2 then tooBig
        else
          let c := encodeMag f qu.1 qu.2 + sgn neg
          ftzCode ftz ef c

/-- Conversion of an exact value to an integer of a range (R59), with its flags. DESIGN CHOICE: under SR a value less than
1 beyond the range is drawn like any other, and saturates, with int_sat, only when the draw rounds it outward; R57 and R62 state
SR only within the range. -/
def convInt (lo hi : Int) (mode : Rnd) (r : Nat) (v : Val) : Int × Flags :=
  match v with
  | .nan => (0, flagIntSat)
  | .inf neg => (if neg then lo else hi, flagIntSat)
  | .fin neg n d =>
    let q := signedNum neg (roundUnits mode r neg n d)
    if q < lo then (lo, flagIntSat) else if hi < q then (hi, flagIntSat) else (q, 0)

/-- A two's complement code of an integer. -/
def intCode (n : Nat) (v : Int) : Nat := (v % (2 ^ n : Nat)).toNat

/-- Conversion to any element format other than the KB ones (R57 to R59). `blockInt` selects the
symmetric INT8 range of block-scaled elements. -/
def convElem (ftz : Bool) (ef : ElemFmt) (mode : Rnd) (sat : Bool) (r : Nat) (blockInt : Bool) (v : Val) :
    Nat × Flags :=
  if ef = .int8 then
    let c := convInt (if blockInt then -127 else -128) 127 mode r v
    (intCode 8 c.1, c.2)
  else convFloat ftz ef mode sat r v

/-- One rounding of an exact value to FP32, to nearest even, then R52 (R72 step 4, R144). -/
def toF32 (ftz : Bool) (v : Val) : W32 × Flags :=
  let c := convFloat ftz .fp32 .rne false 0 v
  (BitVec.ofNat 32 c.1, c.2)

/-! ### Scales (R47, R50) -/

/-- The value of a scale byte as a fraction; `none` for NaN. -/
def scaleVal (sf : ScaleFmt) (c : Nat) : Option (Nat × Nat) :=
  if c = 0xFF then none
  else match sf with
    | .e8m0 => some (pow2Frac ((c : Int) - 127))
    | .fs8 =>
      let p := pow2Frac (((c / 4 : Nat) : Int) - 40)
      some ((4 + c % 4) * p.1, 4 * p.2)

/-- The greatest exponent of an element format (R50). -/
def emaxOf : ElemFmt → Int
  | .e4m3 => 8 | .e5m2 => 15 | .e3m2 => 4 | .e2m3 => 2 | .e2m1 => 2 | .int8 => 6 | _ => 127

/-- The greatest finite magnitude of a block-scaled element format (R50). -/
def maxfinOf (ef : ElemFmt) : Nat × Nat :=
  if ef = .int8 then (127, 1)
  else match decodeFloat (floatSpec ef) (maxFinCode (floatSpec ef)) with
    | .fin _ n d => (n, d)
    | _ => (0, 1)

/-- The smallest FS8 code from `c` on whose scale reaches amax (R50). -/
def fs8Search (mf : Nat × Nat) (n d : Nat) : Nat → Nat → Option Nat
  | 0, _ => none
  | k + 1, c =>
    match scaleVal .fs8 c with
    | some (sn, sd) => if n * (sd * mf.2) ≤ sn * mf.1 * d then some c else fs8Search mf n d k (c + 1)
    | none => none

/-- The scale code of a block whose largest magnitude is n/d > 0 (R50), with the clamp's flag. -/
def blockScale (sf : ScaleFmt) (ef : ElemFmt) (n d : Nat) : Nat × Flags :=
  match sf with
  | .e8m0 =>
    let x := log2Frac n d - emaxOf ef
    if 127 < x then (254, flagOverflow) else if x < -127 then (0, 0) else ((x + 127).toNat, 0)
  | .fs8 =>
    match fs8Search (maxfinOf ef) n d 255 0 with
    | some c => (c, 0)
    | none => (0xFE, flagOverflow)

/-- The largest magnitude of finite values. -/
def amaxOf (vs : List Val) : Nat × Nat :=
  vs.foldl (fun a v => match v with
    | .fin _ n d => if fracLt a.1 a.2 n d then (n, d) else a
    | _ => a) (0, 1)

/-- The overflow of an element is not flagged inside the E8M0 margin (R54 bit 2), nor again when the
scale was clamped. -/
def blockElemFlags (fl : Flags) : Flags := fl &&& ~~~flagOverflow

/-- Block-forming conversion (R50): the scale code, the element codes and the flags. `vs` holds every
lane of the block after R52, +0 for an inactive one; `rs` their random numbers. -/
def formBlock (ftz : Bool) (sf : ScaleFmt) (ef : ElemFmt) (mode : Rnd) (vs : List Val) (rs : List Nat) :
    Nat × List Nat × Flags :=
  if vs.any (fun v => match v with | .fin .. => false | _ => true) then
    let fl := if vs.any (fun v => match v with | .inf _ => true | _ => false) then flagNanDropped else 0
    (0xFF, vs.map (fun _ => 0), fl)
  else
    let am := amaxOf vs
    if am.1 = 0 then
      (0, vs.map (fun v => match v with
        | .fin neg _ _ => if ef = .int8 then 0 else signedZero (floatSpec ef) neg
        | _ => 0), 0)
    else
      let sc := blockScale sf ef am.1 am.2
      match scaleVal sf sc.1 with
      | none => (sc.1, vs.map (fun _ => 0), sc.2)
      | some (sn, sd) =>
        let es := (vs.zip rs).map (fun vr => match vr.1 with
          | .fin neg n d => convElem ftz ef mode true vr.2 true (.fin neg (n * sd) (d * sn))
          | v => convElem ftz ef mode true vr.2 true v)
        (sc.1, es.map (·.1), es.foldl (fun a e => a ||| blockElemFlags e.2) sc.2)

/-! ### KB blocks (R43 to R45) -/

/-- P of a KB format. -/
def kbP (kb16 : Bool) : Nat := if kb16 then 15 else 23

/-- The exact value of mantissa `m` under exponent `X` (R43). -/
def kbVal (p X : Nat) (m : Int) : Val :=
  if X = 0xFF then .nan else mkFin (m < 0) m.natAbs ((X : Int) - 127 - p)

/-- All 32 mantissas of a block under a trial exponent. -/
def kbMants (mode : Rnd) (p : Nat) (X : Int) (vs : List Val) (rs : List Nat) : List Int :=
  (vs.zip rs).map (fun vr => match vr.1 with
    | .fin neg n d =>
      let q := pow2Frac ((p : Int) - X + 127)
      signedNum neg (roundUnits mode vr.2 neg (n * q.1) (d * q.2))
    | _ => 0)

/-- The rounding loop of R44: the exponent rises while some mantissa rounds up to 2^P. -/
def kbLoop (mode : Rnd) (p : Nat) (vs : List Val) (rs : List Nat) : Nat → Int → Nat × List Int × Flags
  | 0, _ => (0xFF, vs.map (fun _ => 0), flagOverflow)
  | k + 1, X =>
    let ms := kbMants mode p X vs rs
    if ms.any (· = (2 ^ p : Nat)) then
      if 0xFE < X + 1 then (0xFF, vs.map (fun _ => 0), flagOverflow)
      else kbLoop mode p vs rs k (X + 1)
    else (X.toNat, ms, 0)

/-- KB encoding of 32 exact values (R44). -/
def kbEncode (mode : Rnd) (p : Nat) (vs : List Val) (rs : List Nat) : Nat × List Int × Flags :=
  if vs.any (fun v => match v with | .fin .. => false | _ => true) then
    (0xFF, vs.map (fun _ => 0),
      if vs.any (fun v => match v with | .inf _ => true | _ => false) then flagNanDropped else 0)
  else
    let am := amaxOf vs
    if am.1 = 0 then (0, vs.map (fun _ => 0), 0)
    else
      let X := log2Frac am.1 am.2 + 128
      if 0xFE < X then (0xFF, vs.map (fun _ => 0), flagOverflow)
      else kbLoop mode p vs rs 256 (if X < 0 then 0 else X)

/-- The bytes of a KB block (R43). -/
def kbBytes (p X : Nat) (ms : List Int) : List Byte :=
  BitVec.ofNat 8 X :: ms.flatMap (fun m => natLe (intCode (p + 1) m) ((p + 1) / 8))

/-- Mantissa `i` of a KB block held in bytes (R43). -/
def kbMantOf (p : Nat) (bs : List Byte) (i : Nat) : Int :=
  let w := (p + 1) / 8
  sextInt (leNat ((bs.drop (1 + w * i)).take w)) (p + 1)

/-- Element `i` of a KB block held in bytes, as an exact value. -/
def kbElem (p : Nat) (bs : List Byte) (i : Nat) : Val := kbVal p ((bs.headD 0).toNat) (kbMantOf p bs i)

/-! ### Packed elements (R42) -/

/-- Element `i` of bytes packed in a format of `w` bits: the bits from `w·i` on, element 0 lowest. -/
def packedElem (w : Nat) (bs : List Byte) (i : Nat) : Nat :=
  let lo := w * i
  bits (leNat ((bs.drop (lo / 8)).take 5)) (lo % 8) w

/-- The number a list of element codes packs to. -/
def packNat (w : Nat) : List Nat → Nat
  | [] => 0
  | c :: t => c % 2 ^ w + 2 ^ w * packNat w t

/-- Bytes of a row of `n` elements, padded to the whole group of R42. -/
def rowBytes (ef : ElemFmt) (n : Nat) : Nat :=
  match ef with
  | .e3m2 => (n + 3) / 4 * 3
  | .e2m3 => (n + 3) / 4 * 3
  | .e2m1 => (n + 1) / 2
  | .kb24 => (n + 31) / 32 * 97
  | .kb16 => (n + 31) / 32 * 65
  | f => n * (elemBits f / 8)

/-- The bytes of a row of element codes, its padding zero (R42). -/
def packRow (ef : ElemFmt) (cs : List Nat) : List Byte :=
  natLe (packNat (elemBits ef) cs) (rowBytes ef cs.length)

end Sys2Proof.Machine
end

