-- ==== Sys2Proof/Machine/Dot.lean ====
section
/-!
DEFINITION. The defined dot product (R67 to R79): exact products, groups of sixteen, the truncated group
sum with one rounding, and the integer path.
-/
namespace Sys2Proof.Machine

/-- One operand of a product (R70): its element value after R52, and the fraction of its block scale
(`none` for a NaN scale, 1/1 without a block scale). -/
structure DotOperand where
  val   : Val
  scale : Option (Nat × Nat)
  deriving DecidableEq, Repr

/-- Is an operand a NaN (R74 item 1)? A scale byte 0xFF makes it one. -/
def opIsNaN (o : DotOperand) : Bool :=
  match o.scale, o.val with
  | none, _ => true
  | _, .nan => true
  | _, _ => false

/-- Is an operand infinite? -/
def opIsInf (o : DotOperand) : Bool :=
  match o.val with
  | .inf _ => true
  | _ => false

/-- The sign of an operand's element. -/
def opNeg (o : DotOperand) : Bool :=
  match o.val with
  | .inf n => n
  | .fin n _ _ => n
  | .nan => false

/-- The exact product of one pair (R70): NaN, an infinity, or a signed fraction. -/
def dotProd (p : DotOperand × DotOperand) : Val :=
  match p.1.scale, p.2.scale with
  | some (sn, sd), some (tn, td) =>
    match p.1.val, p.2.val with
    | .fin n a b, .fin m c d => .fin (n != m) (a * c * sn * tn) (b * d * sd * td)
    | .nan, _ => .nan
    | _, .nan => .nan
    | a, b => if isZeroVal a || isZeroVal b then .nan else .inf (opNeg p.1 != opNeg p.2)
  | _, _ => .nan

/-- An infinity times a zero (R74 item 2). -/
def infTimesZero (p : DotOperand × DotOperand) : Bool :=
  (opIsInf p.1 && isZeroVal p.2.val) || (opIsInf p.2 && isZeroVal p.1.val)

/-- The greatest floor(log2 |p|) of the nonzero products (R72 step 1). -/
def groupExp (ps : List Val) : Option Int :=
  ps.foldl (fun a p => match p with
    | .fin _ n d =>
      if n = 0 then a
      else
        let e := log2Frac n d
        match a with
        | none => some e
        | some x => some (if x < e then e else x)
    | _ => a) none

/-- The exact sum of the truncated products (R72 steps 2 and 3). -/
def groupSum (e : Int) (ps : List Val) : Int :=
  ps.foldl (fun s p => match p with
    | .fin neg n d =>
      let q := pow2Frac (40 - e)
      s + signedNum neg (n * q.1 / (d * q.2))
    | _ => s) 0

/-- The value of one group (R72, R74): `none` for the exact zero, or an FP32 value; and the flags. -/
def groupValue (ftz : Bool) (ps : List (DotOperand × DotOperand)) : Option W32 × Flags :=
  if ps.any (fun p => opIsNaN p.1 || opIsNaN p.2) then (some 0x7FC00000#32, 0)
  else if ps.any infTimesZero then (some 0x7FC00000#32, flagInvalid)
  else
    let vs := ps.map dotProd
    let pinf := vs.any (fun v => v = .inf false)
    let ninf := vs.any (fun v => v = .inf true)
    if pinf && ninf then (some 0x7FC00000#32, flagInvalid)
    else if pinf then (some 0x7F800000#32, 0)
    else if ninf then (some 0xFF800000#32, 0)
    else match groupExp vs with
      | none => (none, 0)
      | some e =>
        let s := groupSum e vs
        if s = 0 then (none, 0)
        else
          let r := toF32 ftz (mkFin (s < 0) s.natAbs (e - 40))
          (some r.1, r.2)

/-- The exact value of an FP32 code. -/
def f32Val (x : W32) : Val := decodeElem .fp32 x.toNat

/-- The exact sum of two finite values. -/
def finAdd (a b : Val) : Val :=
  match a, b with
  | .fin s n d, .fin s' n' d' =>
    let t := signedNum s (n * d') + signedNum s' (n' * d)
    .fin (if t = 0 then s && s' else t < 0) t.natAbs (d * d')
  | _, _ => .nan

/-- The sum of two FP32 values rounded once to nearest even (R73, R74, R144), with its flags. -/
def f32Add (ftz : Bool) (x y : W32) : W32 × Flags :=
  match f32Val x, f32Val y with
  | .nan, _ => (0x7FC00000#32, 0)
  | _, .nan => (0x7FC00000#32, 0)
  | .inf a, .inf b => if a = b then (x, 0) else (0x7FC00000#32, flagInvalid)
  | .inf _, _ => (x, 0)
  | _, .inf _ => (y, 0)
  | a, b => toF32 ftz (finAdd a b)

/-- One accumulation of a group value (R73): an exact zero leaves the accumulator, -0 included. DESIGN CHOICE: an initial
accumulator that is a NaN keeps its sign and payload where every group value is the exact zero, or K is 0, as R73 says of the
accumulator; R40 and R74 would give the one NaN. -/
def accGroup (ftz : Bool) (acc : W32 × Flags) (g : Option W32 × Flags) : W32 × Flags :=
  match g.1 with
  | none => (acc.1, acc.2 ||| g.2)
  | some v =>
    let r := f32Add ftz acc.1 v
    (r.1, acc.2 ||| g.2 ||| r.2)

/-- Consecutive groups of sixteen (R71). -/
def groupsOf {α : Type} : Nat → List α → List (List α)
  | 0, _ => []
  | _, [] => []
  | k + 1, l => l.take 16 :: groupsOf k (l.drop 16)

/-- The floating path (R77): the reduction of every pair into an FP32 accumulator. -/
def dotFloat (ftz : Bool) (acc : W32) (ps : List (DotOperand × DotOperand)) : W32 × Flags :=
  let a0 := ftzCode ftz .fp32 acc.toNat
  (groupsOf (ps.length / 16 + 1) ps).foldl (fun a g => accGroup ftz a (groupValue ftz g))
    (BitVec.ofNat 32 a0.1, a0.2)

/-- One group of the integer path (R76): the exact sum added modulo 2^32. -/
def accInt (acc : W32 × Flags) (g : List (Int × Int)) : W32 × Flags :=
  let t := acc.1.toInt + g.foldl (fun s p => s + p.1 * p.2) 0
  (BitVec.ofInt 32 t, if t < -2147483648 ∨ 2147483647 < t then acc.2 ||| flagIntWrap else acc.2)

/-- The integer path (R76). -/
def dotInt (acc : W32) (ps : List (Int × Int)) : W32 × Flags :=
  (groupsOf (ps.length / 16 + 1) ps).foldl accInt (acc, 0)

end Sys2Proof.Machine
end

