-- ==== Sys2Proof/Config.lean ====
section
/-!
DEFINITION. What a module's manufacture fixes (fuses, ordering variant), and the values the spec leaves
open, each as a constant without a body: no proof can see what it is.
-/
namespace Sys2Proof

/-- The lifecycle states of RAS_LIFECYCLE (R459). -/
inductive Lifecycle where
  | manufacture | production | retn
  deriving DecidableEq, Repr, Inhabited

/-- The values the spec leaves open: the n-th open value met. Each use applies it to the counter the
state advances, so that nothing relates two of them. -/
opaque Config.freeNat : Nat → Nat
/-- An address that a packet carries and that no entry or datagram has given yet (R400, R411). -/
opaque Config.noAddress : Nat
/-- The UDP source port of a connection's packets. -/
opaque Config.roceSource : Nat → Nat
/-- What fixes the credits a receiver of a Finov link offers (R425, R430), by 16 × link + 2 × channel, plus 1 for data. -/
opaque Config.linkCredits : Nat → Nat
/-- True on NM-EZK1-A, false on NM-EZK1-B (R2). -/
opaque Config.variantA : Bool
/-- GLB_ID.stepping (R32), from fuses. -/
opaque Config.stepping : BitVec 8
/-- NET_MAC_BASE (R401), from fuses. -/
opaque Config.macBase : BitVec 48
/-- PWR_TRIP.tj_trip after reset (R457), from fuses. -/
opaque Config.tjTrip : BitVec 8
/-- PWR_TRIP.hbm_trip after reset (R457), from fuses. -/
opaque Config.hbmTrip : BitVec 8
/-- RAS_SERIAL (R475), from fuses. -/
opaque Config.serial : BitVec 64
/-- The module's lifecycle state when it was made ready for use (R459), from fuses. -/
opaque Config.lifecycle : Lifecycle
/-- The over-temperature limit of the 48 V stage (R498), fused. -/
opaque Config.stageLimit : Nat

/-- The core of a cluster that fuse repair has replaced by the spare (R460). -/
opaque Config.fusedCore : Nat → Option Nat
/-- What else fuse repair has used (R460): spare rows of a slice or the system cache, by source unit; of a core's SRAM macro;
post-package repair rows of a stack; redundant lanes of a Finov link's module. -/
opaque Config.fusedRows : Nat → Nat
opaque Config.fusedCoreRows : Nat → Nat → Nat
opaque Config.fusedPpr : Nat → Nat
opaque Config.fusedLanes : Nat → Nat → Nat
/-- Does an offset of the RAS block hold RAS_BIST_CTL or RAS_BIST_STATUS (R475)? -/
opaque Config.bistReg : Nat → Bool
/-- Byte n of a component's digest where the 32 bytes of its entry have no room for it (R449): bundle, component, n. -/
opaque Config.digestRest : List Byte → Nat → Nat → Byte
/-- What fixes the operating point that the boot ROM leaves each compute die at (PWR_OP). -/
opaque Config.bootMhz : Nat → Nat
/-- Post-package repair rows a stack reports (R475). -/
opaque Config.pprRows : Nat → Nat
/-- The fused V(f) table (R443): the voltage in mV of a die at a frequency in MHz. -/
opaque Config.vf : Nat → Nat → Nat
/-- The fused security minimum (R449). -/
opaque Config.minGen : Nat
/-- Does the signature block that ends these bytes verify (R449, R450)? Class 0 is the bundle's keys, 1 the image's,
2 the return authorisation's. -/
opaque Config.signed : Nat → List Byte → Bool
/-- Byte n of the SHA-384 digest of some bytes. -/
opaque Config.sha384 : List Byte → Nat → Byte
/-- Byte n of a repair record's sealed body and tag (R452): life-cycle code, header, body. -/
opaque Config.sealed : Nat → List Byte → List Byte → Nat → Byte
/-- The body of a sealed record, where its seal verifies. -/
opaque Config.unsealed : Nat → List Byte → List Byte → Option (List Byte)
/-- The reset vector a bundle's hart component gives (R456). -/
opaque Config.resetVector : List Byte → Nat
/-- The PLDM terminus ID (R499). -/
opaque Config.tid : Byte
/-- Bytes of the management protocols' answers whose content the spec leaves to their standards (R499): version
lists, capabilities, certificates, signatures, the PDR layout. The arguments are the request's code and operand. -/
opaque Config.mgmtBytes : Nat → Nat → List Byte

/-- The capability word of a node that is not a compute kind (R23), by kind code: no chapter gives one. -/
opaque Config.nodeCap : Nat → BitVec 64

end Sys2Proof
end

