-- ==== Sys2Proof/Machine/State.lean ====
section
/-!
DEFINITION. The state of the block as plain data: every register, memory, queue, buffer and mode the spec
gives it, and the queue of waiting commands. Sub-structures follow the chapters.
-/
namespace Sys2Proof.Machine

/-- Why a command ends in a fault. No command of this model does: the constructor is kept for an access
that names no memory at all. Raised by nothing; safe. -/
inductive Fault where
  /-- An access outside every address range of R231. Raised by no command, because such accesses have the
  outcomes R8 and R251 give them; safe. -/
  | noSuchAddress
  deriving DecidableEq, Repr

/-- Why a command is refused. -/
inductive Refusal where
  /-- The command has no meaning yet; safe. -/
  | notModelled (mnemonic : String)
  deriving DecidableEq, Repr

/-! ### Messages (R15, R287 to R289) -/

/-- Where a message goes: by CC_ROUTE of its source unit, or to the rings its queue or subscription names. -/
inductive MsgDest where
  | route
  | rings (cc : Option Nat) (host : Option Nat)
  deriving DecidableEq, Repr

/-- A message on its way to the interrupt unit. -/
structure Msg where
  src    : Nat
  ctx    : Nat
  status : Nat
  cookie : Nat
  dest   : MsgDest
  deriving DecidableEq, Repr

/-- A message waiting in the pending store (R289). Ring 0-63 is a control-complex ring, 64-127 a host ring. -/
structure Waiting where
  ring : Nat
  w0   : Nat
  w1   : Nat
  deriving DecidableEq, Repr

/-- The interrupt unit. -/
structure Irq where
  /-- Messages not yet at the interrupt unit, oldest first. -/
  inbox   : List Msg
  /-- Sequence counters (R17), keyed by 4096·ring + source unit. -/
  seqs    : Map Nat
  /-- The pending store, oldest first. -/
  waiting : List Waiting
  /-- Per ring, the messages whose entry is written: true once the tail is written too (R288). -/
  flight  : Map (List Bool)
  /-- IMSIC files: pending identities, keyed by 8·hart + file (R286). -/
  imsic   : Map (List Nat)
  deriving DecidableEq, Repr

/-! ### Cores (chapters 04 to 07) -/

/-- The state of a thread (R116), with what a wait remembers (R155, R156, R159). -/
inductive TState where
  | active
  | exited
  | waitSem (sem : Nat) (target : W32)
  | waitFrame (key : Nat)
  | waitJoin (mask : W32)
  | waitBar (barrier sem : Nat)
  deriving DecidableEq, Repr

/-- A thread: its program counter and its state. -/
structure Thread where
  pc : Nat
  st : TState
  deriving DecidableEq, Repr

/-- The books of one path (R117, R121): starvation count, position in a favoured run, YIELD's mark. -/
structure PathBook where
  mask    : W32
  starve  : Nat
  run     : Option Nat
  yielded : Bool
  /-- A FENCE.PUB or SEM.SIG of the path waits for the accesses issued before this number (R155, R157). -/
  fence   : Option Nat
  deriving DecidableEq, Repr

/-- A resident thread group (R112, R129). -/
structure Group where
  /-- Linear number within the launch. -/
  number  : Nat
  /-- General registers, keyed by 32·register + lane; unlisted reads 0. -/
  g       : Map W32
  /-- Uniform registers; unlisted reads 0. -/
  u       : Map W32
  /-- Predicates as lane masks; unlisted reads 0. -/
  p       : Map W32
  /-- The 32 threads. -/
  threads : List Thread
  /-- Path books, keyed by program counter. -/
  paths   : Map PathBook
  deriving DecidableEq, Repr

/-- The launch a core runs or holds in its shadow set (R303, R307). -/
structure CoreLaunch where
  /-- The work record of the launch (key in the front end's table). -/
  work   : Nat
  ctx    : Nat
  part   : Nat
  rank   : Nat
  groups : Nat
  regs   : Nat
  slmKib : Nat
  entry  : Nat
  ftz    : Bool
  seed   : W64
  coop   : Bool
  lcb    : List Byte
  deriving DecidableEq, Repr

/-- One lane's part of a memory access: address, data or operand, compare value. -/
structure LaneReq where
  lane : Nat
  addr : Nat
  data : Nat
  cmp  : Nat
  deriving DecidableEq, Repr

/-- What an access does. -/
inductive AccKind where
  | ld
  | ldUniform
  | st
  | atom (op ty : Nat)
  deriving DecidableEq, Repr

/-- How far a global access has come. -/
inductive AccPhase where
  /-- Not yet checked (R123). -/
  | unchecked
  /-- Waiting for a table walk of these page keys (R247). -/
  | walking
  /-- Waiting on a page that is leaving, or for its page-in (R200, R203). -/
  | paging
  /-- Line requests outstanding or served; complete when `todo` is empty. -/
  | lines
  deriving DecidableEq, Repr

/-- A memory access of a path, from issue to its return (R123, R173). -/
structure Access where
  id      : Nat
  slot    : Nat
  /-- The linear number of the group that issued it. -/
  number  : Nat
  mask    : W32
  pc      : Nat
  kind    : AccKind
  /-- Reads through the constant cache (space CONST). -/
  const   : Bool
  dst     : Nat
  /-- Size code of R138, or 4/5 for an atomic of 32/64 bits. -/
  size    : Nat
  reqs    : List LaneReq
  phase   : AccPhase
  /-- Per lane: physical address. -/
  pas     : Map Nat
  /-- Per lane: legacy format of its page (R250); 0 for none. -/
  legacy  : Map Nat
  /-- Lines still to be served (line number). -/
  todo    : List Nat
  /-- Lines to install in the core when the data returns (R158, R172, R174). -/
  cacheable : List Nat
  /-- Per lane: the old value an atomic returned. -/
  got     : Map Nat
  /-- Lines as read: from the L1, the constant cache, or the home. -/
  data    : Map (List Byte)
  /-- R471: some byte read was poisoned. -/
  poison  : Bool
  /-- Flags an F32 atomic raised at its execution point (R151). -/
  fl      : Flags
  /-- Its place among the accesses the core has sent (R173), and the line requests it made (R244). -/
  sent    : Nat
  asked   : Nat
  /-- Per lane that hit the L1 or the constant cache: the line held. -/
  hits    : Map (List Byte)
  deriving DecidableEq, Repr

/-- A tensor descriptor as captured at issue (R141). -/
structure TensorDesc where
  raw32       : Bool
  global      : Bool
  fmt         : Nat
  rows        : Nat
  cols        : Nat
  rowStride   : Nat
  base        : Nat
  scaleOff    : Int
  scaleStride : Nat
  deriving DecidableEq, Repr

/-- A stationary buffer (R83): the format word that filled it (none: CLEARED), and the elements and scale
bytes keyed by 128·k + n; unlisted is +0 with scale 1. -/
structure StatBuf where
  fmt   : Option Nat
  elems : Map Nat
  scale : Map Nat
  deriving DecidableEq, Repr

/-- A matrix instruction with its captured operands (R150, R153). -/
inductive MxOp where
  | mload (d : TensorDesc) (transposed : Bool)
  | mswap
  | mstream (a : TensorDesc) (b : Option TensorDesc) (m k n start : Nat) (drain init ipath : Bool)
      (rnd : Rnd) (sat : Bool) (ctr : W64)
  | mdrain (d : TensorDesc) (m start : Nat) (ipath clear : Bool) (rnd : Rnd) (sat : Bool) (ctr : W64)
  deriving DecidableEq, Repr

/-- An entry of the matrix queue, or a running matrix instruction. -/
structure MxEntry where
  op   : MxOp
  sem  : Option Nat
  slot : Nat
  /-- The linear number of the group that issued it. -/
  number : Nat
  mask : W32
  pc   : Nat
  /-- Accesses of the group with a lower id were issued before it (R95). -/
  before : Nat
  /-- Running drain-through or MDRAIN: converted rows, each as its bytes (R98, R99). -/
  out  : List (List Byte)
  /-- Drain-through with init = 0 to global memory: the active set as the stream saw it, and its flags. -/
  snap : Option StatBuf
  /-- Rows already written; when it left the queue, and MCLK then (R98, R102, R104). -/
  done : Nat
  since : Nat
  mhz  : Nat
  /-- Cycles from then until the loader may begin the first implicit pass load (R86). -/
  wait : Nat
  /-- Line requests of the operation it waits with that are admitted already (R345). -/
  paid : Nat
  deriving DecidableEq, Repr

/-- The matrix array of a core (chapter 04). -/
structure Matrix where
  /-- Accumulator elements, keyed by 128·row + column; unlisted is 0. -/
  acc      : Map W32
  buf0     : StatBuf
  buf1     : StatBuf
  active   : Nat
  /-- The projected stationary state (R154). -/
  proj0    : Option Nat
  proj1    : Option Nat
  projActive : Nat
  /-- When the last swap slot was, or will be, in ns (R86). -/
  swapAt   : Option Nat
  queue    : List MxEntry
  loader   : Option MxEntry
  streams  : List MxEntry
  drainer  : Option MxEntry
  deriving DecidableEq, Repr

/-- A tensor-mover instruction (R160, R180, R181). -/
inductive TmOp where
  | copy (src dst : TensorDesc)
  | xpose (src dst : TensorDesc)
  | watch (d : TensorDesc) (cslot : Nat)
  deriving DecidableEq, Repr

/-- An entry of the tensor-mover queue, or the running one. -/
structure TmEntry where
  op   : TmOp
  sem  : Option Nat
  slot : Nat
  /-- The linear number of the group that issued it. -/
  number : Nat
  mask : W32
  pc   : Nat
  /-- Accesses of the group with a lower id must have completed (R179). -/
  before : Nat
  /-- A running copy to memory: what it writes, range by range, each byte with its poison mark. -/
  parts : List (Nat × List (Byte × Bool))
  /-- Line requests of the operation it waits with that are admitted already (R345). -/
  paid : Nat
  deriving DecidableEq, Repr

/-- Writes of a stopped core that may already have been sent (R124): rows of a drain from one of them on, and the
ranges of a copy as the mover held them at the stop. -/
inductive Cut where
  | rows (d : TensorDesc) (start : Nat) (rows : List (List Byte))
  | parts (ps : List (Nat × List (Byte × Bool)))
  deriving DecidableEq, Repr

/-- The cycle of a core's last trap (R126) or consumption of poison (R471): its time, whether KX_TRAP_INFO records a trap of
it, whether poison was consumed, the slots that trapped, the quarters that trapped at issue, and the accesses under way, to
global memory and to the SLM, which may trap or consume in the same cycle. -/
structure TrapCycle where
  time  : Nat
  kept  : Bool
  poison : Bool
  slots : List Nat
  quarters : List Nat
  late  : List Access
  slm   : List Access
  deriving DecidableEq, Repr

/-- An arrival of a group at a barrier, or its held repetition (R387). -/
structure BarArrival where
  slot   : Nat
  handle : Nat
  sem    : Nat
  /-- The issuing path's lanes and the BAR.ARV's address. -/
  mask   : W32
  pc     : Nat
  deriving DecidableEq, Repr

/-- One compute core. -/
structure Core where
  launch   : Option CoreLaunch
  /-- R124: the core has stopped issuing for its launch. -/
  stopped  : Bool
  /-- The clears of R92 and R166 run. -/
  clearBusy : Bool
  /-- Resident groups by slot 0-63. -/
  groups   : Map Group
  /-- Per quarter, the slot (0-15) that issued last. -/
  lastSlot : Map Nat
  sems     : Map W32
  flags    : Flags
  slm      : Map Byte
  /-- Poisoned SLM words (R470). -/
  slmPoison : List Nat
  /-- Poisoned words of its other memories (R469, R470), as `regMark`, `accMark`, `bufMark` and `ctlMark` number them. -/
  marks    : List Nat
  slmq     : List Access
  lastGrant : Nat
  nextId   : Nat
  accs     : List Access
  l1       : Map (List Byte)
  ccache   : Map (List Byte)
  icache   : Map W64
  tlb      : Map W64
  mx       : Matrix
  tmq      : List TmEntry
  tmRun    : Option TmEntry
  /-- Barriers arrived at and not complete, and arrivals held (R387). -/
  arrived  : List BarArrival
  held     : List BarArrival
  /-- Releases of each barrier that have reached the core since the launch began: the phase its arrivals are in. -/
  phases   : Map Nat
  /-- Groups of the first wave, which every core counter expects (R386). -/
  expect   : Nat
  /-- Quarters whose issue clock is gated (R383). -/
  gated    : List Nat
  /-- The last frame key this core's replica showed (R377). -/
  ftSeen   : Nat
  /-- The mode epoch the core runs in (R314). -/
  epoch    : Nat
  /-- Accesses sent so far (R173), and the line requests of the running mover instruction (R244). -/
  sends    : Nat
  tmLines  : Nat
  cut      : List Cut
  trapCycle : Option TrapCycle
  deriving DecidableEq, Repr

/-! ### Memory system (chapter 10) -/

/-- A requester of a line at a slice, waiting for its fill (R237). -/
inductive LineUser where
  /-- A core's access (core, access id). -/
  | core (n id : Nat)
  /-- An engine or another agent, whose own step has already used the data. -/
  | agent (unit : Nat)
  deriving DecidableEq, Repr

/-- A request that waits for a fill: its requester (none: a prefetch), its class (R235; 4 is P), the time it began to wait,
in ns, and whether its age has made it class 0 (R236). -/
structure FillReq where
  user   : Option LineUser
  cls    : Nat
  since  : Nat
  aged   : Bool
  deriving DecidableEq, Repr

/-- A line fill in progress (R237 to R239) and the requests that wait for it, oldest first. -/
structure Fill where
  line   : Nat
  reqs   : List FillReq
  /-- A write is merged behind the fill. -/
  dirty  : Bool
  deriving DecidableEq, Repr

/-- A stride detector (R241). -/
structure Detector where
  slice   : Nat
  unit    : Nat
  hint    : Nat
  last    : Nat
  stride  : Int
  trained : Bool
  deriving DecidableEq, Repr

/-- One pool of 64 KiB pages (R253): its first frame, size and the pages in use. -/
structure Pool where
  base  : Nat
  total : Nat
  /-- Pages in use, as rising page indices within the pool. -/
  used  : List Nat
  /-- Retired pages, which stay in `used` for good (R466). -/
  bad   : List Nat
  deriving DecidableEq, Repr

/-- The kinds of memory objects (R324 to R326, R342). -/
inductive ObjKind where
  | map
  | aliasOf (storage : Nat)
  | model (key : Nat)
  | io
  deriving DecidableEq, Repr

/-- A memory object. -/
structure Obj where
  /-- Its context; 2^20 + its own number for a warm copy that has outlived its context (R337 step 5). -/
  ctx      : Nat
  /-- The partition whose pools its pages come from. -/
  part     : Nat
  va       : Nat
  len      : Nat
  kind     : ObjKind
  host     : Bool
  page2m   : Bool
  attr     : Nat
  wp       : Bool
  /-- DRAINING with this drain stamp (R325). -/
  drain    : Option Nat
  /-- R326: step 1 has begun, the entries are being invalidated. -/
  freeing  : Bool
  /-- MODEL'S OWN: frames the object holds besides those of its leaves, by virtual address: of a page that went
  off-loaded while an alias or a model names its frame too, or that was paged in for an alias or a model mapping. -/
  kept     : Map Nat
  deriving DecidableEq, Repr

/-- The states of a model (R257). -/
inductive ModelSt where
  | warm | loading | hot | evicting
  deriving DecidableEq, Repr

/-- A registered model (R257). -/
structure Model where
  part    : Nat
  num     : Nat
  len     : Nat
  st      : ModelSt
  /-- The warm copy's object. -/
  warm    : Nat
  use     : Nat
  pins    : Nat
  /-- Stamp of the last release (R258). -/
  release : Nat
  /-- Hot frames of the pages, in address order; `landed` of them hold their bytes. -/
  frames  : List Nat
  landed  : Nat
  /-- A promotion asked for while the model was evicting (R259), or MODEL_HOT entries waiting. -/
  again   : Bool
  waiters : List (Option Nat)
  /-- R472: a warm page failed, the hot copy cannot be reloaded. -/
  bad     : Bool
  deriving DecidableEq, Repr

/-- What follows an invalidation of table entries once every holder has confirmed it (R252). -/
inductive InvCont where
  | nothing
  | finish (work : Option Nat) (status : Nat)
  | freePages (part : Nat) (host : Bool) (frames : List (Nat × Bool))
  /-- Free an object: its pages, each with its size and tier (big, host), and the Cassia slots that hold its
  off-loaded pages. -/
  | freeObj (id : Nat) (pages : List (Nat × Bool × Bool)) (slots : List Nat)
  /-- The last page of a model's hot copy: the MODEL_HOT entries that wait for it complete. -/
  | modelHot (key : Nat)
  /-- MAP_IO of FE_CTX_CMD: the command ends. -/
  | mapIo
  /-- A bad page of a model has been copied to a fresh one: its frame of `units` pages of 64 KiB is free but for the bad page
  (R472). -/
  | reloaded (frame units part bad : Nat)
  /-- The last leaves of a Cassia command: it completes (R200, R201, R205). -/
  | casDone (work : Nat)
  deriving DecidableEq, Repr

/-- An invalidation in progress. -/
structure InvReq where
  keys : List Nat
  cont : InvCont
  deriving DecidableEq, Repr

/-- A MAP that waits for pages (frames empty) or whose pages are being cleared (R253, R256). -/
structure MapRun where
  /-- Work record, or `none` for MEMCMD of FE_CTX_CMD. -/
  work   : Option Nat
  ctx    : Nat
  part   : Nat
  va     : Nat
  len    : Nat
  host   : Bool
  page2m : Bool
  attr   : Nat
  wp     : Bool
  /-- The pages allocated, in address order, and those still to clear. -/
  frames : List Nat
  dirty  : List Nat
  deriving DecidableEq, Repr

/-- A device write within one granule that a hart's reservation holds at its home (R279): the requester's kind, its
address and bytes. -/
structure LaterWrite where
  kind : Nat
  pa   : Nat
  data : List Byte
  /-- Its data is poisoned (R470). -/
  bad  : Bool
  deriving DecidableEq, Repr

/-- The memory system. -/
structure Mem where
  /-- Bytes at the point of coherence, by physical address. -/
  bytes    : Map Byte
  /-- Poisoned lines of 128 bytes, by number (R470). -/
  poison   : List Nat
  /-- Memory of the external host, by PCIe bus address. -/
  host     : Map Byte
  /-- Lines present in the stack cache and the system cache: true when dirty (R237, R246). -/
  lines    : Map Bool
  /-- Slices still invalidating (R240), and the system cache (R246). -/
  invBusy  : Nat
  sysBusy  : Bool
  fills    : List Fill
  detectors : List Detector
  /-- Table entries, keyed by context, level and index (R247). -/
  pte      : Map W64
  /-- Cluster TLBs, and the translation caches of the movers, the engines and the fetch (R252). -/
  ctlb     : Map (Map W64)
  etlb     : Map W64
  inval    : List InvReq
  hbmPools : Map Pool
  hostPools : Map Pool
  objs     : Map Obj
  nextObj  : Nat
  models   : Map Model
  releases : Nat
  maps     : List MapRun
  /-- The bytes of the table carve-out, which starts at address 0 (R247). -/
  tableRoom : Nat
  /-- The tables, by context, level and the VA bits above those the level indexes: each one's physical address. -/
  tables   : Map Nat
  /-- Frames of pages being reloaded (R472): accesses to them wait. -/
  held     : List Nat
  /-- Device writes that reservations hold, in arrival order (R279). -/
  later    : List LaterWrite
  deriving DecidableEq, Repr

/-! ### Front end, contexts and scheduling (chapters 12 to 14) -/

/-- The states of a context (R320). -/
inductive CtxState where
  | live | lost | destroying
  deriving DecidableEq, Repr

/-- A context that is not FREE (R319). -/
structure Ctx where
  part   : Nat
  /-- Owner: false HOST, true CC. -/
  cc     : Bool
  st     : CtxState
  cause  : Nat
  flags  : Flags
  stamp  : Nat
  deriving DecidableEq, Repr

/-- One entry in the queue table: its four 64-bit words and its acceptance stamp (R295, R324). -/
structure Entry where
  w0    : Nat
  w1    : Nat
  w2    : Nat
  w3    : Nat
  stamp : Nat
  deriving DecidableEq, Repr

/-- A queue that is enabled or being destroyed (R292 to R302). -/
structure Queue where
  /-- Last accepted doorbell value; entries read; entries completed. -/
  door   : Nat
  head   : Nat
  done   : Nat
  /-- Stamps of entries accepted and not yet read, oldest first. -/
  stamps : List Nat
  /-- Entries read and not completed, oldest first. -/
  ents   : List Entry
  slot   : Option Nat
  lastSlot : Option Nat
  destroying : Bool
  /-- Sequence numbers of its entries whose launch, or whose run's lowest-index launch node, has started (R204). -/
  launched : List Nat
  /-- Orders in which it became READY and in which it took its slot (R302, R350). -/
  ready  : Nat
  taken  : Nat
  deriving DecidableEq, Repr

/-- A released entry or graph node that has not completed. Its key is 8192·queue, plus 1 + node for a node. -/
structure Work where
  q      : Nat
  node   : Option Nat
  kind   : Nat
  ctx    : Nat
  part   : Nat
  stamp  : Nat
  epoch  : Nat
  since  : Nat
  limit  : Nat
  /-- Place in the order of releases. -/
  order  : Nat
  /-- The command structure as read at release (R301); for a launch, its descriptor and its constant buffer. -/
  cmd    : List Byte
  /-- Its executor has checked it and begun it: a launch is a candidate, a memory command has started. -/
  begun  : Bool
  /-- Stopped with this status (R322, R299, R333). -/
  stop   : Option Nat
  /-- Its executor has finished with this status. -/
  fin    : Option Nat
  notify : Bool
  cookie : Nat
  arg0   : Nat
  arg1   : Nat
  deriving DecidableEq, Repr

/-- The state of a node in a run (R311). -/
inductive NodeSt where
  | waiting
  | released
  | done (status : Nat)
  deriving DecidableEq, Repr

/-- A run of a stored graph. -/
structure GraphRun where
  graph   : Nat
  version : Nat
  nodes   : List NodeSt
  deriving DecidableEq, Repr

/-- A stored graph (R310): its context, whether destroyed, its latest version, and its live versions, each
as the list of its node records' store indices. -/
structure Graph where
  ctx       : Nat
  destroyed : Bool
  latest    : Nat
  versions  : Map (List Nat)
  deriving DecidableEq, Repr

/-- A barrier counter above the core (R386, R388): contributions, the cores behind them, and the handle of the
first. -/
structure BarCount where
  count  : Nat
  cores  : List Nat
  handle : Nat
  deriving DecidableEq, Repr

/-- A contribution on its way to a level (1 cluster, 2 die, 3 package) and unit. -/
structure BarMsg where
  level  : Nat
  unit   : Nat
  handle : Nat
  cores  : List Nat
  deriving DecidableEq, Repr

/-- The launch a partition runs (R303 to R308, R355). -/
structure Launch where
  work    : Nat
  ctx     : Nat
  coop    : Bool
  groups  : Nat
  regs    : Nat
  slmKib  : Nat
  /-- The next group number to place. -/
  placed  : Nat
  /-- Logical numbers of its cores, by rank. -/
  cores   : List Nat
  /-- The partition was smaller at its start than at image load (R306). -/
  shrunk  : Bool
  /-- Being stopped with this status (R124, R299, R322). -/
  stop    : Option Nat
  /-- Cores that hold groups of the first wave (R386), counters keyed by (level · 16 + unit) · 64 + barrier,
  contributions and releases (core, barrier) in flight. -/
  barCores : List Nat
  bars    : Map BarCount
  barMsgs : List BarMsg
  barRels : List (Nat × Nat)
  /-- Stopped cores that have reported (R124). -/
  halted  : List Nat
  /-- Slots freed and not taken again, each as the time and the core (R305). -/
  freed   : List (Nat × Nat)
  /-- Page-ins counted, and the limit armed when it started; 0 is none (R204). -/
  pageIns : Nat
  pageLimit : Nat
  started : Nat
  epoch   : Nat
  lcb     : List Byte
  entry   : Nat
  ftz     : Bool
  seed    : W64
  deriving DecidableEq, Repr

/-- A preload of a partition's shadow sets (R307): the launch by its work's key and its entry number, and the
descriptor, constant buffer and code words it read. -/
structure Preload where
  work  : Nat
  num   : Nat
  cmd   : List Byte
  code  : Map W64
  ready : Bool
  deriving DecidableEq, Repr

/-- A subscription (R330). -/
structure Sub where
  ctx    : Nat
  q      : Nat
  seq    : Nat
  cc     : Option Nat
  host   : Option Nat
  cookie : Nat
  deriving DecidableEq, Repr

/-- A command of FE_CTX_CMD that is still running (R342). -/
inductive CtxRun where
  | kill (ctx : Nat)
  | destroy (ctx : Nat)
  | memcmd (ctx : Nat)
  | mapIo (ctx : Nat)
  deriving DecidableEq, Repr

/-- The front end. -/
structure Fe where
  ctxs    : Map Ctx
  queues  : Map Queue
  works   : Map Work
  /-- Counts events whose order matters: a queue becoming READY, taking a slot, a release, a context's run. -/
  orders : Nat
  launches : Map Launch
  preloads : Map Preload
  graphs  : Map Graph
  /-- Node records of the graph store (768 B each), by store index. -/
  nodes   : Map (List Byte)
  runs    : Map GraphRun
  subs    : Map Sub
  ctxRun  : Option CtxRun
  /-- Queues whose enable waits for the page of their header (R317). -/
  enabling : List Nat
  deriving DecidableEq, Repr

/-- Residency states (R351). -/
inductive Residency where
  | resident | swappingOut | swapped | swappingIn
  deriving DecidableEq, Repr

/-- A page moved by swap-out: its leaf key, and the HBM and host frames (R353). -/
structure Moved where
  key   : Nat
  hbm   : Nat
  host  : Nat
  deriving DecidableEq, Repr

/-- A saved launch (R355, R356): the launch and its cores' records, and whether one of its cores has been retired since
(R357). -/
structure Saved where
  launch : Launch
  cores  : Map Core
  lost   : Bool
  /-- Its save slot (R356). -/
  slot   : Nat
  deriving DecidableEq, Repr

/-- A batch step (R358 to R364). -/
structure Step where
  part      : Nat
  ctx       : Nat
  stamp     : Nat
  /-- Virtual addresses of the record and of the mark. -/
  record    : Nat
  mark      : Nat
  decide    : Bool
  fbGraph   : Option Nat
  /-- The fallback launch: its descriptor and constant buffer. -/
  fbCmd     : List Byte
  /-- The models named, by key, and the fields that name them. -/
  models    : List Nat
  model     : Nat
  fbModel   : Nat
  release   : Nat
  decision  : Nat
  deadline  : Nat
  est       : Nat
  /-- Launches of the step, and those that have completed. -/
  total     : Nat
  finished  : Nat
  started   : Option Nat
  released  : Bool
  decided   : Bool
  abandoned : Bool
  /-- The fallback has been started. -/
  fallback  : Bool
  predicted : Nat
  /-- The first status in R13's order of the nodes that ran before the fallback. -/
  status    : Nat
  deriving DecidableEq, Repr

/-- The scheduler and Meridian. -/
structure Sched where
  residency : Map Residency
  moved   : Map (List Moved)
  /-- Per partition: the context that ran last, and for how long it has held the partition in its turn, in ns (R348);
  per context, the order of its last run. -/
  turn    : Map Nat
  turnHeld : Map Nat
  lastRan : Map Nat
  /-- Saved launches, and whether the running launch is being pre-empted (R354, R355). -/
  saved   : Map (List Saved)
  preempt : List Nat
  /-- Batch steps by work key, and the one that holds a partition. -/
  steps   : Map Step
  hold    : Map Nat
  /-- Signed bucket levels: 16·bucket + partition (R345). -/
  levels  : Map Int
  /-- The rates in effect, a written one from the next refill on, and the buckets that hold a request (R345, R366). -/
  rates   : Map Nat
  holding : List Nat
  deriving DecidableEq, Repr

/-! ### Control complex (chapter 11) -/

/-- An entry of a store buffer (R274). -/
structure StoreEnt where
  addr : Nat
  size : Nat
  data : Nat
  /-- An IO store: it leaves to its target, not to a line held M. -/
  io   : Bool
  /-- Its place in the hart's stores. -/
  seq  : Nat
  deriving DecidableEq, Repr

/-- An entry of a combining buffer (R275): a 64-B block, its byte mask, its bytes, the time of its last merge
and that store's place. -/
structure CombEnt where
  block : Nat
  mask  : Nat
  data  : List Byte
  last  : Nat
  seq   : Nat
  deriving DecidableEq, Repr

/-- A reservation (R278, R279): granule, the time of the LR, and whether its hold on recalls is over. -/
structure Resv where
  granule : Nat
  since   : Nat
  free    : Bool
  deriving DecidableEq, Repr

/-- Why a hart does not run. -/
inductive HartRun where
  | running
  /-- WRS.NTO, or WRS.STO since the time (R280). -/
  | wrs (sto : Option Nat)
  /-- Stopping for a power-down, then stopped (R284). -/
  | stopping
  | stopped
  deriving DecidableEq, Repr

/-- A hart. -/
structure Hart where
  run     : HartRun
  sb      : List StoreEnt
  cb      : List CombEnt
  /-- Lines held M (64-B line number) with their bytes; lines held S. -/
  mLines  : Map (List Byte)
  sLines  : List Nat
  resv    : Option Resv
  /-- Machine timer and supervisor timer interrupts pending. -/
  mtip    : Bool
  stip    : Bool
  /-- The guest's timer interrupt pending. -/
  vstip   : Bool
  /-- Its privilege mode is M (R456). -/
  mmode   : Bool
  /-- An exception raised and not yet taken (R282): its cause. -/
  trap    : Option Nat
  /-- Counts the hart's buffered stores. -/
  stores  : Nat
  pc      : Nat
  deriving DecidableEq, Repr

/-- An entry of a hart's PMP (R263), as the 4 KiB pages from `lo` up to `hi` it covers. -/
structure PmpEnt where
  lo   : Nat
  hi   : Nat
  r    : Bool
  w    : Bool
  x    : Bool
  lock : Bool
  deriving DecidableEq, Repr

/-- The registers of a hart that R263 sizes: translation roots, interrupt enables, up to 16 PMP entries, mhpmcounter3
to 31. Each hart translates before it sends a command, through tables that the device never reads (R271). -/
structure HartCsrs where
  satp  : Nat
  hgatp : Nat
  /-- Interrupts enabled locally (R280), as mie numbers them: 5 supervisor timer, 6 guest timer, 7 machine timer, 9, 11 and 12 the
  S-level, M-level and guest interrupt files. -/
  mie   : Nat
  pmp   : List PmpEnt
  hpm   : List Nat
  deriving DecidableEq, Repr

/-- The harts and the timer. -/
structure Harts where
  hart     : Map Hart
  /-- mtime at `now = 0`, in 10 ns ticks (R263, R286). -/
  mtimeBase : Nat
  mtimecmp : Map Nat
  /-- By hart: the Sstc comparators of supervisor and guest, and what the guest's time adds to `time` (R286); 0 unless
  listed. -/
  stimecmp : Map Nat
  vstimecmp : Map Nat
  htimedelta : Map Nat
  /-- By hart: the 64-B lines in its L1 data cache, and in its instruction cache (R266). -/
  l1       : Map (List Nat)
  code     : Map (List Nat)
  csrs     : Map HartCsrs
  deriving DecidableEq, Repr

/-! ### Outputs at the block's boundary -/

/-- What leaves the block. -/
inductive OutKind where
  /-- An MSI-X vector to the external host. -/
  | msix
  /-- A datagram or RoCEv2 packet on a port. -/
  | packet
  /-- An Ethernet frame passed on unchanged. -/
  | frame
  /-- A message to the chiplet site. -/
  | chiplet
  /-- A message on a Finov link. -/
  | finov
  /-- A flit body on a Finov link (R423). -/
  | flit
  /-- An answer over the sideband (MCTP, PLDM, SPDM). -/
  | sideband
  /-- A PLDM platform event. -/
  | event
  /-- A datagram of the boot responder. -/
  | boot
  /-- A completion or request on PCIe. -/
  | pcie
  /-- The result of a hart's instruction. -/
  | hart
  /-- A pin's level, or a change of a link's training. -/
  | pin
  deriving DecidableEq, Repr

/-- One output: its kind, numbers that say which, and its bytes. -/
structure Out where
  kind : OutKind
  nums : List Nat
  data : List Byte
  deriving DecidableEq, Repr

/-! ### Frame time base and RAS log -/

/-- The frame time base (R369, R374). -/
structure Ftb where
  /-- T in units of 1/(den · 10^9 · 2^40) of a sub-line tick: the exact accumulator. -/
  acc  : Nat
  /-- Consecutive measurements inside lock_ns, and outside four times lock_ns. -/
  good : Nat
  bad  : Nat
  /-- Time of the last measurement, in ns. -/
  last : Nat
  deriving DecidableEq, Repr

/-- An entry of the RAS log (R473): its four words. -/
structure LogEntry where
  w0 : Nat
  w1 : Nat
  w2 : Nat
  w3 : Nat
  deriving DecidableEq, Repr

/-! ### Cassia (chapter 08) -/

/-- Slot states (R196). -/
inductive SlotSt where
  | free | out | host | inn | retained
  deriving DecidableEq, Repr

/-- An off-load slot that is not FREE: its owner, its tensor, and its host pages in tensor order. -/
structure CasSlot where
  st    : SlotSt
  owner : Nat
  va    : Nat
  len   : Nat
  pages : List Nat
  deriving DecidableEq, Repr

/-- A leaf that an OFFLOAD moves: its virtual address, level and frame. -/
structure CasMove where
  va    : Nat
  level : Nat
  frame : Nat
  deriving DecidableEq, Repr

/-- The Cassia command that runs (R199): its work, its op, its slot's key, the leaves an OFFLOAD moves, and whether its
transfer is over, so that it waits for its last translations to be confirmed invalid only (R252). -/
structure CasRun where
  work  : Nat
  op    : Nat
  slot  : Nat
  moves : List CasMove
  moved : Bool
  deriving DecidableEq, Repr

/-- A page-in (R203): its leaf, the slot and page index it comes from, its HBM frame once it has one, and the
launch whose access caused it, if one did, with whether it is that launch's first (R204). -/
structure PageIn where
  ctx   : Nat
  va    : Nat
  level : Nat
  slot  : Nat
  index : Nat
  frame : Option Nat
  work  : Option Nat
  first : Bool
  deriving DecidableEq, Repr

/-- Cassia. Slots are keyed by 65536 · partition + slot. -/
structure Cas where
  slots   : Map CasSlot
  /-- The off-load carve-out's pages, by partition. -/
  pools   : Map Pool
  run     : Option CasRun
  pageIns : List PageIn
  /-- Works of PREFETCH commands already counted late (R204). -/
  late : List Nat
  deriving DecidableEq, Repr

/-! ### Saffron (chapter 09) -/

/-- A Saffron command the units hold (R213): its work, its bytes (for a PROG_LOAD followed by the program's
micro-ops), the flags it raised, whether a record failed by poison or crc, by version or rule, or could not be
reached; the units that have sent its first-failure and first-skip messages; the records done, as
row · row_records + index; and the units whose load is complete. -/
structure SafCmd where
  work    : Nat
  ctx     : Nat
  cmd     : List Byte
  flags   : Flags
  poison  : Bool
  version : Bool
  gone    : Bool
  failed  : List Nat
  skipped : List Nat
  done    : List Nat
  loaded  : List Nat
  /-- For a unit whose access waits for a page-in: the record, or 0 for a load (R230). -/
  waits   : Map Nat
  deriving DecidableEq, Repr

/-- Saffron: commands in release order; factor slots (8 · unit + slot) as sparse bytes, and program slots
(16 · unit + slot) as micro-ops. A slot not listed is not valid in its unit (R221). -/
structure Saf where
  cmds    : List SafCmd
  factors : Map (Map Byte)
  progs   : Map (List W32)
  deriving DecidableEq, Repr

/-! ### Network barrier groups (R389) -/

/-- One barrier number of a network barrier group. -/
structure NbgPhase where
  phase    : Nat
  /-- Indices of the children that have arrived in this phase. -/
  arrived  : List Nat
  /-- This node's package counter has completed, with the cores behind it. -/
  cores    : Option (List Nat)
  /-- ARRIVE was sent, at this time. -/
  sent     : Option Nat
  /-- A RELEASE came while the launch was saved (R390). -/
  released : Bool
  deriving DecidableEq, Repr

/-- A network barrier group: its context while a phase is in flight, the barriers in flight, and its phases by
barrier number. -/
structure Nbg where
  ctx      : Option Nat
  /-- The launch of its first arrival, by its work; 0 while there is none. -/
  work     : Nat
  inflight : List Nat
  phases   : Map NbgPhase
  deriving DecidableEq, Repr

/-! ### Observability (chapter 20) -/

/-- A part of a Clove slot (R480, R481): its key, format word, counts, FP64 min, max, sum and sum of squares, and
the bytes of its CRC stream. -/
structure ClovePart where
  key : Nat
  fmt : Nat
  n   : Nat
  nan : Nat
  inf : Nat
  mn  : Nat
  mx  : Nat
  sum : Nat
  sq  : Nat
  crc : List Byte
  deriving DecidableEq, Repr

/-- A Clove slot (R479): its state (0 IDLE, 1 ARMED, 2 CLOSED), its registers, its parts in arrival order, and its
record while CLOSED. -/
structure CloveSlot where
  st     : Nat
  ctx    : Nat
  expect : Nat
  tag    : Nat
  dest   : Nat
  /-- Tag and destination as ARM took them. -/
  armTag  : Nat
  armDest : Nat
  parts  : List ClovePart
  record : List Byte
  deriving DecidableEq, Repr

/-- A node of the Starchart record (R485). -/
structure StarNode where
  kind   : Nat
  st     : Nat
  unit   : Nat
  ctx    : Nat
  id     : Nat
  detail : Nat
  deriving DecidableEq, Repr

/-- An edge: its kind, its ends as nodes (by kind and id), its value. -/
structure StarEdge where
  kind  : Nat
  fromN : Nat × Nat
  toN   : Nat × Nat
  value : Nat
  deriving DecidableEq, Repr

/-- A Starchart build in progress (R484): the partitions named, whether it freezes, the key of its first read, and what a build
that freezes has read. -/
structure StarRun where
  mask   : Nat
  freeze : Bool
  stamp  : Nat
  read   : Option (List StarNode × List StarEdge)
  deriving DecidableEq, Repr

/-- Observability: Clove slots by number, the counters' shadows by offset, the upper word of the last
snapshot's stamp, the Starchart build. -/
structure Dbg where
  clove  : Map CloveSlot
  shadow : Map W64
  stampHi : Nat
  star   : Option StarRun
  deriving DecidableEq, Repr

/-! ### Repair and errors (chapter 19) -/

/-- The reload of a bad page of a HOT model (R472): the model, the page's index, whether the hot copy is the bad
one, and the number of the failing 64 KiB page. -/
structure Reload where
  model : Nat
  page  : Nat
  hot   : Bool
  bad   : Nat
  moved : Bool
  deriving DecidableEq, Repr

/-- Repair during a session: per cluster, the number within the cluster that its spare has adopted (R19), and the
one whose spare is being tested (R467); logical cores to retire once their launch has ended; times of corrected
errors by row (R467, R469); reloads in progress; and the entries of the repair record applied at boot, and those
of this session (R464); lanes out of service since boot, by port; corrected errors of the session by source unit. -/
structure Ras where
  adopted  : Map Nat
  testing  : Map Nat
  retiring : List Nat
  /-- Source units of harts, Saffron units, Cassia halves and ports that are out of service. -/
  retired  : List Nat
  rows     : Map (List Nat)
  reloads  : List Reload
  record   : List (List Byte)
  session  : List (List Byte)
  lanes    : Map Nat
  ce       : Map Nat
  deriving DecidableEq, Repr

/-! ### Network (chapter 16) -/

/-- A packet sent and not yet acknowledged (R402): its PSN and how many PSNs it takes (a READ takes one for each
response), the place of its command in the order of releases, its operation (0 WRITE, 1 RWRITE, 2 READ, 3 a write
into the partner's hold area, 4 SHARD_END), its R_Key (or shard copy), offset, length and rank, whether it is its
message's first and last, its immediate, its bytes, and the 64-B granules of them that are poisoned. -/
structure NetPkt where
  psn    : Nat
  span   : Nat
  owner  : Nat
  op     : Nat
  rkey   : Nat
  off    : Nat
  len    : Nat
  rank   : Nat
  first  : Bool
  last   : Bool
  imm    : Option Nat
  data   : List Byte
  poison : List Nat
  deriving DecidableEq, Repr

/-- An RDMA message being received: its operation, R_Key, rank, the offset of its next byte, and its number. -/
structure NetRx where
  op   : Nat
  rkey : Nat
  rank : Nat
  next : Nat
  id   : Nat
  deriving DecidableEq, Repr

/-- A connection (R402, R403): the words of NET_CONN_CFG, _PEER and _PSN, its state (0 RESET, 1 RTS, 2 ERROR), the
next PSN to send and to expect, its unacknowledged packets, the message being received, timeouts since the last
progress, the times of the last progress, of an RNR NAK, of its last CNP sent, of its last halving and of its last
rate change, and its rate in bit/s. -/
structure Conn where
  cfg     : Nat
  peer    : Nat
  psn     : Nat
  st      : Nat
  next    : Nat
  expect  : Nat
  sent    : List NetPkt
  /-- How many of them, the newest, are still to be sent again. -/
  again   : Nat
  rx      : Option NetRx
  retries : Nat
  since   : Nat
  rnr     : Option Nat
  cnpSent : Option Nat
  cut     : Option Nat
  rateAt  : Nat
  rate    : Nat
  deriving DecidableEq, Repr

/-- A staged part of a contribution line (R409): its destination line within the region, its rank, its bytes, the
message it belongs to, and whether it is the first part of its contribution line. -/
structure Staged where
  line  : Nat
  rank  : Nat
  data  : List Byte
  id    : Nat
  lead  : Bool
  /-- The connection it came over. -/
  conn  : Nat
  deriving DecidableEq, Repr

/-- A receiver's message that waits for staged lines of its RWRITE (R406). -/
structure NetNote where
  id   : Nat
  port : Nat
  imm  : Nat
  deriving DecidableEq, Repr

/-- A region (R404, R407): the words of NET_REG_CFG, _VA and _LEN, its rank counters by destination line, its staged
lines, oldest first, the messages that wait for them, and by destination line the ranks applied since its counter was 0, each
with the connection that gave it. -/
structure Region where
  cfg    : Nat
  va     : Nat
  len    : Nat
  ranks  : Map Nat
  staged : List Staged
  notes  : List NetNote
  given  : Map (List (Nat × Nat))
  deriving DecidableEq, Repr

/-- A network command under way (R406): its work, its place in the order of releases, its op and its connection, the
bytes sent, whether everything is sent, and the shard copy a MIRROR writes. -/
structure NetRun where
  work  : Nat
  order : Nat
  op    : Nat
  conn  : Nat
  sent  : Nat
  all   : Bool
  copy  : Nat
  deriving DecidableEq, Repr

/-- A copy in the hold area (R414): its state (0 EMPTY, 1 FILLING, 2 COMPLETE, 3 INCOMPLETE), its length, its bytes
and its poisoned granules, how many bytes have come in, and whether a SHARD_BEGIN for it was not accepted since. -/
structure HoldCopy where
  st     : Nat
  len    : Nat
  bytes  : Map Byte
  poison : List Nat
  got    : Nat
  refused : Bool
  deriving DecidableEq, Repr

/-- A digest record held (R415): its slot and tag, its bytes, since when, and the place in the order of releases of
the DIGEST that sent it, or none where it was received. -/
structure Digest where
  slot  : Nat
  tag   : Nat
  bytes : List Byte
  since : Nat
  own   : Option Nat
  deriving DecidableEq, Repr

/-- Twin pairing (R411 to R418): the state left for PAIRING and the serial recorded then; whether a HELLO with seen = 1 was sent; the twin
sequence number; the times of the last reception, of the last twin traffic sent, of the last HELLO and of the last
sweep; the partner's MAC address, as its last HELLO gave it, its capability word, size and instance; the mirror of its FE_QDONE and
the stamp of the last journal stored, as its two words; the hold area's copies, keyed by
2 · shard + copy, and the newest complete copy of each shard; the copy of each of this module's shards that is newest
at the partner; the digest records held; and whether a commanded detach waits. -/
structure Twin where
  left    : Nat
  serial  : Nat
  seen    : Bool
  seq     : Nat
  lastRx  : Nat
  lastTx  : Nat
  helloAt : Nat
  sweepAt : Nat
  mac     : Option Nat
  cap     : Nat
  size    : Nat
  inst    : Nat
  mirror  : Map W64
  stampLo : Nat
  stampHi : Nat
  hold    : Map HoldCopy
  newest  : Map Nat
  mine    : Map Nat
  digests : List Digest
  leaving : Bool
  deriving DecidableEq, Repr

/-- The NET block. Connection 16,384 is the twin pair's internal one (R411). -/
structure Net where
  conns   : Map Conn
  regions : Map Region
  runs    : List NetRun
  /-- Numbers RDMA messages received. -/
  msgs    : Nat
  /-- The counter carve-out's size in destination lines (R407). -/
  lines   : Nat
  /-- Ports with priority flow control (R396). -/
  pfc     : Nat
  /-- Per port that retrains with its spare, the lane that failed (R397). -/
  subs    : Map Nat
  twin    : Twin
  deriving DecidableEq, Repr

/-! ### Power, boot and the module's pins (chapters 18 and 21) -/

/-- A power command that has not completed (R442, R444, R455): its op, its target (for SHUTDOWN the length of
its buffer in KiB) and its argument (for SHUTDOWN the record's destination). -/
structure PwrRun where
  op     : Nat
  target : Nat
  arg    : Nat
  deriving DecidableEq, Repr

/-- Power: the commands that run; STARTING domains whose shutdown follows; since when each domain has been in
transition; the holder a running command keeps (R436); fallback_cc; since when the PCIe link has been down; the
throttle levels of each die's junction and of the rail; each die's switching step (1 the voltage rises, 2 the PLL
relocks on the way down, 3 on the way up, 4 the voltage falls); the host tier's set point, the one committed, and
whether it is in self-refresh. -/
structure Pwr where
  runs     : List PwrRun
  offNext  : List Nat
  since    : Map Nat
  was      : Option Nat
  wasFor   : List PwrRun
  fallback : Bool
  pcieDown : Option Nat
  tjLevel  : Map Nat
  curLevel : Nat
  phase    : Map Nat
  fsp      : Nat
  fspNext  : Nat
  refresh  : Bool
  deriving DecidableEq, Repr

/-- Boot: a FETCH runs; the boot buffer; the sender the responder is bound to and the time of its last datagram; the
units trained (0-11 stacks, 16-31 channels, 32-34 internal Finov links); the bundle and image as verified, and the
applied record's sequence number. -/
structure Boot where
  fetching : Bool
  buf      : Map Byte
  bound    : Option Nat
  heard    : Nat
  trained  : List Nat
  bundle   : List Byte
  image    : List Byte
  sequence : Nat
  deriving DecidableEq, Repr

/-- What the always-on domain and the 48 V stage hold while P48V is present (R492 to R499): whether housekeeping is
up, the slot number, the levels of PWR_EN, MOD_RST_N and PERST_N, whether PWRGD is high and TRIP_N low, since when
PWR_EN has its level, when a trip was detected whose rail is still on; laser sources without light; the MCTP endpoint
ID, events not read, the step of the SPDM exchange (1 version, 2 capabilities, 3 algorithms, 4 key exchange, 5 in
session); and whether the life-cycle fuse RETURN is blown. -/
structure Pins where
  awake  : Bool
  slot   : Nat
  pwrEn  : Bool
  rstN   : Bool
  perstN : Bool
  pwrgd  : Bool
  trip   : Bool
  enAt   : Nat
  tripAt : Option Nat
  dark   : List Nat
  eid    : Nat
  events : Nat
  spdm   : Nat
  retn   : Bool
  deriving DecidableEq, Repr

/-! ### Finov and the chiplet site (chapter 17) -/

/-- A Finov message: its header's fields (R424) and its data slots of 16 B. -/
structure FinovMsg where
  channel : Nat
  opcode  : Nat
  status  : Nat
  va      : Bool
  tag     : Nat
  source  : Nat
  addr    : Nat
  data    : List (List Byte)
  deriving DecidableEq, Repr

/-- Who waits for the answer to a request to the chiplet window: a core's access, a hart's load of `n` bytes, a
hart's store, an engine (of a core, where it is its mover or array), or another die's request that the IOD passes on. -/
inductive ChipUser where
  | core (n id : Nat)
  | hartLoad (h pa n : Nat)
  /-- The second half of a 16-byte load, with the first half's bytes (R277). -/
  | hartPair (h pa : Nat) (low : List Byte)
  | hartStore (h pa : Nat)
  | engine (core : Option Nat)
  /-- The link it came on, the opcode that answers it, and its tag, address and source. -/
  | finov (l rsp tag addr src : Nat)
  deriving DecidableEq, Repr

/-- A request to the chiplet that has no answer yet: its tag, its line's offset in the window, who waits. -/
structure ChipReq where
  tag  : Nat
  line : Nat
  user : ChipUser
  deriving DecidableEq, Repr

/-- A CHIP command that runs (R433): its tag, its work and context, and when its ABORT was sent. -/
structure ChipCmd where
  tag   : Nat
  work  : Nat
  ctx   : Nat
  abort : Option Nat
  deriving DecidableEq, Repr

/-- A command the chiplet has received and not ended: its tag, its 64 bytes, what the chiplet reads in bytes 63:2 (SDI_FRAME:
output, key, address, bytes; DECODE: address, pitch), and whether it was asked to stop. -/
structure ChipTask where
  tag    : Nat
  cmd    : List Byte
  fields : List Nat
  abort  : Bool
  deriving DecidableEq, Repr

/-- The Finov links (R423, R425). By link: the slots that wait for a flit, and those of a message that has not all come. By
16 × link + channel: messages that wait for credits, and messages that have come and are not yet served. By 16 × link +
2 × channel, plus 1 for data: the credits the device may still spend, those the other side may, and those to be returned. -/
structure FlitLinks where
  tx   : Map (List (List Byte))
  rx   : Map (List (List Byte))
  wait : Map (List FinovMsg)
  inq  : Map (List FinovMsg)
  can  : Map Nat
  may  : Map Nat
  owed : Map Nat
  deriving DecidableEq, Repr

/-- The D2D block and the chiplet: requests and commands under way, the next request tag, when CAP was sent in
the negotiation that runs, the tasks of the Frame I/O chiplet, and the frame each SDI output last put out. -/
structure D2d where
  reqs    : List ChipReq
  nextTag : Nat
  cmds    : List ChipCmd
  capAt   : Option Nat
  tasks   : List ChipTask
  sdi     : Map (List Byte)
  deriving DecidableEq, Repr

/-- Everything of the block but the queue of waiting commands. -/
structure World where
  /-- Time since reset, in ns. -/
  now     : Nat
  /-- MODEL'S OWN: how many open values have been used. -/
  freeIdx : Nat
  /-- Registers written since reset, by offset (R5, R30); an unlisted one reads its reset value. -/
  regs    : Map W64
  irq     : Irq
  mem     : Mem
  cores   : Map Core
  fe      : Fe
  sched   : Sched
  harts   : Harts
  ftb     : Ftb
  /-- The RAS log's 256 slots. -/
  log     : Map LogEntry
  /-- MODEL'S OWN: what has left the block, newest first. -/
  outs    : List Out
  cas     : Cas
  saf     : Saf
  /-- Network barrier groups 0-15. -/
  nbgs    : Map Nbg
  dbg     : Dbg
  ras     : Ras
  net     : Net
  pwr     : Pwr
  boot    : Boot
  pins    : Pins
  d2d     : D2d
  flits   : FlitLinks
  deriving DecidableEq, Repr

/-- The state: the commands that wait, first in first out, and the block. -/
structure State where
  pending : List Instr
  w       : World
  deriving DecidableEq, Repr

/-! ### Reset -/

def Irq.reset : Irq := { inbox := [], seqs := [], waiting := [], flight := [], imsic := [] }

def StatBuf.reset : StatBuf := { fmt := none, elems := [], scale := [] }

def Matrix.reset : Matrix :=
  { acc := [], buf0 := StatBuf.reset, buf1 := StatBuf.reset, active := 0, proj0 := none, proj1 := none,
    projActive := 0, swapAt := none, queue := [], loader := none, streams := [], drainer := none }

/-- A core after core reset: no launch, nothing resident. DESIGN CHOICE: the round robin of R168 starts at quarter 0, so the
last quarter granted is 3; the spec names no start. -/
def Core.reset : Core :=
  { launch := none, stopped := false, clearBusy := false, groups := [], lastSlot := [], sems := [], flags := 0,
    slm := [], slmPoison := [], marks := [], slmq := [], lastGrant := 3, nextId := 1, accs := [], l1 := [], ccache := [],
    icache := [], tlb := [], mx := Matrix.reset, tmq := [], tmRun := none, arrived := [], held := [], phases := [], expect := 0, gated := [], ftSeen := 0, epoch := 0,
    sends := 0, tmLines := 0, cut := [], trapCycle := none }

def Mem.reset : Mem :=
  { bytes := [], poison := [], host := [], lines := [], invBusy := 0xFFF, sysBusy := true, fills := [],
    detectors := [], pte := [], ctlb := [], etlb := [], inval := [], hbmPools := [], hostPools := [], objs := [],
    nextObj := 1, models := [], releases := 0, maps := [], tableRoom := 0, tables := [], held := [], later := [] }

def Fe.reset : Fe :=
  { ctxs := [], queues := [], works := [], orders := 0, launches := [], preloads := [], graphs := [],
    nodes := [], runs := [], subs := [], ctxRun := none, enabling := [] }

def Sched.reset : Sched :=
  { residency := [], moved := [], turn := [], turnHeld := [], lastRan := [], saved := [], preempt := [],
    steps := [], hold := [], levels := [], rates := [], holding := [] }

def Hart.reset : Hart :=
  { run := .running, sb := [], cb := [], mLines := [], sLines := [], resv := none, mtip := false,
    stip := false, vstip := false, mmode := true, trap := none, stores := 0, pc := 0 }

/-- DESIGN CHOICE: the spec gives these registers no reset value; they are 0, and no PMP entry covers anything. -/
def HartCsrs.reset : HartCsrs := { satp := 0, hgatp := 0, mie := 0, pmp := [], hpm := List.replicate 29 0 }

def Harts.reset : Harts :=
  { hart := [], mtimeBase := 0, mtimecmp := [], stimecmp := [], vstimecmp := [], htimedelta := [], l1 := [], code := [], csrs := [] }

def Cas.reset : Cas := { slots := [], pools := [], run := none, pageIns := [], late := [] }

def Saf.reset : Saf := { cmds := [], factors := [], progs := [] }

def Ftb.reset : Ftb := { acc := 0, good := 0, bad := 0, last := 0 }

def Ras.reset : Ras :=
  { adopted := [], testing := [], retiring := [], retired := [], rows := [], reloads := [], record := [], session := [], lanes := [], ce := [] }

def Dbg.reset : Dbg := { clove := [], shadow := [], stampHi := 0, star := none }

def Twin.reset : Twin :=
  { left := 0, serial := 0, seen := false, seq := 0, lastRx := 0, lastTx := 0, helloAt := 0, sweepAt := 0, mac := none, cap := 0, size := 0,
    inst := 0, mirror := [], stampLo := 0, stampHi := 0, hold := [], newest := [], mine := [], digests := [], leaving := false }

def Net.reset : Net := { conns := [], regions := [], runs := [], msgs := 0, lines := 0, pfc := 0, subs := [], twin := Twin.reset }

def D2d.reset : D2d := { reqs := [], nextTag := 0, cmds := [], capAt := none, tasks := [], sdi := [] }

def Pwr.reset : Pwr :=
  { runs := [], offNext := [], since := [], was := none, wasFor := [], fallback := false, pcieDown := some 0, tjLevel := [],
    curLevel := 0, phase := [], fsp := 0, fspNext := 0, refresh := false }

def Boot.reset : Boot :=
  { fetching := false, buf := [], bound := none, heard := 0, trained := [], bundle := [], image := [], sequence := 0 }

/-- Input power has just come: PWR_EN is low and MOD_RST_N high by their pull resistors, PERST_N is held low. -/
def Pins.reset : Pins :=
  { awake := false, slot := 0, pwrEn := false, rstN := true, perstN := false, pwrgd := false, trip := false, enAt := 0,
    tripAt := none, dark := [], eid := 0, events := 0, spdm := 0, retn := false }

/-- Registers that fuses load (R7): GLB_ID, NET_MAC_BASE, PWR_TRIP, RAS_LIFECYCLE and RAS_SERIAL. -/
def fuseRegs : Map W64 :=
  [(0x0, 0x4E4C0E0100000001#64 ||| (Config.stepping.zeroExtend 64 <<< 24)),
   (0x700020, Config.macBase.zeroExtend 64),
   (0x900810, (Config.hbmTrip.zeroExtend 64 <<< 8) ||| Config.tjTrip.zeroExtend 64),
   (0xA00000, match Config.lifecycle with | .manufacture => 0 | .production => 1 | .retn => 2),
   (0xA00008, Config.serial)]

/-- The block right after reset. -/
def World.reset : World :=
  { now := 0, freeIdx := 0, regs := fuseRegs, irq := Irq.reset, mem := Mem.reset, cores := [], fe := Fe.reset,
    sched := Sched.reset, harts := Harts.reset, ftb := Ftb.reset, log := [], outs := [], cas := Cas.reset, saf := Saf.reset, nbgs := [],
    dbg := Dbg.reset, ras := Ras.reset, net := Net.reset, pwr := Pwr.reset, boot := Boot.reset, pins := Pins.reset, d2d := D2d.reset
    flits := { tx := [], rx := [], wait := [], inq := [], can := [], may := [], owed := [] } }

/-- The machine right after reset: no command waits. -/
def State.reset : State := { pending := [], w := World.reset }

end Sys2Proof.Machine
end

