-- ==== Sys2Proof/Machine/Flits.lean ====
section
/-!
DEFINITION. Finov's flit bodies and message slots (R423, R424, R426): building them, and reading them with the checks of
R429.
-/
namespace Sys2Proof.Machine

/-! ### Slots -/

/-- A list of bytes cut, or filled with zeros, to a length. -/
def padTo (n : Nat) (bs : List Byte) : List Byte := (bs ++ List.replicate n 0).take n

/-- The 16-byte slots of a message's data. -/
def dataSlots (bs : List Byte) : List (List Byte) :=
  (List.range ((bs.length + 15) / 16)).map (fun i => padTo 16 (bs.drop (16 * i)))

/-! ### Channels and statuses (R424, R425) -/

def chMemReq : Nat := 0
def chMemRsp : Nat := 1
def chCohReq : Nat := 2
def chCohRsp : Nat := 3
def chInt : Nat := 4
def chDbg : Nat := 5
def chMgmt : Nat := 6

def fvOK : Nat := 0
def fvPoison : Nat := 1
def fvErr : Nat := 2

/-- Channels that carry data slots (R426): all but COH_REQ. -/
def carriesData (ch : Nat) : Bool := ch ≠ 2

/-- The key of a channel of a link. -/
def chanKey (l ch : Nat) : Nat := 16 * l + ch

/-- The key of a channel's credits, of headers or of data slots. -/
def creditKey (l ch : Nat) (data : Bool) : Nat := 16 * l + 2 * ch + b2n data

/-- The credits a receiver of a link offers on a channel (R430): of headers at least 2, of data at least 9 where the channel
carries any, and at most 255. PRESUMED: the minima of R431 hold on the internal links too. -/
def ownCredits (l ch : Nat) (data : Bool) : Nat :=
  let x := Config.linkCredits (creditKey l ch data)
  if !data then 2 + x % 254 else if carriesData ch then 9 + x % 247 else 0

/-- The header slot. -/
def headSlot (m : FinovMsg) : List Byte :=
  natLe (m.channel % 16) 1 ++ natLe m.opcode 1 ++ natLe m.data.length 1 ++ natLe (m.status % 8 + 8 * b2n m.va) 1 ++
    natLe m.tag 2 ++ natLe (m.source % 2 ^ 12) 2 ++ natLe (m.addr % 2 ^ 57) 8

def msgSlots (m : FinovMsg) : List (List Byte) := headSlot m :: m.data

/-- The channels an opcode goes on, and its data slots (R426); none for a reserved opcode. -/
def opShape : Nat → Option (List Nat × Nat)
  | 0x01 => some ([0], 0) | 0x02 => some ([0], 8) | 0x03 => some ([0], 9) | 0x04 => some ([0], 1)
  | 0x10 => some ([1], 8) | 0x11 => some ([1], 0) | 0x12 => some ([1], 1)
  | 0x20 => some ([2], 0) | 0x21 => some ([2], 0) | 0x22 => some ([2], 0)
  | 0x28 => some ([3], 0) | 0x29 => some ([3], 4)
  | 0x30 => some ([4], 1)
  | 0x40 => some ([5, 6], 0) | 0x41 => some ([5, 6], 1) | 0x42 => some ([5, 6], 1)
  | 0x50 => some ([6], 2) | 0x51 => some ([6], 4) | 0x52 => some ([6], 0) | 0x53 => some ([6], 1)
  | _ => none

/-- The cause D2D_ERR names for a header slot, 0 for none: 3 a reserved field or channel, 4 an opcode the channel does not
have, or with another number of data slots. -/
def headCause (h : List Byte) : Nat :=
  if 7 ≤ le h 0 1 || 16 ≤ le h 3 1 || 2 ^ 12 ≤ le h 6 2 || 2 ^ 57 ≤ le h 8 8 then 3
  else match opShape (le h 1 1) with
    | some x => if x.1.contains (le h 0 1) && x.2 = le h 2 1 then 0 else 4
    | none => 4

/-- The first message of some slots, and the slots after it; none while its slots have not all come. -/
def nextMsg : List (List Byte) → Option (FinovMsg × List (List Byte))
  | [] => none
  | h :: t =>
    let k := le h 2 1
    if t.length < k then none
    else some ({ channel := bits (le h 0 1) 0 4, opcode := le h 1 1, status := bits (le h 3 1) 0 3, va := bit (le h 3 1) 3
                 tag := le h 4 2, source := bits (le h 6 2) 0 12, addr := bits (le h 8 8) 0 57, data := t.take k }, t.drop k)

/-! ### Flit bodies -/

/-- A credit return: a channel's credits, of headers or of data slots. -/
structure CreditRet where
  channel : Nat
  data    : Bool
  count   : Nat
  deriving DecidableEq, Repr

/-- A flit body: at most four credit returns and at most 14 slots. -/
structure FlitBody where
  credits : List CreditRet
  slots   : List (List Byte)
  deriving DecidableEq, Repr

def creditWord (c : CreditRet) : Nat := c.channel % 16 * 2 ^ 20 + b2n c.data * 2 ^ 19 + c.count % 2 ^ 16

/-- The 240 bytes of a body. -/
def flitBytes (f : FlitBody) : List Byte :=
  padTo 240 ([1] ++ natLe f.slots.length 1 ++ [0, 0] ++
    padTo 12 ((f.credits.take 4).flatMap (fun c => natLe (creditWord c) 3)) ++ f.slots.flatten)

/-- The cause D2D_ERR names for a body, 0 for none: 1 version, 2 slot count, 3 a reserved field, of the credit returns too,
or a slot beyond `used` that is not zero. -/
def flitCause (b : List Byte) : Nat :=
  let credit (i : Nat) : Nat := le b (4 + 3 * i) 3
  if le b 0 1 ≠ 1 then 1
  else if 14 < le b 1 1 then 2
  else if le b 2 2 ≠ 0 || (List.range 4).any (fun i => bits (credit i) 16 3 ≠ 0 || 7 ≤ bits (credit i) 20 4) ||
      !((b.drop (16 + 16 * le b 1 1)).all (· = 0)) then 3
  else 0

/-- A body as it is read; none where a check fails. -/
def parseFlit (b : List Byte) : Option FlitBody :=
  if flitCause b ≠ 0 then none
  else
    let credits := (List.range 4).map (fun i =>
      let x := le b (4 + 3 * i) 3
      (⟨bits x 20 4, bit x 19, bits x 0 16⟩ : CreditRet))
    some { credits := credits.filter (fun c => c.count ≠ 0)
           slots := (List.range (le b 1 1)).map (fun i => (b.drop (16 + 16 * i)).take 16) }

end Sys2Proof.Machine
end

