-- ==== Sys2Proof/Machine/Regs.lean ====
section
/-!
DEFINITION. The register window (R5 to R8, R30, R31): every register's offset, its reset value and the bits a
write stores, clears or sets, from the register tables of the chapters; and reads and writes of register
state by the block itself.
-/
namespace Sys2Proof.Machine

/-! ### Offsets -/

def rGLB_ID : Nat := 0x0
def rGLB_FEAT0 : Nat := 0x8
def rGLB_FEAT1 : Nat := 0x10
def rGLB_UDROOT : Nat := 0x18
def rGLB_UDGEN : Nat := 0x20
def rGLB_LLYN_STATUS : Nat := 0x28
def rGLB_BOOT_STATUS : Nat := 0x100
def rGLB_BOOT_SRC : Nat := 0x108
def rGLB_BOOT_LEN : Nat := 0x110
def rGLB_BOOT_CMD : Nat := 0x118
def rGLB_LLYN_CMD : Nat := 0x120
def rCC_ID : Nat := 0x4000
def rCC_IRQ_STATUS : Nat := 0x4008
def rCC_FWD : Nat := 0x4010
def rCC_RECALL : Nat := 0x4018
def rCC_ROUTE (n : Nat) : Nat := 0x5000 + 0x8 * n
def rCC_NQ_BASE (n : Nat) : Nat := 0x6000 + 0x40 * n
def rCC_NQ_CFG (n : Nat) : Nat := 0x6008 + 0x40 * n
def rCC_NQ_HEAD (n : Nat) : Nat := 0x6010 + 0x40 * n
def rCC_NQ_TAIL (n : Nat) : Nat := 0x6018 + 0x40 * n
def rCC_NQ_DROP (n : Nat) : Nat := 0x6020 + 0x40 * n
def rFE_CAP : Nat := 0x100000
def rFE_EPOCH : Nat := 0x100008
def rFE_LAUNCH_ERR : Nat := 0x100010
def rFE_GRAPH : Nat := 0x100018
def rFE_SLOT (n : Nat) : Nat := 0x100100 + 0x8 * n
def rFE_ENTRIES : Nat := 0x100200
def rFE_LAUNCHES : Nat := 0x100208
def rFE_PRELOAD_MISS : Nat := 0x100210
def rFE_DB_DROP : Nat := 0x100218
def rFE_SLOT_MAPS : Nat := 0x100220
def rFE_QBASE (n : Nat) : Nat := 0x110000 + 0x40 * n
def rFE_QCFG (n : Nat) : Nat := 0x110008 + 0x40 * n
def rFE_QCTL (n : Nat) : Nat := 0x110010 + 0x40 * n
def rFE_QSEQ (n : Nat) : Nat := 0x110018 + 0x40 * n
def rFE_QDONE (n : Nat) : Nat := 0x110020 + 0x40 * n
def rFE_QLIM (n : Nat) : Nat := 0x110028 + 0x40 * n
def rFE_QSTAT (n : Nat) : Nat := 0x110030 + 0x40 * n
def rFE_HN_BASE (n : Nat) : Nat := 0x120000 + 0x40 * n
def rFE_HN_CFG (n : Nat) : Nat := 0x120008 + 0x40 * n
def rFE_HN_HEAD (n : Nat) : Nat := 0x120010 + 0x40 * n
def rFE_HN_TAIL (n : Nat) : Nat := 0x120018 + 0x40 * n
def rFE_HN_DROP (n : Nat) : Nat := 0x120020 + 0x40 * n
def rFE_CTX_SEL : Nat := 0x130000
def rFE_CTX_ARG0 : Nat := 0x130008
def rFE_CTX_ARG1 : Nat := 0x130010
def rFE_CTX_ARG2 : Nat := 0x130018
def rFE_CTX_CMD : Nat := 0x130020
def rFE_CTX_RESULT : Nat := 0x130028
def rFE_CTX_INFO : Nat := 0x130030
def rFE_CTX_FLAGS : Nat := 0x130038
def rFE_CTX_STAMP : Nat := 0x130040
def rFE_CTX_LIVE : Nat := 0x130048
def rFE_CTX_LOSSES : Nat := 0x130050
def rFE_SUB_SENT : Nat := 0x130058
def rFE_OBJ_FREED : Nat := 0x130060
def rSCHED_PART_CFG (n : Nat) : Nat := 0x200000 + 0x8 * n
def rSCHED_PART_POL (n : Nat) : Nat := 0x200080 + 0x8 * n
def rSCHED_SAVE (n : Nat) : Nat := 0x200100 + 0x8 * n
def rSCHED_REG_HBM (n : Nat) : Nat := 0x200180 + 0x8 * n
def rSCHED_REG_HOST (n : Nat) : Nat := 0x200200 + 0x8 * n
def rSCHED_REG_NET (n : Nat) : Nat := 0x200280 + 0x8 * n
def rSCHED_PART_STATUS (n : Nat) : Nat := 0x200300 + 0x8 * n
def rSCHED_CTX_SEL : Nat := 0x200400
def rSCHED_CTX_INFO : Nat := 0x200408
def rMER_CTL : Nat := 0x201000
def rSCHED_PREEMPTS : Nat := 0x201100
def rSCHED_RESTORES : Nat := 0x201108
def rSCHED_SWAP_OUT : Nat := 0x201110
def rSCHED_SWAP_IN : Nat := 0x201118
def rSCHED_SWAP_FAIL : Nat := 0x201120
def rSCHED_REG_WAIT : Nat := 0x201128
def rMER_STEPS : Nat := 0x201130
def rMER_DECISIONS : Nat := 0x201138
def rMER_FALLBACKS : Nat := 0x201140
def rMER_LATE : Nat := 0x201148
def rMER_LATE_FALLBACK : Nat := 0x201150
def rMEM_CFG : Nat := 0x300000
def rMEM_MODE : Nat := 0x300008
def rMEM_PRIO : Nat := 0x300010
def rMEM_CLASS : Nat := 0x300018
def rMEM_PF_CTL : Nat := 0x300020
def rMEM_STATUS : Nat := 0x300028
def rMEM_POOL_HBM (n : Nat) : Nat := 0x300100 + 0x8 * n
def rMEM_POOL_HOST (n : Nat) : Nat := 0x300180 + 0x8 * n
def rMEM_HOT (n : Nat) : Nat := 0x300200 + 0x8 * n
def rMEM_FAULT : Nat := 0x300300
def rMEM_FAULT_VA : Nat := 0x300308
def rMEM_THERM_CFG : Nat := 0x300400
def rMEM_THERM_STACK (n : Nat) : Nat := 0x300410 + 0x8 * n
def rMEM_SC_HIT : Nat := 0x300500
def rMEM_SC_MISS : Nat := 0x300508
def rMEM_SC_DIRTY_EVICT : Nat := 0x300510
def rMEM_PF_ISSUED : Nat := 0x300518
def rMEM_PF_DROP : Nat := 0x300520
def rMEM_AGE_PROMOTE : Nat := 0x300528
def rMEM_MODEL_MISS : Nat := 0x300530
def rMEM_TLB_SHOOT : Nat := 0x300538
def rSAF_CFG : Nat := 0x400000
def rSAF_UNIT_STATUS (n : Nat) : Nat := 0x400100 + 0x8 * n
def rSAF_SLOTS : Nat := 0x400200
def rSAF_ERR : Nat := 0x400208
def rSAF_ERR_VA : Nat := 0x400210
def rSAF_RECORDS : Nat := 0x400300
def rSAF_SKIPPED : Nat := 0x400308
def rSAF_WRAPS : Nat := 0x400310
def rSAF_REJECT : Nat := 0x400318
def rSAF_RD_BYTES : Nat := 0x400320
def rSAF_WR_BYTES : Nat := 0x400328
def rCAS_STATUS : Nat := 0x500000
def rCAS_PART_CFG (n : Nat) : Nat := 0x500100 + 0x8 * n
def rCAS_PAGEIN_LIMIT (n : Nat) : Nat := 0x500200 + 0x8 * n
def rCAS_SLOT_SEL : Nat := 0x500300
def rCAS_SLOT_INFO : Nat := 0x500308
def rCAS_SLOT_VA : Nat := 0x500310
def rCAS_SLOT_HOST : Nat := 0x500318
def rCAS_BYTES_OUT : Nat := 0x500400
def rCAS_BYTES_IN : Nat := 0x500408
def rCAS_PAGEINS : Nat := 0x500410
def rCAS_LATE : Nat := 0x500418
def rCAS_NOSPACE : Nat := 0x500420
def rCAS_REJECT : Nat := 0x500428
def rFTB_CFG : Nat := 0x600000
def rFTB_RATE : Nat := 0x600008
def rFTB_STATUS : Nat := 0x600010
def rFTB_NOW_LO : Nat := 0x600018
def rFTB_NOW_HI : Nat := 0x600020
def rFTB_SERVO : Nat := 0x600028
def rFTB_OFFSET : Nat := 0x600030
def rFTB_CTL : Nat := 0x600038
def rFTB_ALIGN : Nat := 0x600040
def rFTB_STEPS : Nat := 0x600080
def rFTB_LOSSES : Nat := 0x600088
def rFTB_MEAS : Nat := 0x600090
def rBT_NBG_CFG (n : Nat) : Nat := 0x601000 + 0x80 * n
def rBT_NBG_CHILD (c n : Nat) : Nat := 0x601008 + 0x80 * c + 0x8 * n
def rBT_NBG_STATUS (n : Nat) : Nat := 0x601040 + 0x80 * n
def rBT_COMPLETIONS : Nat := 0x602000
def rBT_NET_RETRY : Nat := 0x602008
def rBT_NET_DROP : Nat := 0x602010
def rNET_CFG : Nat := 0x700000
def rNET_ROLE : Nat := 0x700008
def rNET_UDP : Nat := 0x700010
def rNET_NODETAB : Nat := 0x700018
def rNET_MAC_BASE : Nat := 0x700020
def rNET_PORT_STATUS (n : Nat) : Nat := 0x700100 + 0x8 * n
def rNET_PORT_GW (n : Nat) : Nat := 0x700200 + 0x8 * n
def rNET_CONN_SEL : Nat := 0x700300
def rNET_CONN_CFG : Nat := 0x700308
def rNET_CONN_PEER : Nat := 0x700310
def rNET_CONN_PSN : Nat := 0x700318
def rNET_REG_SEL : Nat := 0x700400
def rNET_REG_CFG : Nat := 0x700408
def rNET_REG_VA : Nat := 0x700410
def rNET_REG_LEN : Nat := 0x700418
def rNET_TWIN_CFG : Nat := 0x700500
def rNET_TWIN_TIMER : Nat := 0x700508
def rNET_TWIN_STATUS : Nat := 0x700510
def rNET_TWIN_CTL : Nat := 0x700518
def rNET_TWIN_SERIAL : Nat := 0x700520
def rNET_TJ_SEL : Nat := 0x700600
def rNET_TJ_SEQ : Nat := 0x700608
def rNET_TJ_STAMP_LO : Nat := 0x700610
def rNET_TJ_STAMP_HI : Nat := 0x700618
def rNET_SHARD_SEL : Nat := 0x700700
def rNET_SHARD_INFO : Nat := 0x700708
def rNET_RETX : Nat := 0x700800
def rNET_CNP_RX : Nat := 0x700808
def rNET_RNR_TX : Nat := 0x700810
def rNET_REDUCE_LINES : Nat := 0x700818
def rNET_REDUCE_STAGED : Nat := 0x700820
def rNET_JOURNAL_RX : Nat := 0x700828
def rNET_DIGEST_MATCH : Nat := 0x700830
def rNET_DIGEST_MISMATCH : Nat := 0x700838
def rNET_DIGEST_EXPIRED : Nat := 0x700840
def rNET_LANE_SUB : Nat := 0x700848
def rNET_FR_DROP : Nat := 0x700850
def rNET_FR_RX_BASE (n : Nat) : Nat := 0x701000 + 0x100 * n
def rNET_FR_RX_CFG (n : Nat) : Nat := 0x701008 + 0x100 * n
def rNET_FR_RX_HEAD (n : Nat) : Nat := 0x701010 + 0x100 * n
def rNET_FR_RX_TAIL (n : Nat) : Nat := 0x701018 + 0x100 * n
def rNET_FR_TX_BASE (n : Nat) : Nat := 0x701040 + 0x100 * n
def rNET_FR_TX_CFG (n : Nat) : Nat := 0x701048 + 0x100 * n
def rNET_FR_TX_HEAD (n : Nat) : Nat := 0x701050 + 0x100 * n
def rNET_FR_TX_TAIL (n : Nat) : Nat := 0x701058 + 0x100 * n
def rD2D_LINK_STATUS (n : Nat) : Nat := 0x800000 + 0x8 * n
def rD2D_CHIP_CAP0 : Nat := 0x800100
def rD2D_CHIP_STATUS : Nat := 0x800108
def rD2D_CHIP_CTL : Nat := 0x800110
def rD2D_ERR : Nat := 0x800200
def rD2D_FLITS_TX (n : Nat) : Nat := 0x800300 + 0x20 * n
def rD2D_FLITS_RX (n : Nat) : Nat := 0x800308 + 0x20 * n
def rD2D_RETRY (n : Nat) : Nat := 0x800310 + 0x20 * n
def rPWR_AUTH : Nat := 0x900000
def rPWR_CMD : Nat := 0x900008
def rPWR_ARG : Nat := 0x900010
def rPWR_CMD_STATUS : Nat := 0x900018
def rPWR_DOM (n : Nat) : Nat := 0x900100 + 0x8 * n
def rPWR_OP (n : Nat) : Nat := 0x900600 + 0x8 * n
def rPWR_EPOCH : Nat := 0x900700
def rPWR_CEIL_TJ : Nat := 0x900800
def rPWR_CEIL_CUR : Nat := 0x900808
def rPWR_TRIP : Nat := 0x900810
def rPWR_TRIP_INFO : Nat := 0x900818
def rPWR_THROT (n : Nat) : Nat := 0x900820 + 0x8 * n
def rPWR_RAIL : Nat := 0x900900
def rPWR_INPUT : Nat := 0x900908
def rPWR_COOLANT : Nat := 0x900910
def rPWR_DENIED : Nat := 0x900a00
def rPWR_THROT_CYCLES : Nat := 0x900a08
def rRAS_LIFECYCLE : Nat := 0xa00000
def rRAS_SERIAL : Nat := 0xa00008
def rRAS_STATUS : Nat := 0xa00010
def rRAS_CTL : Nat := 0xa00018
def rRAS_CE_CFG : Nat := 0xa00020
def rRAS_LOG_STATUS : Nat := 0xa00028
def rRAS_LOG_SEL : Nat := 0xa00030
def rRAS_LOG_W0 : Nat := 0xa00038
def rRAS_LOG_W1 : Nat := 0xa00040
def rRAS_LOG_W2 : Nat := 0xa00048
def rRAS_LOG_W3 : Nat := 0xa00050
def rRAS_CLUSTER (n : Nat) : Nat := 0xa00100 + 0x8 * n
def rRAS_HBM (n : Nat) : Nat := 0xa00200 + 0x8 * n
def rRAS_CE_COUNT : Nat := 0xa00400
def rRAS_UE_COUNT : Nat := 0xa00408
def rRAS_POISON_CONSUMED : Nat := 0xa00410
def rRAS_ACCESS_ERR : Nat := 0xa00418
def rRAS_PAGES_RETIRED : Nat := 0xa00420
def rRAS_CORES_RETIRED : Nat := 0xa00428
def rDBG_SNAP_CTL : Nat := 0xb00000
def rDBG_SNAP_AT_LO : Nat := 0xb00008
def rDBG_SNAP_AT_HI : Nat := 0xb00010
def rDBG_SNAP_STATUS : Nat := 0xb00018
def rDBG_SNAP_STAMP_LO : Nat := 0xb00020
def rDBG_SNAP_STAMP_HI : Nat := 0xb00028
def rDBG_CLOVE_SEL : Nat := 0xb01000
def rDBG_CLOVE_CFG : Nat := 0xb01008
def rDBG_CLOVE_TAG : Nat := 0xb01010
def rDBG_CLOVE_DEST : Nat := 0xb01018
def rDBG_CLOVE_CMD : Nat := 0xb01020
def rDBG_CLOVE_REC (n : Nat) : Nat := 0xb01100 + 0x8 * n
def rDBG_STAR_DEST : Nat := 0xb02000
def rDBG_STAR_LEN : Nat := 0xb02008
def rDBG_STAR_CMD : Nat := 0xb02010
def rDBG_STAR_STATUS : Nat := 0xb02018
def rDBG_SLM_RD (n : Nat) : Nat := 0xb10000 + 0x20 * n
def rDBG_SLM_WR (n : Nat) : Nat := 0xb10008 + 0x20 * n
def rDBG_L1_HIT (n : Nat) : Nat := 0xb10010 + 0x20 * n
def rDBG_L1_FILL (n : Nat) : Nat := 0xb10018 + 0x20 * n
def rDBG_SC_RD (n : Nat) : Nat := 0xb20000 + 0x20 * n
def rDBG_SC_WR (n : Nat) : Nat := 0xb20008 + 0x20 * n
def rDBG_HBM_RD (n : Nat) : Nat := 0xb20010 + 0x20 * n
def rDBG_HBM_WR (n : Nat) : Nat := 0xb20018 + 0x20 * n
def rDBG_HOST_RD (n : Nat) : Nat := 0xb20200 + 0x10 * n
def rDBG_HOST_WR (n : Nat) : Nat := 0xb20208 + 0x10 * n
def rDBG_SYSC_RD : Nat := 0xb20300
def rDBG_SYSC_WR : Nat := 0xb20308
def rDBG_D2D_TX (n : Nat) : Nat := 0xb20400 + 0x10 * n
def rDBG_D2D_RX (n : Nat) : Nat := 0xb20408 + 0x10 * n
def rDBG_PORT_TX (n : Nat) : Nat := 0xb20500 + 0x10 * n
def rDBG_PORT_RX (n : Nat) : Nat := 0xb20508 + 0x10 * n
def rKX_STATUS (c : Nat) : Nat := 0x1003000 + 0x10000 * c
def rKX_TRAP_INFO (c : Nat) : Nat := 0x1003008 + 0x10000 * c
def rKX_TRAP_PC (c : Nat) : Nat := 0x1003010 + 0x10000 * c
def rKX_ISSUE (c : Nat) : Nat := 0x1003018 + 0x10000 * c
def rKX_DIVERGE (c : Nat) : Nat := 0x1003020 + 0x10000 * c
def rKX_FAVOUR (c : Nat) : Nat := 0x1003028 + 0x10000 * c
def rMX_STATUS (c : Nat) : Nat := 0x1004000 + 0x10000 * c
def rMX_ROWS (c : Nat) : Nat := 0x1004008 + 0x10000 * c
def rMX_BUBBLE (c : Nat) : Nat := 0x1004010 + 0x10000 * c
def rMX_DRAIN_STALL (c : Nat) : Nat := 0x1004018 + 0x10000 * c
def rCM_STATUS (c : Nat) : Nat := 0x1005000 + 0x10000 * c
def rCM_SLM_REPLAY (c : Nat) : Nat := 0x1005008 + 0x10000 * c
def rCM_SLM_WAIT (c : Nat) : Nat := 0x1005010 + 0x10000 * c
def rCM_L1_HIT (c : Nat) : Nat := 0x1005018 + 0x10000 * c
def rCM_L1_MISS (c : Nat) : Nat := 0x1005020 + 0x10000 * c
def rSY_SEM (c n : Nat) : Nat := 0x1006000 + 0x10000 * c + 0x8 * n
def rSY_WAIT_SEL (c : Nat) : Nat := 0x1006080 + 0x10000 * c
def rSY_WAIT_INFO (c : Nat) : Nat := 0x1006088 + 0x10000 * c
def rSY_WAIT_FRAME (c : Nat) : Nat := 0x1006090 + 0x10000 * c
def rSY_GATED (c : Nat) : Nat := 0x1006098 + 0x10000 * c

/-! ### The register table -/

/-- One line of the register table: a register, or an array of them (`n1` at spacing `s1`, in `n2` windows
at spacing `s2`), with its reset value and its RW, W1C and W1S bits (R6, R7). -/
structure RegSpec where
  base  : Nat
  n1    : Nat
  s1    : Nat
  n2    : Nat
  s2    : Nat
  reset : Nat
  rw    : Nat
  w1c   : Nat
  w1s   : Nat
  deriving DecidableEq, Repr

/-- The register table, part 0, in rising order of offset. -/
def regTable0 : List RegSpec := [
  ⟨0x0, 1, 0x8, 1, 0x0, 0x4e4c0e0100000001, 0x0, 0x0, 0x0⟩,
  ⟨0x8, 1, 0x8, 1, 0x0, 0xff007fff, 0x0, 0x0, 0x0⟩,
  ⟨0x10, 1, 0x8, 1, 0x0, 0x0, 0x0, 0x0, 0x0⟩,
  ⟨0x18, 1, 0x8, 1, 0x0, 0x10000, 0x0, 0x0, 0x0⟩,
  ⟨0x20, 1, 0x8, 1, 0x0, 0x0, 0x0, 0x0, 0x0⟩,
  ⟨0x28, 1, 0x8, 1, 0x0, 0x0, 0x0, 0x0, 0x0⟩,
  ⟨0x100, 1, 0x8, 1, 0x0, 0x0, 0x0, 0x0, 0x0⟩,
  ⟨0x108, 1, 0x8, 1, 0x0, 0x0, 0xffffffffffffffff, 0x0, 0x0⟩,
  ⟨0x110, 1, 0x8, 1, 0x0, 0x0, 0xfffffffff, 0x0, 0x0⟩,
  ⟨0x118, 1, 0x8, 1, 0x0, 0x0, 0x0, 0x0, 0x0⟩,
  ⟨0x120, 1, 0x8, 1, 0x0, 0x0, 0x0, 0x0, 0x0⟩,
  ⟨0x4000, 1, 0x8, 1, 0x0, 0x40010020, 0x0, 0x0, 0x0⟩,
  ⟨0x4008, 1, 0x8, 1, 0x0, 0x0, 0x0, 0x0, 0x0⟩,
  ⟨0x4010, 1, 0x8, 1, 0x0, 0x0, 0x0, 0x0, 0x0⟩,
  ⟨0x4018, 1, 0x8, 1, 0x0, 0x0, 0x0, 0x0, 0x0⟩,
  ⟨0x5000, 512, 0x8, 1, 0x0, 0x200, 0x33f, 0x0, 0x0⟩,
  ⟨0x6000, 64, 0x40, 1, 0x0, 0x0, 0xffffffffff000, 0x0, 0x0⟩,
  ⟨0x6008, 64, 0x40, 1, 0x0, 0x600, 0xff1f700f01, 0x0, 0x0⟩,
  ⟨0x6010, 64, 0x40, 1, 0x0, 0x0, 0xffffffffffffffff, 0x0, 0x0⟩,
  ⟨0x6018, 64, 0x40, 1, 0x0, 0x0, 0x0, 0x0, 0x0⟩,
  ⟨0x6020, 64, 0x40, 1, 0x0, 0x0, 0x0, 0x0, 0x0⟩,
  ⟨0x100000, 1, 0x8, 1, 0x0, 0x8200400, 0x0, 0x0, 0x0⟩,
  ⟨0x100008, 1, 0x8, 1, 0x0, 0x0, 0x0, 0x0, 0x0⟩,
  ⟨0x100010, 1, 0x8, 1, 0x0, 0x0, 0x0, 0xc000000000000000, 0x0⟩,
  ⟨0x100018, 1, 0x8, 1, 0x0, 0x0, 0x0, 0x0, 0x0⟩,
  ⟨0x100100, 32, 0x8, 1, 0x0, 0x0, 0x0, 0x0, 0x0⟩,
  ⟨0x100200, 1, 0x8, 1, 0x0, 0x0, 0x0, 0x0, 0x0⟩,
  ⟨0x100208, 1, 0x8, 1, 0x0, 0x0, 0x0, 0x0, 0x0⟩,
  ⟨0x100210, 1, 0x8, 1, 0x0, 0x0, 0x0, 0x0, 0x0⟩,
  ⟨0x100218, 1, 0x8, 1, 0x0, 0x0, 0x0, 0x0, 0x0⟩,
  ⟨0x100220, 1, 0x8, 1, 0x0, 0x0, 0x0, 0x0, 0x0⟩,
  ⟨0x110000, 1024, 0x40, 1, 0x0, 0x0, 0x1fffffffffff000, 0x0, 0x0⟩,
  ⟨0x110008, 1024, 0x40, 1, 0x0, 0x6000000, 0xfffff0ff33f3f, 0x0, 0x0⟩,
  ⟨0x110010, 1024, 0x40, 1, 0x0, 0x0, 0x1, 0x0, 0x0⟩,
  ⟨0x110018, 1024, 0x40, 1, 0x0, 0x0, 0xffffffffffffffff, 0x0, 0x0⟩,
  ⟨0x110020, 1024, 0x40, 1, 0x0, 0xffffffffffffffff, 0x0, 0x0, 0x0⟩,
  ⟨0x110028, 1024, 0x40, 1, 0x0, 0x0, 0xffffffff, 0x0, 0x0⟩,
  ⟨0x110030, 1024, 0x40, 1, 0x0, 0x0, 0x0, 0x1, 0x0⟩,
  ⟨0x120000, 64, 0x40, 1, 0x0, 0x0, 0xfffffffffffff000, 0x0, 0x0⟩,
  ⟨0x120008, 64, 0x40, 1, 0x0, 0x600, 0xff00000f01, 0x0, 0x0⟩,
  ⟨0x120010, 64, 0x40, 1, 0x0, 0x0, 0xffffffffffffffff, 0x0, 0x0⟩,
  ⟨0x120018, 64, 0x40, 1, 0x0, 0x0, 0x0, 0x0, 0x0⟩,
  ⟨0x120020, 64, 0x40, 1, 0x0, 0x0, 0x0, 0x0, 0x0⟩,
  ⟨0x130000, 1, 0x8, 1, 0x0, 0x0, 0xfffff, 0x0, 0x0⟩,
  ⟨0x130008, 1, 0x8, 1, 0x0, 0x0, 0xffffffffffffffff, 0x0, 0x0⟩,
  ⟨0x130010, 1, 0x8, 1, 0x0, 0x0, 0xffffffffffffffff, 0x0, 0x0⟩,
  ⟨0x130018, 1, 0x8, 1, 0x0, 0x0, 0xffffffffffffffff, 0x0, 0x0⟩,
  ⟨0x130020, 1, 0x8, 1, 0x0, 0x0, 0x0, 0x0, 0x0⟩,
  ⟨0x130028, 1, 0x8, 1, 0x0, 0x0, 0x0, 0x0, 0x0⟩,
  ⟨0x130030, 1, 0x8, 1, 0x0, 0x0, 0x0, 0x0, 0x0⟩]

/-- The register table, part 1, in rising order of offset. -/
def regTable1 : List RegSpec := [
  ⟨0x130038, 1, 0x8, 1, 0x0, 0x0, 0x0, 0x7f, 0x0⟩,
  ⟨0x130040, 1, 0x8, 1, 0x0, 0x0, 0x0, 0x0, 0x0⟩,
  ⟨0x130048, 1, 0x8, 1, 0x0, 0x0, 0x0, 0x0, 0x0⟩,
  ⟨0x130050, 1, 0x8, 1, 0x0, 0x0, 0x0, 0x0, 0x0⟩,
  ⟨0x130058, 1, 0x8, 1, 0x0, 0x0, 0x0, 0x0, 0x0⟩,
  ⟨0x130060, 1, 0x8, 1, 0x0, 0x0, 0x0, 0x0, 0x0⟩,
  ⟨0x200000, 16, 0x8, 1, 0x0, 0x0, 0x0, 0x0, 0x0⟩,
  ⟨0x200080, 16, 0x8, 1, 0x0, 0x400064003e8, 0xffffffffffff, 0x0, 0x0⟩,
  ⟨0x200100, 16, 0x8, 1, 0x0, 0x0, 0x0, 0x0, 0x0⟩,
  ⟨0x200180, 16, 0x8, 1, 0x0, 0x0, 0xffff0000ffff, 0x0, 0x0⟩,
  ⟨0x200200, 16, 0x8, 1, 0x0, 0x0, 0xffff0000ffff, 0x0, 0x0⟩,
  ⟨0x200280, 16, 0x8, 1, 0x0, 0x0, 0xffff0000ffff, 0x0, 0x0⟩,
  ⟨0x200300, 16, 0x8, 1, 0x0, 0x0, 0x0, 0x0, 0x0⟩,
  ⟨0x200400, 1, 0x8, 1, 0x0, 0x0, 0xfffff, 0x0, 0x0⟩,
  ⟨0x200408, 1, 0x8, 1, 0x0, 0x0, 0x0, 0x0, 0x0⟩,
  ⟨0x201000, 1, 0x8, 1, 0x0, 0x1, 0x1, 0x0, 0x0⟩,
  ⟨0x201100, 1, 0x8, 1, 0x0, 0x0, 0x0, 0x0, 0x0⟩,
  ⟨0x201108, 1, 0x8, 1, 0x0, 0x0, 0x0, 0x0, 0x0⟩,
  ⟨0x201110, 1, 0x8, 1, 0x0, 0x0, 0x0, 0x0, 0x0⟩,
  ⟨0x201118, 1, 0x8, 1, 0x0, 0x0, 0x0, 0x0, 0x0⟩,
  ⟨0x201120, 1, 0x8, 1, 0x0, 0x0, 0x0, 0x0, 0x0⟩,
  ⟨0x201128, 1, 0x8, 1, 0x0, 0x0, 0x0, 0x0, 0x0⟩,
  ⟨0x201130, 1, 0x8, 1, 0x0, 0x0, 0x0, 0x0, 0x0⟩,
  ⟨0x201138, 1, 0x8, 1, 0x0, 0x0, 0x0, 0x0, 0x0⟩,
  ⟨0x201140, 1, 0x8, 1, 0x0, 0x0, 0x0, 0x0, 0x0⟩,
  ⟨0x201148, 1, 0x8, 1, 0x0, 0x0, 0x0, 0x0, 0x0⟩,
  ⟨0x201150, 1, 0x8, 1, 0x0, 0x0, 0x0, 0x0, 0x0⟩,
  ⟨0x300000, 1, 0x8, 1, 0x0, 0xfff, 0x0, 0x0, 0x0⟩,
  ⟨0x300008, 1, 0x8, 1, 0x0, 0x0, 0x0, 0x0, 0x0⟩,
  ⟨0x300010, 1, 0x8, 1, 0x0, 0x10000248, 0xffff0fff, 0x0, 0x0⟩,
  ⟨0x300018, 1, 0x8, 1, 0x0, 0xfa50, 0xffff, 0x0, 0x0⟩,
  ⟨0x300020, 1, 0x8, 1, 0x0, 0x9, 0x1f, 0x0, 0x0⟩,
  ⟨0x300028, 1, 0x8, 1, 0x0, 0xfff0000, 0x0, 0x0, 0x0⟩,
  ⟨0x300100, 16, 0x8, 1, 0x0, 0x0, 0x0, 0x0, 0x0⟩,
  ⟨0x300180, 16, 0x8, 1, 0x0, 0x0, 0x0, 0x0, 0x0⟩,
  ⟨0x300200, 16, 0x8, 1, 0x0, 0x0, 0x0, 0x0, 0x0⟩,
  ⟨0x300300, 1, 0x8, 1, 0x0, 0x0, 0x0, 0xc000000000000000, 0x0⟩,
  ⟨0x300308, 1, 0x8, 1, 0x0, 0x0, 0x0, 0x0, 0x0⟩,
  ⟨0x300400, 1, 0x8, 1, 0x0, 0x500ffffff, 0xff00ffffff, 0x0, 0x0⟩,
  ⟨0x300410, 12, 0x8, 1, 0x0, 0x0, 0x0, 0x0, 0x0⟩,
  ⟨0x300500, 1, 0x8, 1, 0x0, 0x0, 0x0, 0x0, 0x0⟩,
  ⟨0x300508, 1, 0x8, 1, 0x0, 0x0, 0x0, 0x0, 0x0⟩,
  ⟨0x300510, 1, 0x8, 1, 0x0, 0x0, 0x0, 0x0, 0x0⟩,
  ⟨0x300518, 1, 0x8, 1, 0x0, 0x0, 0x0, 0x0, 0x0⟩,
  ⟨0x300520, 1, 0x8, 1, 0x0, 0x0, 0x0, 0x0, 0x0⟩,
  ⟨0x300528, 1, 0x8, 1, 0x0, 0x0, 0x0, 0x0, 0x0⟩,
  ⟨0x300530, 1, 0x8, 1, 0x0, 0x0, 0x0, 0x0, 0x0⟩,
  ⟨0x300538, 1, 0x8, 1, 0x0, 0x0, 0x0, 0x0, 0x0⟩,
  ⟨0x400000, 1, 0x8, 1, 0x0, 0x0, 0x0, 0x0, 0x0⟩,
  ⟨0x400100, 12, 0x8, 1, 0x0, 0x0, 0x0, 0x0, 0x0⟩]

/-- The register table, part 2, in rising order of offset. -/
def regTable2 : List RegSpec := [
  ⟨0x400200, 1, 0x8, 1, 0x0, 0x0, 0x0, 0x0, 0x0⟩,
  ⟨0x400208, 1, 0x8, 1, 0x0, 0x0, 0x0, 0xc000000000000000, 0x0⟩,
  ⟨0x400210, 1, 0x8, 1, 0x0, 0x0, 0x0, 0x0, 0x0⟩,
  ⟨0x400300, 1, 0x8, 1, 0x0, 0x0, 0x0, 0x0, 0x0⟩,
  ⟨0x400308, 1, 0x8, 1, 0x0, 0x0, 0x0, 0x0, 0x0⟩,
  ⟨0x400310, 1, 0x8, 1, 0x0, 0x0, 0x0, 0x0, 0x0⟩,
  ⟨0x400318, 1, 0x8, 1, 0x0, 0x0, 0x0, 0x0, 0x0⟩,
  ⟨0x400320, 1, 0x8, 1, 0x0, 0x0, 0x0, 0x0, 0x0⟩,
  ⟨0x400328, 1, 0x8, 1, 0x0, 0x0, 0x0, 0x0, 0x0⟩,
  ⟨0x500000, 1, 0x8, 1, 0x0, 0x0, 0x0, 0x0, 0x0⟩,
  ⟨0x500100, 16, 0x8, 1, 0x0, 0x0, 0x0, 0x0, 0x0⟩,
  ⟨0x500200, 16, 0x8, 1, 0x0, 0x0, 0xffffffff, 0x0, 0x0⟩,
  ⟨0x500300, 1, 0x8, 1, 0x0, 0x0, 0xfffff, 0x0, 0x0⟩,
  ⟨0x500308, 1, 0x8, 1, 0x0, 0x0, 0x0, 0x0, 0x0⟩,
  ⟨0x500310, 1, 0x8, 1, 0x0, 0x0, 0x0, 0x0, 0x0⟩,
  ⟨0x500318, 1, 0x8, 1, 0x0, 0x0, 0x0, 0x0, 0x0⟩,
  ⟨0x500400, 1, 0x8, 1, 0x0, 0x0, 0x0, 0x0, 0x0⟩,
  ⟨0x500408, 1, 0x8, 1, 0x0, 0x0, 0x0, 0x0, 0x0⟩,
  ⟨0x500410, 1, 0x8, 1, 0x0, 0x0, 0x0, 0x0, 0x0⟩,
  ⟨0x500418, 1, 0x8, 1, 0x0, 0x0, 0x0, 0x0, 0x0⟩,
  ⟨0x500420, 1, 0x8, 1, 0x0, 0x0, 0x0, 0x0, 0x0⟩,
  ⟨0x500428, 1, 0x8, 1, 0x0, 0x0, 0x0, 0x0, 0x0⟩,
  ⟨0x600000, 1, 0x8, 1, 0x0, 0x0, 0x0, 0x0, 0x0⟩,
  ⟨0x600008, 1, 0x8, 1, 0x0, 0x0, 0x0, 0x0, 0x0⟩,
  ⟨0x600010, 1, 0x8, 1, 0x0, 0x0, 0x0, 0x0, 0x0⟩,
  ⟨0x600018, 1, 0x8, 1, 0x0, 0x0, 0x0, 0x0, 0x0⟩,
  ⟨0x600020, 1, 0x8, 1, 0x0, 0x0, 0x0, 0x0, 0x0⟩,
  ⟨0x600028, 1, 0x8, 1, 0x0, 0xbb80064000003e8, 0xffffffffffffffff, 0x0, 0x0⟩,
  ⟨0x600030, 1, 0x8, 1, 0x0, 0x0, 0x0, 0x0, 0x0⟩,
  ⟨0x600038, 1, 0x8, 1, 0x0, 0x0, 0x0, 0x0, 0x0⟩,
  ⟨0x600040, 1, 0x8, 1, 0x0, 0x0, 0xffffffffffff, 0x0, 0x8000000000000000⟩,
  ⟨0x600080, 1, 0x8, 1, 0x0, 0x0, 0x0, 0x0, 0x0⟩,
  ⟨0x600088, 1, 0x8, 1, 0x0, 0x0, 0x0, 0x0, 0x0⟩,
  ⟨0x600090, 1, 0x8, 1, 0x0, 0x0, 0x0, 0x0, 0x0⟩,
  ⟨0x601000, 16, 0x80, 1, 0x0, 0x64000000000000, 0xffff00f0fc0fffff, 0x0, 0x0⟩,
  ⟨0x601008, 6, 0x8, 16, 0x80, 0x0, 0xfffffffffffffff, 0x0, 0x0⟩,
  ⟨0x601040, 16, 0x80, 1, 0x0, 0x0, 0x1, 0x0, 0x0⟩,
  ⟨0x602000, 1, 0x8, 1, 0x0, 0x0, 0x0, 0x0, 0x0⟩,
  ⟨0x602008, 1, 0x8, 1, 0x0, 0x0, 0x0, 0x0, 0x0⟩,
  ⟨0x602010, 1, 0x8, 1, 0x0, 0x0, 0x0, 0x0, 0x0⟩,
  ⟨0x700000, 1, 0x8, 1, 0x0, 0x0, 0x0, 0x0, 0x0⟩,
  ⟨0x700008, 1, 0x8, 1, 0x0, 0x0, 0x0, 0x0, 0x0⟩,
  ⟨0x700010, 1, 0x8, 1, 0x0, 0x4e4b, 0x1f3fffff, 0x0, 0x0⟩,
  ⟨0x700018, 1, 0x8, 1, 0x0, 0x0, 0xfffffffffffc1, 0x0, 0x0⟩,
  ⟨0x700020, 1, 0x8, 1, 0x0, 0x0, 0x0, 0x0, 0x0⟩,
  ⟨0x700100, 20, 0x8, 1, 0x0, 0xf000, 0x0, 0x0, 0x0⟩,
  ⟨0x700200, 20, 0x8, 1, 0x0, 0x0, 0xffffffffffff, 0x0, 0x0⟩,
  ⟨0x700300, 1, 0x8, 1, 0x0, 0x0, 0x3fff, 0x0, 0x0⟩,
  ⟨0x700308, 1, 0x8, 1, 0x0, 0x0, 0x9fffffffc0ffffff, 0x0, 0x0⟩,
  ⟨0x700310, 1, 0x8, 1, 0x0, 0x0, 0xfffff, 0x0, 0x0⟩]

/-- The register table, part 3, in rising order of offset. -/
def regTable3 : List RegSpec := [
  ⟨0x700318, 1, 0x8, 1, 0x0, 0x0, 0xffffffffffff, 0x0, 0x0⟩,
  ⟨0x700400, 1, 0x8, 1, 0x0, 0x0, 0xfff, 0x0, 0x0⟩,
  ⟨0x700408, 1, 0x8, 1, 0x0, 0x0, 0xffffff00000ff800, 0x0, 0x0⟩,
  ⟨0x700410, 1, 0x8, 1, 0x0, 0x0, 0x1ffffffffffffff, 0x0, 0x0⟩,
  ⟨0x700418, 1, 0x8, 1, 0x0, 0x0, 0x1ffffffffff, 0x0, 0x0⟩,
  ⟨0x700500, 1, 0x8, 1, 0x0, 0x0, 0x0, 0x0, 0x0⟩,
  ⟨0x700508, 1, 0x8, 1, 0x0, 0x2710000003e8, 0xffffffffffffffff, 0x0, 0x0⟩,
  ⟨0x700510, 1, 0x8, 1, 0x0, 0x0, 0x0, 0x0, 0x0⟩,
  ⟨0x700518, 1, 0x8, 1, 0x0, 0x0, 0x4, 0x0, 0x0⟩,
  ⟨0x700520, 1, 0x8, 1, 0x0, 0x0, 0x0, 0x0, 0x0⟩,
  ⟨0x700600, 1, 0x8, 1, 0x0, 0x0, 0x3ff, 0x0, 0x0⟩,
  ⟨0x700608, 1, 0x8, 1, 0x0, 0xffffffffffffffff, 0x0, 0x0, 0x0⟩,
  ⟨0x700610, 1, 0x8, 1, 0x0, 0x0, 0x0, 0x0, 0x0⟩,
  ⟨0x700618, 1, 0x8, 1, 0x0, 0x0, 0x0, 0x0, 0x0⟩,
  ⟨0x700700, 1, 0x8, 1, 0x0, 0x0, 0xfff, 0x0, 0x0⟩,
  ⟨0x700708, 1, 0x8, 1, 0x0, 0x0, 0x0, 0x0, 0x0⟩,
  ⟨0x700800, 1, 0x8, 1, 0x0, 0x0, 0x0, 0x0, 0x0⟩,
  ⟨0x700808, 1, 0x8, 1, 0x0, 0x0, 0x0, 0x0, 0x0⟩,
  ⟨0x700810, 1, 0x8, 1, 0x0, 0x0, 0x0, 0x0, 0x0⟩,
  ⟨0x700818, 1, 0x8, 1, 0x0, 0x0, 0x0, 0x0, 0x0⟩,
  ⟨0x700820, 1, 0x8, 1, 0x0, 0x0, 0x0, 0x0, 0x0⟩,
  ⟨0x700828, 1, 0x8, 1, 0x0, 0x0, 0x0, 0x0, 0x0⟩,
  ⟨0x700830, 1, 0x8, 1, 0x0, 0x0, 0x0, 0x0, 0x0⟩,
  ⟨0x700838, 1, 0x8, 1, 0x0, 0x0, 0x0, 0x0, 0x0⟩,
  ⟨0x700840, 1, 0x8, 1, 0x0, 0x0, 0x0, 0x0, 0x0⟩,
  ⟨0x700848, 1, 0x8, 1, 0x0, 0x0, 0x0, 0x0, 0x0⟩,
  ⟨0x700850, 1, 0x8, 1, 0x0, 0x0, 0x0, 0x0, 0x0⟩,
  ⟨0x701000, 20, 0x100, 1, 0x0, 0x0, 0xffffffffff000, 0x0, 0x0⟩,
  ⟨0x701008, 20, 0x100, 1, 0x0, 0x600, 0xf01, 0x0, 0x0⟩,
  ⟨0x701010, 20, 0x100, 1, 0x0, 0x0, 0xffffffffffffffff, 0x0, 0x0⟩,
  ⟨0x701018, 20, 0x100, 1, 0x0, 0x0, 0x0, 0x0, 0x0⟩,
  ⟨0x701040, 20, 0x100, 1, 0x0, 0x0, 0xffffffffff000, 0x0, 0x0⟩,
  ⟨0x701048, 20, 0x100, 1, 0x0, 0x600, 0xf01, 0x0, 0x0⟩,
  ⟨0x701050, 20, 0x100, 1, 0x0, 0x0, 0xffffffffffffffff, 0x0, 0x0⟩,
  ⟨0x701058, 20, 0x100, 1, 0x0, 0x0, 0x0, 0x0, 0x0⟩,
  ⟨0x800000, 4, 0x8, 1, 0x0, 0x0, 0x0, 0x0, 0x0⟩,
  ⟨0x800100, 1, 0x8, 1, 0x0, 0x0, 0x0, 0x0, 0x0⟩,
  ⟨0x800108, 1, 0x8, 1, 0x0, 0x0, 0x0, 0x0, 0x0⟩,
  ⟨0x800110, 1, 0x8, 1, 0x0, 0x0, 0x0, 0x0, 0x0⟩,
  ⟨0x800200, 1, 0x8, 1, 0x0, 0x0, 0x0, 0xc000000000000000, 0x0⟩,
  ⟨0x800300, 4, 0x20, 1, 0x0, 0x0, 0x0, 0x0, 0x0⟩,
  ⟨0x800308, 4, 0x20, 1, 0x0, 0x0, 0x0, 0x0, 0x0⟩,
  ⟨0x800310, 4, 0x20, 1, 0x0, 0x0, 0x0, 0x0, 0x0⟩,
  ⟨0x900000, 1, 0x8, 1, 0x0, 0x0, 0x1, 0x0, 0x0⟩,
  ⟨0x900008, 1, 0x8, 1, 0x0, 0x0, 0x0, 0x0, 0x0⟩,
  ⟨0x900010, 1, 0x8, 1, 0x0, 0x0, 0xffffffffffffffff, 0x0, 0x0⟩,
  ⟨0x900018, 1, 0x8, 1, 0x0, 0x0, 0x0, 0x0, 0x0⟩,
  ⟨0x900100, 144, 0x8, 1, 0x0, 0x0, 0x0, 0x0, 0x0⟩,
  ⟨0x900600, 4, 0x8, 1, 0x0, 0x0, 0x0, 0x0, 0x0⟩,
  ⟨0x900700, 1, 0x8, 1, 0x0, 0x1fffff, 0x0, 0x0, 0x0⟩]

/-- The register table, part 4, in rising order of offset. -/
def regTable4 : List RegSpec := [
  ⟨0x900800, 1, 0x8, 1, 0x0, 0x500ffffff, 0xff00ffffff, 0x0, 0x0⟩,
  ⟨0x900808, 1, 0x8, 1, 0x0, 0x4ffffff, 0xffffffff, 0x0, 0x0⟩,
  ⟨0x900810, 1, 0x8, 1, 0x0, 0x0, 0xffff, 0x0, 0x0⟩,
  ⟨0x900818, 1, 0x8, 1, 0x0, 0x0, 0x0, 0x0, 0x0⟩,
  ⟨0x900820, 4, 0x8, 1, 0x0, 0x0, 0x0, 0x0, 0x0⟩,
  ⟨0x900900, 1, 0x8, 1, 0x0, 0x0, 0x0, 0x0, 0x0⟩,
  ⟨0x900908, 1, 0x8, 1, 0x0, 0x0, 0x0, 0x0, 0x0⟩,
  ⟨0x900910, 1, 0x8, 1, 0x0, 0x0, 0x0, 0x0, 0x0⟩,
  ⟨0x900a00, 1, 0x8, 1, 0x0, 0x0, 0x0, 0x0, 0x0⟩,
  ⟨0x900a08, 1, 0x8, 1, 0x0, 0x0, 0x0, 0x0, 0x0⟩,
  ⟨0xa00000, 1, 0x8, 1, 0x0, 0x0, 0x0, 0x0, 0x0⟩,
  ⟨0xa00008, 1, 0x8, 1, 0x0, 0x0, 0x0, 0x0, 0x0⟩,
  ⟨0xa00010, 1, 0x8, 1, 0x0, 0x0, 0x0, 0x0, 0x0⟩,
  ⟨0xa00018, 1, 0x8, 1, 0x0, 0x0, 0x0, 0x0, 0x0⟩,
  ⟨0xa00020, 1, 0x8, 1, 0x0, 0x1000080e10, 0xffffffffffff, 0x0, 0x0⟩,
  ⟨0xa00028, 1, 0x8, 1, 0x0, 0x0, 0x0, 0x0, 0x0⟩,
  ⟨0xa00030, 1, 0x8, 1, 0x0, 0x0, 0xff, 0x0, 0x0⟩,
  ⟨0xa00038, 1, 0x8, 1, 0x0, 0x0, 0x0, 0x0, 0x0⟩,
  ⟨0xa00040, 1, 0x8, 1, 0x0, 0x0, 0x0, 0x0, 0x0⟩,
  ⟨0xa00048, 1, 0x8, 1, 0x0, 0x0, 0x0, 0x0, 0x0⟩,
  ⟨0xa00050, 1, 0x8, 1, 0x0, 0x0, 0x0, 0x0, 0x0⟩,
  ⟨0xa00100, 16, 0x8, 1, 0x0, 0x0, 0x0, 0x0, 0x0⟩,
  ⟨0xa00200, 12, 0x8, 1, 0x0, 0x0, 0x0, 0x0, 0x0⟩,
  ⟨0xa00400, 1, 0x8, 1, 0x0, 0x0, 0x0, 0x0, 0x0⟩,
  ⟨0xa00408, 1, 0x8, 1, 0x0, 0x0, 0x0, 0x0, 0x0⟩,
  ⟨0xa00410, 1, 0x8, 1, 0x0, 0x0, 0x0, 0x0, 0x0⟩,
  ⟨0xa00418, 1, 0x8, 1, 0x0, 0x0, 0x0, 0x0, 0x0⟩,
  ⟨0xa00420, 1, 0x8, 1, 0x0, 0x0, 0x0, 0x0, 0x0⟩,
  ⟨0xa00428, 1, 0x8, 1, 0x0, 0x0, 0x0, 0x0, 0x0⟩,
  ⟨0xb00000, 1, 0x8, 1, 0x0, 0x0, 0x2, 0x0, 0x0⟩,
  ⟨0xb00008, 1, 0x8, 1, 0x0, 0x0, 0xffffffffffffffff, 0x0, 0x0⟩,
  ⟨0xb00010, 1, 0x8, 1, 0x0, 0x0, 0xffff, 0x0, 0x8000000000000000⟩,
  ⟨0xb00018, 1, 0x8, 1, 0x0, 0x0, 0x0, 0x0, 0x0⟩,
  ⟨0xb00020, 1, 0x8, 1, 0x0, 0x0, 0x0, 0x0, 0x0⟩,
  ⟨0xb00028, 1, 0x8, 1, 0x0, 0x0, 0x0, 0x0, 0x0⟩,
  ⟨0xb01000, 1, 0x8, 1, 0x0, 0x0, 0x3f, 0x0, 0x0⟩,
  ⟨0xb01008, 1, 0x8, 1, 0x0, 0x1, 0xfffff000001ff, 0x0, 0x0⟩,
  ⟨0xb01010, 1, 0x8, 1, 0x0, 0x0, 0xffffffffffffffff, 0x0, 0x0⟩,
  ⟨0xb01018, 1, 0x8, 1, 0x0, 0x0, 0xfffffffffffe0, 0x0, 0x0⟩,
  ⟨0xb01020, 1, 0x8, 1, 0x0, 0x0, 0x0, 0x0, 0x0⟩,
  ⟨0xb01100, 12, 0x8, 1, 0x0, 0x0, 0x0, 0x0, 0x0⟩,
  ⟨0xb02000, 1, 0x8, 1, 0x0, 0x0, 0xfffffffffffc0, 0x0, 0x0⟩,
  ⟨0xb02008, 1, 0x8, 1, 0x0, 0x0, 0xffffffff, 0x0, 0x0⟩,
  ⟨0xb02010, 1, 0x8, 1, 0x0, 0x0, 0x0, 0x0, 0x0⟩,
  ⟨0xb02018, 1, 0x8, 1, 0x0, 0x0, 0x0, 0x0, 0x0⟩,
  ⟨0xb10000, 256, 0x20, 1, 0x0, 0x0, 0x0, 0x0, 0x0⟩,
  ⟨0xb10008, 256, 0x20, 1, 0x0, 0x0, 0x0, 0x0, 0x0⟩,
  ⟨0xb10010, 256, 0x20, 1, 0x0, 0x0, 0x0, 0x0, 0x0⟩,
  ⟨0xb10018, 256, 0x20, 1, 0x0, 0x0, 0x0, 0x0, 0x0⟩,
  ⟨0xb20000, 12, 0x20, 1, 0x0, 0x0, 0x0, 0x0, 0x0⟩]

/-- The register table, part 5, in rising order of offset. -/
def regTable5 : List RegSpec := [
  ⟨0xb20008, 12, 0x20, 1, 0x0, 0x0, 0x0, 0x0, 0x0⟩,
  ⟨0xb20010, 12, 0x20, 1, 0x0, 0x0, 0x0, 0x0, 0x0⟩,
  ⟨0xb20018, 12, 0x20, 1, 0x0, 0x0, 0x0, 0x0, 0x0⟩,
  ⟨0xb20200, 16, 0x10, 1, 0x0, 0x0, 0x0, 0x0, 0x0⟩,
  ⟨0xb20208, 16, 0x10, 1, 0x0, 0x0, 0x0, 0x0, 0x0⟩,
  ⟨0xb20300, 1, 0x8, 1, 0x0, 0x0, 0x0, 0x0, 0x0⟩,
  ⟨0xb20308, 1, 0x8, 1, 0x0, 0x0, 0x0, 0x0, 0x0⟩,
  ⟨0xb20400, 4, 0x10, 1, 0x0, 0x0, 0x0, 0x0, 0x0⟩,
  ⟨0xb20408, 4, 0x10, 1, 0x0, 0x0, 0x0, 0x0, 0x0⟩,
  ⟨0xb20500, 20, 0x10, 1, 0x0, 0x0, 0x0, 0x0, 0x0⟩,
  ⟨0xb20508, 20, 0x10, 1, 0x0, 0x0, 0x0, 0x0, 0x0⟩,
  ⟨0x1003000, 1, 0x8, 256, 0x10000, 0x0, 0x0, 0x0, 0x0⟩,
  ⟨0x1003008, 1, 0x8, 256, 0x10000, 0x0, 0x0, 0xc000000000000000, 0x0⟩,
  ⟨0x1003010, 1, 0x8, 256, 0x10000, 0x0, 0x0, 0x0, 0x0⟩,
  ⟨0x1003018, 1, 0x8, 256, 0x10000, 0x0, 0x0, 0x0, 0x0⟩,
  ⟨0x1003020, 1, 0x8, 256, 0x10000, 0x0, 0x0, 0x0, 0x0⟩,
  ⟨0x1003028, 1, 0x8, 256, 0x10000, 0x0, 0x0, 0x0, 0x0⟩,
  ⟨0x1004000, 1, 0x8, 256, 0x10000, 0x0, 0x0, 0x0, 0x0⟩,
  ⟨0x1004008, 1, 0x8, 256, 0x10000, 0x0, 0x0, 0x0, 0x0⟩,
  ⟨0x1004010, 1, 0x8, 256, 0x10000, 0x0, 0x0, 0x0, 0x0⟩,
  ⟨0x1004018, 1, 0x8, 256, 0x10000, 0x0, 0x0, 0x0, 0x0⟩,
  ⟨0x1005000, 1, 0x8, 256, 0x10000, 0x0, 0x0, 0x0, 0x0⟩,
  ⟨0x1005008, 1, 0x8, 256, 0x10000, 0x0, 0x0, 0x0, 0x0⟩,
  ⟨0x1005010, 1, 0x8, 256, 0x10000, 0x0, 0x0, 0x0, 0x0⟩,
  ⟨0x1005018, 1, 0x8, 256, 0x10000, 0x0, 0x0, 0x0, 0x0⟩,
  ⟨0x1005020, 1, 0x8, 256, 0x10000, 0x0, 0x0, 0x0, 0x0⟩,
  ⟨0x1006000, 16, 0x8, 256, 0x10000, 0x0, 0x0, 0x0, 0x0⟩,
  ⟨0x1006080, 1, 0x8, 256, 0x10000, 0x0, 0x7ff, 0x0, 0x0⟩,
  ⟨0x1006088, 1, 0x8, 256, 0x10000, 0x0, 0x0, 0x0, 0x0⟩,
  ⟨0x1006090, 1, 0x8, 256, 0x10000, 0x0, 0x0, 0x0, 0x0⟩,
  ⟨0x1006098, 1, 0x8, 256, 0x10000, 0x0, 0x0, 0x0, 0x0⟩]

/-- The whole register table. -/
def regTable : List RegSpec := regTable0 ++ regTable1 ++ regTable2 ++ regTable3 ++ regTable4 ++ regTable5

/-- Does a line of the table hold the register at an offset? -/
def regHit (off : Nat) (r : RegSpec) : Bool :=
  if off < r.base then false
  else
    let d := off - r.base
    let j := if r.n2 = 1 then 0 else d / r.s2
    let e := if r.n2 = 1 then d else d % r.s2
    e % r.s1 = 0 && e / r.s1 < r.n1 && j < r.n2

/-- The table line of the register at an offset (R8). -/
def regSpec (off : Nat) : Option RegSpec := regTable.find? (regHit off)

/-- The reset value of the register at an offset (R7). -/
def regReset (off : Nat) : Nat := match regSpec off with
  | some r => r.reset
  | none => 0

/-- The stored value of a register. -/
def rg (w : World) (off : Nat) : Nat := match mget w.regs off with
  | some v => v.toNat
  | none => regReset off

/-- Stores a whole register. -/
def rgSet (w : World) (off v : Nat) : World := { w with regs := mset w.regs off (BitVec.ofNat 64 v) }

/-- A field of a register: bits `[lo + n - 1 : lo]`. -/
def fld (w : World) (off lo n : Nat) : Nat := bits (rg w off) lo n

/-- Stores a field of a register. -/
def fldSet (w : World) (off lo n v : Nat) : World := rgSet w off (setBits (rg w off) lo n v)

/-- Advances a 64-bit counter, which wraps after 2^64 - 1. -/
def bump (w : World) (off k : Nat) : World := rgSet w off (rg w off + k)

/-- Advances a 32-bit counting field that saturates. -/
def bumpSat (w : World) (off lo : Nat) : World :=
  let v := fld w off lo 32
  if v = 0xFFFFFFFF then w else fldSet w off lo 32 (v + 1)

/-- Records the first of a kind of error in a register whose bit 63 is valid and bit 62 is more. -/
def recordErr (w : World) (off v : Nat) : World :=
  if fld w off 63 1 = 1 then fldSet w off 62 1 1 else rgSet w off (setBits v 62 2 (2 + fld w off 62 1))

end Sys2Proof.Machine
end

