-- ==== Sys2Proof/Machine/Time.lean ====
section
/-!
DEFINITION. Frame time (R367 to R378): the FTB's linear time, stamps, replicas; free values; and outputs at
the block's boundary.
-/
namespace Sys2Proof.Machine

/-! ### Free values and outputs -/

/-- The next value the spec leaves open. -/
def freeVal (w : World) : Nat := Config.freeNat w.freeIdx

/-- Marks one open value as used. -/
def freeUsed (w : World) : World := { w with freeIdx := w.freeIdx + 1 }

/-- Sends something out of the block. -/
def emit (k : OutKind) (nums : List Nat) (data : List Byte) (w : World) : World :=
  { w with outs := ⟨k, nums, data⟩ :: w.outs }

/-- Output pins: 0 PWRGD, 1 TRIP_N, 2 ALERT_N. -/
def pinOut (pin level : Nat) (w : World) : World := emit .pin [pin, level] [] w

/-- A PLDM platform event (R499): 0 a RAS log entry, 1 a throttle change, 2 a trip. ALERT_N goes low with the first
that is not read (R492); no command of the table reads one. -/
def platformEvent (nums : List Nat) (w : World) : World :=
  let w := emit .event nums [] (if w.pins.events = 0 then pinOut 2 0 w else w)
  { w with pins := { w.pins with events := w.pins.events + 1 } }

/-! ### Frame time (R367, R369) -/

def ftbNum (w : World) : Nat := fld w rFTB_RATE 32 20
def ftbDen (w : World) : Nat := fld w rFTB_RATE 0 16
def ftbLpf (w : World) : Nat := fld w rFTB_CFG 48 16
def ftbSource (w : World) : Nat := fld w rFTB_CFG 0 2
/-- 0 NOT_RUNNING, 1 FREE_RUN, 2 LOCKED, 3 HOLDOVER. -/
def ftbState (w : World) : Nat := fld w rFTB_STATUS 0 2

/-- The accumulator's units in one sub-line tick. -/
def ftbUnit (w : World) : Nat := ftbDen w * 10 ^ 9 * 2 ^ 40

/-- What one FTBCLK cycle adds to the accumulator (R369). -/
def ftbInc (w : World) : Nat :=
  ftbNum w * ftbLpf w * 65536 * (2 ^ 40 + sextInt (fld w rFTB_OFFSET 32 32) 32).toNat

/-- floor(T) at an accumulator value; 0 while not running. -/
def ftbTicks (w : World) (acc : Nat) : Nat := if ftbState w = 0 || ftbUnit w = 0 then 0 else acc / ftbUnit w

/-- The key (R159) of a linear time. -/
def keyOfLin (w : World) (t : Nat) : Nat :=
  let per := ftbLpf w * 65536
  if per = 0 then 0 else t / per * 2 ^ 32 + t % per

/-- The linear time of a key whose line is below lines per frame (R363). -/
def linOfKey (w : World) (k : Nat) : Nat := k / 2 ^ 32 * (ftbLpf w * 65536) + k % 2 ^ 32

/-- The key of the FTB's present time. -/
def ftbKey (w : World) : Nat := keyOfLin w (ftbTicks w w.ftb.acc)

/-- The stamp of an event (R378): the time 2 or 3 ns after it, which of the two the spec leaves open. -/
def stampNow (w : World) : Nat × World :=
  (keyOfLin w (ftbTicks w (w.ftb.acc + (2 + freeVal w % 2) * ftbInc w)), freeUsed w)

/-- What a replica may show (R377): within 4 ns of the FTB, by an open amount. -/
def replicaKey (w : World) : Nat × World :=
  let d := freeVal w % 9
  let up := w.ftb.acc + d * ftbInc w
  (keyOfLin w (ftbTicks w (up - 4 * ftbInc w)), freeUsed w)

/-- One FTBCLK cycle. -/
def ftbTick (w : World) : World :=
  if ftbState w = 0 then w else { w with ftb := { w.ftb with acc := w.ftb.acc + ftbInc w } }

/-- The front end's, Meridian's or a port's replica has reached a key (a key whose line is not below lines
per frame is reached with the next frame, R367, as the order of keys gives). -/
def reachedKey (w : World) (k : Nat) : Bool := ftbState w ≠ 0 && decide (k ≤ ftbKey w)

end Sys2Proof.Machine
end

