-- ==== Sys2Proof/Machine/Ops.lean ====
section
/-!
DEFINITION. The operations every family shares: free values, messages, contexts and stopping work, hart copies,
the home of memory, translation, core semaphores and kernel traps.
-/
namespace Sys2Proof.Machine

/-- A meaning that is a function of the block alone. -/
def run (f : World → World) (s : State) : Host.Outcome State Fault Refusal := .next { s with w := f s.w }

/-- A Starchart build with freeze holds every release, start and completion of the front end (R484). -/
def feHeld (w : World) : Bool := match w.dbg.star with
  | some r => r.freeze
  | none => false

/-- A meaning of the front end, held while a build freezes it. -/
def runFe (f : World → World) (s : State) : Host.Outcome State Fault Refusal := run (fun w => if feHeld w then w else f w) s

/-- A build with freeze holds the issue of a partition's cores. -/
def issueHeld (w : World) (part : Nat) : Bool := match w.dbg.star with
  | some r => r.freeze && (r.mask = 0 || bit r.mask part)
  | none => false

/-! ### Messages (R15, R29, R125) -/

/-- Sends a message towards the interrupt unit. -/
def sendTo (dest : MsgDest) (src ctx status cookie : Nat) (w : World) : World :=
  { w with irq := { w.irq with inbox := w.irq.inbox ++ [⟨src, ctx, status, cookie, dest⟩] } }

/-- Sends a device notification, routed by CC_ROUTE of its source unit (R287). -/
def sendMsg (src ctx status cookie : Nat) (w : World) : World := sendTo .route src ctx status cookie w

/-- The context of a device-level message (R15). -/
def devCtx : Nat := 0xFFFFF

/-! ### The RAS log (R473) -/

def kindCore : Nat := 1
def kindSlice : Nat := 2
def kindSysCache : Nat := 3
def kindHbm : Nat := 4
def kindLpddr : Nat := 5
def kindFinov : Nat := 6
def kindLane : Nat := 7
def kindHart : Nat := 8
def kindUnmapped : Nat := 9
def kindStoreErr : Nat := 10
def kindCoreRetired : Nat := 11
def kindSpare : Nat := 12
def kindPage : Nat := 13
def kindUnit : Nat := 14
def kindTag : Nat := 15

/-- Writes one entry of the RAS log: severity 0 CORRECTED, 1 POISONED, 2 CONSUMED, 3 FATAL, 4 ACCESS. `ctx`
is the consuming context, if any. Severities 1 to 3 send the message of R473; the CMC reports the entry
(R499). -/
def rasLog (kind sev src : Nat) (ctx : Option Nat) (va : Bool) (addr : Nat) (w : World) : World :=
  let n := fld w rRAS_LOG_STATUS 32 32 + 1
  let st := stampNow w
  let w := st.2
  let e : LogEntry :=
    ⟨kind * 2 ^ 56 + sev * 2 ^ 52 + src * 2 ^ 40 + ctx.getD 0 * 2 ^ 20, b2n va * 2 ^ 63 + addr % 2 ^ 57,
     st.1 % 2 ^ 64, ftbState w * 2 ^ 16 + st.1 / 2 ^ 64⟩
  let w := { w with log := mset w.log ((n - 1) % 256) e }
  let w := rgSet w rRAS_LOG_STATUS (n % 2 ^ 32 * 2 ^ 32 + (n - 1) % 256)
  let w := if 1 ≤ sev && sev ≤ 3 then
      sendMsg 0x000 (ctx.getD devCtx) 0 (kind * 2 ^ 56 + sev * 2 ^ 52 + src * 2 ^ 40 + n % 2 ^ 32) w
    else w
  platformEvent [0, kind, sev, src] w

/-! ### Statuses (R11, R13) -/

def stOK : Nat := 0
def stAborted : Nat := 1
def stCtxLost : Nat := 2
def stObjGone : Nat := 3
def stPoison : Nat := 4
def stFallback : Nat := 5
def stTimeout : Nat := 6
def stCapacity : Nat := 7
def stPageLimit : Nat := 8
def stVersion : Nat := 9

/-- The place of a status in the order of R13; a status outside it comes first. -/
def statusRank (s : Nat) : Nat :=
  match [2, 1, 3, 9, 4, 6, 8, 7, 5, 0].findIdx? (· = s) with
  | some i => i + 1
  | none => 0

/-- The first of two statuses in R13's order. -/
def firstStatus (a b : Nat) : Nat := if statusRank a ≤ statusRank b then a else b

/-! ### Contexts and released work (R319 to R323, R334) -/

def ctxOf (w : World) (c : Nat) : Option Ctx := mget w.fe.ctxs c

def ctxLive (w : World) (c : Nat) : Bool := match ctxOf w c with
  | some x => x.st = .live
  | none => false

def ctxLost (w : World) (c : Nat) : Bool := match ctxOf w c with
  | some x => x.st = .lost
  | none => false

def setCtx (w : World) (c : Nat) (f : Ctx → Ctx) : World :=
  { w with fe := { w.fe with ctxs := mupd w.fe.ctxs c f } }

/-- ORs flags into a context's word (R55). -/
def orCtxFlags (c : Nat) (fl : Flags) (w : World) : World := setCtx w c (fun x => { x with flags := x.flags ||| fl })

/-- The key of a released entry, or of a node of its run. -/
def workKey (q : Nat) (node : Option Nat) : Nat := 8192 * q + (match node with | none => 0 | some i => i + 1)

def getWork (w : World) (k : Nat) : Option Work := mget w.fe.works k

def updWork (k : Nat) (f : Work → Work) (w : World) : World :=
  { w with fe := { w.fe with works := mupd w.fe.works k f } }

/-- The executor of a work has finished it with a status; the first status given stays. -/
def finWork (k st : Nat) (w : World) : World :=
  updWork k (fun x => if x.fin = none then { x with fin := some st } else x) w

/-- Is the work being stopped? -/
def workStopped (w : World) (k : Nat) : Bool := match getWork w k with
  | some x => x.stop ≠ none
  | none => false

/-- The executor has stopped a work at its boundary: it ends with the status it was stopped with (R334). -/
def finStopped (k : Nat) (w : World) : World := match getWork w k with
  | some x => finWork k (x.stop.getD stAborted) w
  | none => w

/-- Is a partition running this work's launch? -/
def launchOf (w : World) (k : Nat) : Option (Nat × Launch) := w.fe.launches.find? (fun p => p.2.work = k)

/-- Has a launch been started and not ended: it runs or is saved? -/
def launchBegun (w : World) (k : Nat) : Bool :=
  (launchOf w k).isSome || w.sched.saved.any (fun p => p.2.any (fun s => s.launch.work = k))

def updLaunch (p : Nat) (f : Launch → Launch) (w : World) : World :=
  { w with fe := { w.fe with launches := mupd w.fe.launches p f } }

/-- A status that names the cause of its context's loss (R12). -/
def isCause (st : Nat) : Bool := st = stPoison || st = stTimeout || st = stPageLimit

/-- The status of work that is stopped twice: the first cause stays (R299); the cause of a loss takes the place of an
abort (R12); else R13's order decides (R340). -/
def mergeStop (old : Option Nat) (st : Nat) : Nat := match old with
  | none => st
  | some o => if isCause o then o else if isCause st && o = stAborted then st else firstStatus o st

/-- The flags raised on a set of cores' states. -/
def coresFlags (cores : Map Core) : Flags := cores.foldl (fun f c => f ||| c.2.flags) 0

/-- Stops one released work (R334): a LAUNCH through its cores, a WAIT at once, an engine's command at its
engine's next boundary. A launch that has not started, or that is saved, ends at once, a saved one's flags going into
its context's word (R55). A memory command runs to
completion; only the status of a cause it has incurred itself stays with it. -/
def stopWork (st : Nat) (k : Nat) (w : World) : World :=
  match getWork w k with
  | none => w
  | some x =>
    if x.fin ≠ none then w
    else
      let st := mergeStop x.stop st
      let w := if x.kind = 4 && !(isCause st) then w else updWork k (fun x => { x with stop := some st }) w
      match launchOf w k with
      | some (p, _) => updLaunch p (fun l => { l with stop := some (mergeStop l.stop st) }) w
      | none =>
        if x.kind = 1 then
          let mine := w.sched.saved.flatMap (fun p => p.2.filter (fun s => s.launch.work = k))
          let w := forAll mine (fun s w => orCtxFlags s.launch.ctx (coresFlags s.cores) w) w
          let saved := w.sched.saved.map (fun (p, l) => (p, l.filter (fun s => s.launch.work ≠ k)))
          finWork k st { w with sched := { w.sched with saved := saved } }
        else if x.kind = 5 || x.kind = 0 then finWork k st w
        else w

/-- A context becomes LOST (R321, R322): the first cause is recorded, causes 2 to 7 send the message of
R321, and every running entry of the context is stopped. -/
def loseCtx (c cause : Nat) (w : World) : World :=
  if ctxLive w c then
    let w := setCtx w c (fun x => { x with st := .lost, cause := cause })
    let w := bump w rFE_CTX_LOSSES 1
    let w := if cause = 1 then w else sendMsg 0x090 c stCtxLost (cause * 2 ^ 56) w
    forAll ((w.fe.works.filter (fun p => p.2.ctx = c)).map (·.1)) (stopWork stCtxLost) w
  else w

/-- The work whose execution loses its context ends with the status of the cause (R12), every other as
R322 states. -/
def loseCtxBy (k st cause : Nat) (w : World) : World :=
  match getWork w k with
  | none => w
  | some x => loseCtx x.ctx cause (if ctxLive w x.ctx then stopWork st k w else w)

/-- A work ends with the status of a cause that loses its context. In a context that another cause has lost, one that is
being stopped ends as such (R322). -/
def endByCause (k st cause : Nat) (w : World) : World := match getWork w k with
  | some x =>
    if x.stop ≠ none && !(ctxLive w x.ctx) then finStopped k w else finWork k st (loseCtxBy k st cause w)
  | none => w

/-! ### Cores -/

def coreOf (w : World) (n : Nat) : Core := mgetD w.cores n Core.reset

def setCore (n : Nat) (c : Core) (w : World) : World := { w with cores := mset w.cores n c }

def updCore (n : Nat) (f : Core → Core) (w : World) : World := setCore n (f (coreOf w n)) w

/-- A satisfied semaphore wait (R155): the signed difference is not negative. -/
def semReached (s target : W32) : Bool := 0 ≤ (s - target).toInt

/-- Wakes the threads of a group that wait on a semaphore and are satisfied. -/
def wakeSem (n : Nat) (v : W32) (g : Group) : Group :=
  { g with threads := g.threads.map (fun t => match t.st with
    | .waitSem m target => if m = n && semReached v target then { t with st := .active } else t
    | _ => t) }

/-- Adds to a core semaphore and wakes its satisfied waiters (R155); a quarter with a woken thread ungates
(R383). -/
def semAdd (n : Nat) (k : W32) (c : Core) : Core :=
  let v := mgetD c.sems n 0 + k
  let gs := c.groups.map (fun (i, g) => (i, wakeSem n v g))
  let woken := (c.groups.zip gs).filterMap (fun (a, b) => if a.2.threads = b.2.threads then none else some (a.1 / 16))
  { c with sems := mset c.sems n v, groups := gs, gated := c.gated.filter (fun q => !(woken.contains q)) }

/-- The completion signal of a matrix, mover or barrier instruction (R95, R155). -/
def semSignal (sem : Option Nat) (c : Core) : Core := match sem with
  | some n => semAdd n 1 c
  | none => c

/-- The writes to memory of a running drain or mover instruction: those already sent complete (R124). -/
def drainCut (e : MxEntry) : List Cut := match e.op with
  | .mstream _ (some d) _ _ _ _ true _ _ _ _ _ => if d.global then [.rows d e.done e.out] else []
  | .mdrain d _ _ _ _ _ _ _ => if d.global then [.rows d e.done e.out] else []
  | _ => []

def moverCut (e : TmEntry) : List Cut := if e.parts.isEmpty then [] else [.parts e.parts]

/-- The core stops issuing for its launch (R124 step 1): queued matrix instructions are discarded and
running ones stop, the mover stops, results of outstanding loads are discarded. Stores and atomics whose
check has passed complete. -/
def stopCore (c : Core) : Core :=
  { c with
    stopped := true
    cut := c.cut ++ (c.mx.streams ++ c.mx.drainer.toList).flatMap drainCut ++ c.tmRun.toList.flatMap moverCut
    tmLines := 0
    mx := { c.mx with queue := [], loader := none, streams := [], drainer := none }
    tmq := [], tmRun := none, slmq := [], held := [], gated := []
    accs := c.accs.filter (fun a => match a.kind, a.phase with
      | .ld, _ => false
      | .ldUniform, _ => false
      | _, .lines => true
      | _, _ => false) }

/-- A cycle in which a core stops of itself, before anything is noted of it. -/
def stopCycle (now : Nat) (c : Core) : TrapCycle := ⟨now, false, false, [], [], c.accs, c.slmq⟩

/-- A kernel trap (R123 to R126): the core keeps the record of its first trap, that of the lower slot where two trap in
one cycle, sends the message of R125, marks the launch's context LOST with cause 1 and stops. -/
def kernelTrap (n slot : Nat) (mask : W32) (pc kind : Nat) (w : World) : World :=
  let c := coreOf w n
  match c.launch with
  | none => w
  | some l =>
    let pcf := kind * 2 ^ 56 + bits pc 3 54
    let valid := fld w (rKX_TRAP_INFO n) 63 1 = 1
    let now := c.trapCycle.filter (fun t => t.time = w.now)
    let lower := now.any (fun t => t.kept && t.slots.all (fun s => decide (slot < s)))
    let w := if valid && !lower then fldSet w (rKX_TRAP_INFO n) 62 1 1
      else
        let more := if valid then 1 else fld w (rKX_TRAP_INFO n) 62 1
        let w := rgSet w (rKX_TRAP_INFO n) (2 ^ 63 + more * 2 ^ 62 + slot * 2 ^ 56 + l.ctx * 2 ^ 32 + mask.toNat)
        rgSet w (rKX_TRAP_PC n) pcf
    let t := now.getD (stopCycle w.now c)
    let cycle := { t with kept := t.kept || !valid, slots := t.slots ++ [slot] }
    let w := updCore n (fun c => { c with trapCycle := some cycle }) w
    let w := sendMsg (0x100 + n) l.ctx stCtxLost pcf w
    let w := stopWork stCtxLost l.work w
    loseCtx l.ctx 1 (updCore n stopCore w)

/-- A launch that one of its cores has stopped with a trap is stopped by poison instead, which is the cause its context is
lost with (R471). -/
def poisonCause (l : CoreLaunch) (w : World) : World :=
  let turn (st : Option Nat) : Option Nat := if st = some stCtxLost then some stPoison else st
  let w := updLaunch l.part (fun x => if x.work = l.work then { x with stop := turn x.stop } else x)
    (updWork l.work (fun x => { x with stop := turn x.stop }) w)
  match ctxOf w l.ctx with
  | some x => if x.st = .lost && x.cause = 1 then
      sendMsg 0x090 l.ctx stCtxLost (2 * 2 ^ 56) (setCtx w l.ctx (fun x => { x with cause := 2 })) else w
  | none => w

/-- Poison consumed by a core (R471): the launch stops as a trap stops it, without a trap record, completes
with POISON, and its context is lost with cause 2; so also where the core traps in the same cycle. -/
def corePoison (n kind : Nat) (va : Bool) (addr : Nat) (w : World) : World :=
  let c := coreOf w n
  match c.launch with
  | none => w
  | some l =>
    let w := bump w rRAS_POISON_CONSUMED 1
    let w := rasLog kind 2 (0x100 + n) (some l.ctx) va addr w
    let now := c.trapCycle.filter (fun t => t.time = w.now)
    let w := updCore n (fun c => { c with trapCycle := some { now.getD (stopCycle w.now c) with poison := true } }) w
    let w := stopWork stPoison l.work (if now.isSome then poisonCause l w else w)
    loseCtx l.ctx 2 (updCore n stopCore w)

/-! ### Poison marks in a core's memories (R469, R470) -/

/-- The mark of a register word, of an accumulator word, of a stationary buffer with its scales, and of the rest of a core's
record (R356). DESIGN CHOICE: an error in a buffer marks the whole of it. -/
def regMark (slot reg lane : Nat) : Nat := 8192 * slot + 32 * reg + lane
def accMark (row col : Nat) : Nat := 2 ^ 20 + 128 * row + col
def bufMark (b : Nat) : Nat := 2 ^ 21 + b
def ctlMark : Nat := 2 ^ 21 + 2

/-- A core's marks that `p` chooses go. -/
def unmark (p : Nat → Bool) (c : Core) : Core := { c with marks := c.marks.filter (fun k => !(p k)) }

/-- A mark of an accumulator element in some rows, in the first columns. -/
def accMarkIn (start m cols k : Nat) : Bool :=
  decide (accMark start 0 ≤ k) && decide (k < accMark (start + m) 0) && decide (k < bufMark 0) && decide (k % 128 < cols)

/-! ### Address map (R231) -/

def inHbm (pa : Nat) : Bool := pa < 0x9000000000
def inHost (pa : Nat) : Bool :=
  0x1000000000000 ≤ pa && (pa < 0x1008000000000 || (pa < 0x1010000000000 && Config.variantA))
def inRegs (pa : Nat) : Bool := 0x2000000000000 ≤ pa && pa < 0x2000010000000
def inPcie (pa : Nat) : Bool := 0x3000000000000 ≤ pa && pa < 0x4000000000000
def inChip (pa : Nat) : Bool := 0x4000000000000 ≤ pa && pa < 0x4000100000000 && Config.variantA
def inHartLocal (pa : Nat) : Bool := 0x5000000000000 ≤ pa && pa < 0x5000100000000

/-- Main memory: the ranges with a memory-side home. -/
def isMain (pa : Nat) : Bool := inHbm pa || inHost pa

/-- The ranges a device translation may name. -/
def mapped (pa : Nat) : Bool := inHbm pa || inHost pa || inRegs pa || inPcie pa || inChip pa

/-- The stack of an HBM address under the interleave of the session (R233). -/
def stackOf (w : World) (pa : Nat) : Nat :=
  if fld w rMEM_MODE 0 1 = 0 then pa / 4096 % 12
  else if pa < 0x4800000000 then pa / 4096 % 6
  else 6 + (pa - 0x4800000000) / 4096 % 6

/-- The host-tier channel of an address (R245). -/
def channelOf (pa : Nat) : Nat := (pa - 0x1000000000000) / 4096 % 16

/-! ### Hart copies (R266 to R269, R278) -/

def hartOf (w : World) (h : Nat) : Hart := mgetD w.harts.hart h Hart.reset

def setHart (h : Nat) (x : Hart) (w : World) : World :=
  { w with harts := { w.harts with hart := mset w.harts.hart h x } }

def updHart (h : Nat) (f : Hart → Hart) (w : World) : World := setHart h (f (hartOf w h)) w

/-- The hart that holds a 64-B line M. -/
def ownerOf (w : World) (line : Nat) : Option Nat :=
  (w.harts.hart.find? (fun p => (mget p.2.mLines line).isSome)).map (·.1)

/-- Stores bytes at the home, with no other effect. -/
def putBytes (pa : Nat) (bs : List Byte) (w : World) : World :=
  { w with mem := { w.mem with bytes := listSet w.mem.bytes pa bs } }

/-- A line leaves a hart's L1 data cache. -/
def leaveL1 (h line : Nat) (w : World) : World :=
  { w with harts := { w.harts with l1 := mupd w.harts.l1 h (fun l => l.filter (· ≠ line)) } }

/-- A line that is written leaves every hart's instruction cache (R266). -/
def dropCode (line : Nat) (w : World) : World :=
  { w with harts := { w.harts with code := w.harts.code.map (fun p => (p.1, p.2.filter (· ≠ line))) } }

/-- The harts that hold a line M or S. -/
def holdersOf (w : World) (line : Nat) : List Nat :=
  (w.harts.hart.filter (fun p => (mget p.2.mLines line).isSome || p.2.sLines.contains line)).map (·.1)

/-- A hart writes its M line back to the home; it keeps an S copy or none (R268, R269). -/
def writeBack (h line : Nat) (keepS : Bool) (w : World) : World :=
  match mget (hartOf w h).mLines line with
  | none => w
  | some bs =>
    let w := putBytes (64 * line) bs w
    let w := { w with mem := { w.mem with lines := mupd w.mem.lines (line / 2) (fun _ => true) } }
    let w := updHart h (fun x => { x with
      mLines := mdel x.mLines line
      sLines := if keepS then sIns x.sLines line else x.sLines }) w
    if keepS then w else leaveL1 h line w

/-- A hart whose reservation is on a granule loses it; a hart waiting in WRS on it goes on (R278, R280). -/
def loseResv (granule : Nat) (x : Hart) : Hart :=
  match x.resv with
  | some r => if r.granule = granule then
      { x with resv := none, run := match x.run with | .wrs _ => .running | y => y }
    else x
  | none => x

/-- A device read of a 64-B granule (R269): a hart holding it M writes back and goes to S. -/
def recallRead (line : Nat) (w : World) : World :=
  match ownerOf w line with
  | some h => bump (writeBack h line true w) rCC_RECALL 1
  | none => w

/-- Every copy of a granule is recalled, an M copy with its data; CC_RECALL counts the copies (R291). -/
def recallCopies (line : Nat) (w : World) : World :=
  let hs := holdersOf w line
  let w := match ownerOf w line with
    | some h => writeBack h line false w
    | none => w
  let w := forAll hs (fun h w => updHart h (fun x => { x with sLines := x.sLines.filter (· ≠ line) }) (leaveL1 h line w)) w
  if hs.isEmpty then w else bump w rCC_RECALL hs.length

/-- A device write or atomic of a 64-B granule (R269, R278): every copy is recalled and every reservation
on it lost. -/
def recallWrite (line : Nat) (w : World) : World :=
  let w := dropCode line (recallCopies line w)
  { w with harts := { w.harts with hart := w.harts.hart.map (fun (h, x) => (h, loseResv line x)) } }

/-- The 64-B granules of a byte range. -/
def granules (pa n : Nat) : List Nat := (List.range ((pa + n - 1) / 64 + 1 - pa / 64)).map (· + pa / 64)

/-! ### The home of memory (R237, R246, R470) -/


/-- Bytes of an address range as an agent that reaches the home sees them. -/
def peek (w : World) (pa n : Nat) : List Byte :=
  if inPcie pa then listAt w.mem.host (pa - 0x3000000000000) n else listAt w.mem.bytes pa n

/-- Advances a byte counter of DBG (R476) for bytes returned or merged at a home. -/
def countHome (pa n : Nat) (wr : Bool) (w : World) : World :=
  if inHbm pa then bump w (if wr then rDBG_SC_WR (stackOf w pa) else rDBG_SC_RD (stackOf w pa)) n
  else if inHost pa then bump w (if wr then rDBG_SYSC_WR else rDBG_SYSC_RD) n
  else w

/-- The address of an HBM byte within its stack (R233). -/
def stackAddr (w : World) (pa : Nat) : Nat :=
  if fld w rMEM_MODE 0 1 = 0 then pa / 4096 / 12 * 4096 + pa % 4096
  else (if pa < 0x4800000000 then pa else pa - 0x4800000000) / 4096 / 6 * 4096 + pa % 4096

/-- The set a line falls in at its home: a slice's 16,384 sets (R237) or the system cache's 32,768 (R246). -/
def setOf (w : World) (ln : Nat) : Nat :=
  if inHbm (128 * ln) then stackOf w (128 * ln) * 16384 + stackAddr w (128 * ln) / 128 % 16384
  else 12 * 16384 + ln % 32768

/-- The lines present in the set of a line. -/
def setLines (w : World) (ln : Nat) : List Nat :=
  let s := setOf w ln
  (w.mem.lines.filter (fun p => setOf w p.1 = s)).map (·.1)

/-- Bytes a line moves between its home and the memory behind it. -/
def countBehind (ln : Nat) (wr : Bool) (w : World) : World :=
  let pa := 128 * ln
  if inHbm pa then bump w (if wr then rDBG_HBM_WR (stackOf w pa) else rDBG_HBM_RD (stackOf w pa)) 128
  else bump w (if wr then rDBG_HOST_WR (channelOf pa) else rDBG_HOST_RD (channelOf pa)) 128

/-- Before the home evicts a line it recalls every hart copy of its two granules (R267); an M copy is written back. -/
def recallEvict (ln : Nat) (w : World) : World :=
  forAll [2 * ln, 2 * ln + 1] recallCopies w

/-- Marks a line present, dirty or not. -/
def installLine (ln : Nat) (dirty : Bool) (w : World) : World :=
  { w with mem := { w.mem with lines := mset w.mem.lines ln (dirty || mgetD w.mem.lines ln false) } }

/-- The fills under way in the set of a line: each has a way. -/
def setFills (w : World) (ln : Nat) : List Fill :=
  let s := setOf w ln
  w.mem.fills.filter (fun f => setOf w f.line = s)

/-- A fill's data comes from the memory behind the home and its line is present. -/
def installFill (f : Fill) (w : World) : World :=
  countBehind f.line false (installLine f.line f.dirty
    { w with mem := { w.mem with fills := w.mem.fills.filter (fun x => x.line ≠ f.line) } })

/-- Does a hart hold a reservation in a line? Its copy then stays where it is (R279). -/
def lineReserved (w : World) (ln : Nat) : Bool :=
  w.harts.hart.any (fun p => match p.2.resv with | some r => r.granule / 2 = ln | none => false)

/-- Makes room for a line in a set of 16 ways (R237, R239). Which way replacement chooses affects only timing (R237): the
line named, else the lowest, but none that a hart has reserved (R279); where every way waits for a fill, that of the
oldest, which is completed first. A dirty victim is written out first; `fill` says that a fill waits for it. DESIGN CHOICE:
where harts have reserved every way of the set, none leaves it, and the set holds one line more. -/
def makeRoom (ln : Nat) (victim : Nat) (fill : Bool) (w : World) : World :=
  let ls := setLines w ln
  if ls.length + (setFills w ln).length < 16 || ls.contains ln then w
  else
    let w := if ls.isEmpty then (match setFills w ln with | f :: _ => installFill f w | [] => w) else w
    let ls := setLines w ln
    let free := ls.filter (fun x => !(lineReserved w x))
    match (if free.contains victim then some victim else free.head?) with
    | none => w
    | some v =>
      let w := recallEvict v w
      let dirty := mgetD w.mem.lines v false
      let w := { w with mem := { w.mem with lines := mdel w.mem.lines v } }
      if dirty then
        countBehind v true (if fill && inHbm (128 * v) then bump w rMEM_SC_DIRTY_EVICT 1 else w)
      else w

/-- The kinds of requester, each as the place of its class in MEM_CLASS (R235). DESIGN CHOICE: the front end, PCIe, the
chiplet and the observability unit, which the table does not name, count as the control complex. -/
def byWalk : Nat := 0
def byLoad : Nat := 2
def byStore : Nat := 4
def byMover : Nat := 6
def bySaffron : Nat := 8
def byCassia : Nat := 10
def byNetwork : Nat := 12
def byControl : Nat := 14

/-- The class of a kind of requester. -/
def classOf (w : World) (kind : Nat) : Nat := fld w rMEM_CLASS kind 2

/-- What a request does with its line: reads it, merges bytes into it, or writes all of it. -/
inductive LineUse where
  | read
  | merge
  | whole
  deriving DecidableEq, Repr

def updFill (line : Nat) (f : Fill → Fill) (w : World) : World :=
  { w with mem := { w.mem with fills := w.mem.fills.map (fun x => if x.line = line then f x else x) } }

/-- A request of a class that begins to wait now. -/
def fillReq (user : Option LineUser) (cls : Nat) (w : World) : FillReq := ⟨user, cls, w.now, false⟩

def addFill (line : Nat) (user : Option LineUser) (cls : Nat) (dirty : Bool) (w : World) : World :=
  { w with mem := { w.mem with fills := w.mem.fills ++ [⟨line, [fillReq user cls w], dirty⟩] } }

/-- A request of a class arrives at the home of its line (R237 to R239, R246): a hit, a merge behind a fill under way, an
allocation without a read, or a miss, whose fill waits in its class (R236). -/
def lineRequest (user : LineUser) (cls : Nat) (use : LineUse) (ln victim : Nat) (w : World) : World :=
  if !(isMain (128 * ln)) then w
  else
    let wr := decide (use ≠ .read)
    let hit := (mget w.mem.lines ln).isSome
    let w := if inHbm (128 * ln) then bump w (if hit then rMEM_SC_HIT else rMEM_SC_MISS) 1 else w
    if hit then (if wr then installLine ln true w else w)
    else if w.mem.fills.any (·.line = ln) then
      updFill ln (fun f => { f with reqs := f.reqs ++ [fillReq (some user) cls w], dirty := f.dirty || wr }) w
    else if use = .whole then installLine ln true (makeRoom ln victim false w)
    else addFill ln (some user) cls wr (makeRoom ln victim true w)

/-- A request of an agent waits while its home still invalidates (R240, R246). DESIGN CHOICE: the wait and the service are
one step, at which the home has finished; only a core's request is seen to wait (SLICE_LINE_REQUEST). -/
def awaitHome (pa : Nat) (w : World) : World :=
  if inHbm pa then { w with mem := { w.mem with invBusy := setBits w.mem.invBusy (stackOf w pa) 1 0 } }
  else if inHost pa then { w with mem := { w.mem with sysBusy := false } }
  else w

/-- A line that an agent's own step has used. -/
def touchLine (kind : Nat) (use : LineUse) (pa : Nat) (w : World) : World :=
  lineRequest (.agent kind) (classOf w kind) use (pa / 128) 0 (awaitHome pa w)

/-- What a write of a byte range does with one of its lines, named by its first address. -/
def lineUse (pa n l : Nat) : LineUse := if pa ≤ l && l + 128 ≤ pa + n then .whole else .merge

/-- The 128-B lines of a byte range, each as its first address. -/
def linesOf (pa n : Nat) : List Nat :=
  if n = 0 then [] else (List.range ((pa + n - 1) / 128 + 1 - pa / 128)).map (fun i => 128 * (i + pa / 128))

/-! ### The partition's regulators (R345, R346) -/

/-- Buckets: 0 HBM, 1 HOST, 2 NET. -/
def bucketReg (b p : Nat) : Nat :=
  if b = 0 then rSCHED_REG_HBM p else if b = 1 then rSCHED_REG_HOST p else rSCHED_REG_NET p

/-- Does a partition's bucket admit a request now? -/
def admits (w : World) (b p : Nat) : Bool :=
  mgetD w.sched.rates (16 * b + p) 0 = 0 || decide (0 < mgetD w.sched.levels (16 * b + p) 0)

/-- An admitted request's bytes leave the level. DESIGN CHOICE: the bucket then holds no request until one is refused again. -/
def charge (b p n : Nat) (w : World) : World :=
  if mgetD w.sched.rates (16 * b + p) 0 = 0 then w
  else { w with sched := { w.sched with
    levels := mset w.sched.levels (16 * b + p) (mgetD w.sched.levels (16 * b + p) 0 - n)
    holding := w.sched.holding.filter (· ≠ 16 * b + p) } }

/-- A bucket holds a request that it does not admit (R345, SCHED_REG_WAIT). -/
def holdReq (b p : Nat) (w : World) : World :=
  if admits w b p then w else { w with sched := { w.sched with holding := sIns w.sched.holding (16 * b + p) } }

/-- The bucket that a line request to an address is charged to: HBM, or HOST for the host tier; other addresses none. -/
def bucketAt (pa : Nat) : Option Nat := if inHbm pa then some 0 else if inHost pa then some 1 else none

/-- Is a core's or mover's request for a line of an address admitted now? The requester holds it until it is. -/
def lineAdmitted (w : World) (part pa : Nat) : Bool := match bucketAt pa with
  | some b => admits w b part
  | none => true

/-- A line request that is not admitted is held. -/
def holdLine (part pa : Nat) (w : World) : World := match bucketAt pa with
  | some b => holdReq b part w
  | none => w

/-- An admitted line request counts 128 B. -/
def chargeLine (part pa : Nat) (w : World) : World := match bucketAt pa with
  | some b => charge b part 128 w
  | none => w

/-! ### Finov messages and the chiplet window (R424 to R427) -/

/-- A link carries messages: it is ACTIVE, and no fatal error has ended what the block does (R468). -/
def linkActive (w : World) (l : Nat) : Bool := l < 4 && fld w (rD2D_LINK_STATUS l) 0 2 = 2 && fld w rRAS_STATUS 0 1 = 0

def updFlits (f : FlitLinks → FlitLinks) (w : World) : World := { w with flits := f w.flits }

/-- Stores a list under a key; an empty one has no entry. -/
def msetList {α : Type} (m : Map (List α)) (k : Nat) (l : List α) : Map (List α) := if l.isEmpty then mdel m k else mset m k l

/-- Adds to a count. -/
def maddTo (m : Map Nat) (k n : Nat) : Map Nat := if n = 0 then m else mset m k (mgetD m k 0 + n)

/-- Takes from a count. -/
def mtake (m : Map Nat) (k n : Nat) : Map Nat := if n = 0 then m else mset m k (mgetD m k 0 - n)

/-- A message's header and data credits taken from those of its channel. -/
def spend (l : Nat) (m : FinovMsg) (c : Map Nat) : Map Nat :=
  mtake (mtake c (creditKey l m.channel false) 1) (creditKey l m.channel true) m.data.length

/-- The channel's credits suffice for a message. -/
def affords (l : Nat) (m : FinovMsg) (c : Map Nat) : Bool :=
  1 ≤ mgetD c (creditKey l m.channel false) 0 && decide (m.data.length ≤ mgetD c (creditKey l m.channel true) 0)

/-- The next flit of a link leaves: up to 14 of the slots that wait, and up to four of the credit returns owed, which the
other side may then spend. -/
def sendFlit (l : Nat) (w : World) : World :=
  let slots := mgetD w.flits.tx l []
  let owed := (w.flits.owed.filter (fun p => p.1 / 16 = l)).take 4
  let body : FlitBody :=
    { credits := owed.map (fun p => ⟨p.1 % 16 / 2, p.1 % 2 = 1, p.2⟩), slots := slots.take 14 }
  let w := updFlits (fun f => { f with
    tx := msetList f.tx l (slots.drop 14)
    may := owed.foldl (fun m p => maddTo m p.1 p.2) f.may
    owed := owed.foldl (fun m p => mdel m p.1) f.owed }) w
  emit .flit [l] (flitBytes body) (bump (bump w (rD2D_FLITS_TX l) 1) (rDBG_D2D_TX l) (16 * body.slots.length))

/-- The flits of a link that are due leave: the full ones. DESIGN CHOICE: whether what is left, slots or credit returns,
leaves before it fills a flit is a free value. -/
def flitsDue (l : Nat) (w : World) : World :=
  let n := (mgetD w.flits.tx l []).length
  let rest := n % 14 ≠ 0 || w.flits.owed.any (fun p => p.1 / 16 = l)
  iter (n / 14 + (if rest && freeVal w % 2 = 1 then 1 else 0)) (fun _ => sendFlit l) (freeUsed w)

/-- The requests to the chiplet that may be outstanding: the device holds a buffer for the response of each (R428). -/
def chipRoom : Nat := min (ownCredits 3 chMemRsp false) (ownCredits 3 chMemRsp true / 8)

/-- May the first message that waits on a channel leave: its credits suffice, and a request to the chiplet has a buffer for
its response? -/
def maySend (w : World) (l : Nat) (m : FinovMsg) : Bool :=
  affords l m w.flits.can && (l ≠ 3 || m.channel ≠ chMemReq ||
    decide (w.d2d.reqs.length < chipRoom + (mgetD w.flits.wait (chanKey 3 chMemReq) []).length))

/-- A message leaves: its slots follow those that wait for a flit. -/
def sendNow (l : Nat) (m : FinovMsg) (w : World) : World :=
  let w := updFlits (fun f => { f with can := spend l m f.can, tx := mset f.tx l (mgetD f.tx l [] ++ msgSlots m) }) w
  emit .finov [l, m.opcode, m.tag, m.addr, m.status, m.source] m.data.flatten (flitsDue l w)

/-- The messages that wait on a channel leave, in order, as far as they may (R425, R427). -/
def pumpOut (l ch : Nat) (w : World) : World :=
  iter (mgetD w.flits.wait (chanKey l ch) []).length (fun _ w => match mgetD w.flits.wait (chanKey l ch) [] with
    | m :: rest =>
      if maySend w l m then sendNow l m (updFlits (fun f => { f with wait := msetList f.wait (chanKey l ch) rest }) w) else w
    | [] => w) w

/-- A message is sent on a link that is ACTIVE, behind those of its channel that wait for credits. -/
def finovPost (l : Nat) (m : FinovMsg) (w : World) : World :=
  if !(linkActive w l) then w
  else
    let k := chanKey l m.channel
    pumpOut l m.channel (updFlits (fun f => { f with wait := mset f.wait k (mgetD f.wait k [] ++ [m]) }) w)

/-- The device's own unit at a link: the IOD, or base die 0 on the link between the base dies. -/
def linkUnit (l : Nat) : Nat := if l = 0 then 0x024 else 0x026

/-- Sends a message of a unit on a channel of a link. -/
def finovSendFrom (src ch l op tag addr status : Nat) (data : List Byte) (w : World) : World :=
  finovPost l { channel := ch, opcode := op, status := status, va := false, tag := tag
                source := src, addr := addr, data := dataSlots data } w

/-- The one channel an opcode has (R426). -/
def opChannel (op : Nat) : Nat := ((opShape op).map (·.1.headD 0)).getD 0

/-- Sends a message of the device's own unit at the link. -/
def finovSend (l op tag addr status : Nat) (data : List Byte) (w : World) : World :=
  finovSendFrom (linkUnit l) (opChannel op) l op tag addr status data w

/-- A link trains for the first time: each receiver holds its credits. -/
def openCredits (l : Nat) (chs : List Nat) (w : World) : World :=
  updFlits (fun f =>
    let own (c : Map Nat) : Map Nat := chs.foldl (fun c ch =>
      mset (mset c (creditKey l ch false) (ownCredits l ch false)) (creditKey l ch true) (ownCredits l ch true)) c
    { f with can := own f.can, may := own f.may }) w

/-- A link stops: what it holds of messages and credits is gone. -/
def closeLink (l : Nat) (w : World) : World :=
  updFlits (fun f => { f with
    tx := mdel f.tx l, rx := mdel f.rx l
    wait := f.wait.filter (fun p => p.1 / 16 ≠ l), inq := f.inq.filter (fun p => p.1 / 16 ≠ l)
    can := f.can.filter (fun p => p.1 / 16 ≠ l), may := f.may.filter (fun p => p.1 / 16 ≠ l)
    owed := f.owed.filter (fun p => p.1 / 16 ≠ l) }) w

/-- The chiplet site is ACTIVE. -/
def chipActive (w : World) : Bool := fld w rD2D_CHIP_STATUS 0 2 = 2

/-- The offset of an address in the chiplet window. -/
def chipOff (pa : Nat) : Nat := pa - 0x4000000000000

/-- The unit that a request to the chiplet names as its source (R424). -/
def chipSource : ChipUser → Nat
  | .core n _ => 0x100 + n
  | .hartLoad h _ _ => 0x0E0 + h
  | .hartPair h _ _ => 0x0E0 + h
  | .hartStore h _ => 0x0E0 + h
  | .engine (some n) => 0x100 + n
  | .engine none => 0x026
  | .finov _ _ _ _ src => src

/-- A request to the chiplet for a line of its window, as physical offset (R431). -/
def chipRequest (user : ChipUser) (op line : Nat) (data : List Byte) (w : World) : World :=
  let t := w.d2d.nextTag % 65536
  finovSendFrom (chipSource user) chMemReq 3 op t line fvOK data
    { w with d2d := { w.d2d with nextTag := w.d2d.nextTag + 1, reqs := w.d2d.reqs ++ [⟨t, line, user⟩] } }

/-- Writes bytes within one line of the chiplet window: a full line, or a masked one (R426). -/
def chipWriteLine (user : ChipUser) (pa : Nat) (bs : List Byte) (w : World) : World :=
  let o := pa % 128
  let line := chipOff pa / 128 * 128
  if bs.length = 128 then chipRequest user 2 line bs w
  else chipRequest user 3 line (natLe ((2 ^ bs.length - 1) * 2 ^ o) 16 ++ List.replicate o 0 ++ bs ++
    List.replicate (128 - o - bs.length) 0) w

/-- Writes bytes to the chiplet window, line by line; a site that is not ACTIVE takes none. -/
def chipWrite (user : ChipUser) (pa : Nat) (bs : List Byte) (w : World) : World :=
  if !(chipActive w) then w
  else forAll (linesOf pa bs.length) (fun l w =>
    let a := max pa l
    let e := min (pa + bs.length) (l + 128)
    chipWriteLine user a ((bs.drop (a - pa)).take (e - a)) w) w

/-- An engine's read of the chiplet window: its lines are asked for; what they hold is open. -/
def chipRead (pa n : Nat) (w : World) : List Byte × World :=
  let w := if chipActive w then
      forAll (linesOf pa n) (fun l w => chipRequest (.engine none) 1 (chipOff l) [] w) w
    else w
  (natLe (freeVal w) n, freeUsed w)

/-- The requests to the chiplet that a core's mover or array has just sent, after the first `before`, are its own. -/
def claimChip (n before : Nat) (w : World) : World :=
  { w with d2d := { w.d2d with
    reqs := w.d2d.reqs.take before ++ (w.d2d.reqs.drop before).map (fun r => { r with user := .engine (some n) }) } }

/-- A reservation that still holds off a recall for a write of its granule (R279), but for one hart's own. -/
def heldBy (w : World) (own : Option Nat) (line : Nat) : Bool :=
  w.harts.hart.any (fun p => own ≠ some p.1 && (match p.2.resv with
    | some r => r.granule = line && !r.free && decide (3 * (w.now - r.since) < 64)
    | none => false))

/-- Does a write wait behind a reservation for a granule? A later request of it waits behind that write (R268). -/
def laterAt (w : World) (line : Nat) : Bool := w.mem.later.any (fun x => x.pa / 64 = line) && heldBy w none line

/-- A poisoned byte range, line by line (R470): at its home, or in a write that a reservation holds. -/
def poisoned (w : World) (pa n : Nat) : Bool :=
  (linesOf pa n).any (fun l => w.mem.poison.contains (l / 128) || w.mem.later.any (fun x => x.bad && x.pa / 128 = l / 128))

/-- A byte range that is poisoned at its home. -/
def homePoisoned (w : World) (pa n : Nat) : Bool := (linesOf pa n).any (fun l => w.mem.poison.contains (l / 128))

/-- Marks the lines of a byte range poisoned. -/
def setPoison (pa n : Nat) (w : World) : World :=
  { w with mem := { w.mem with poison := ((linesOf pa n).map (· / 128)).foldl sIns w.mem.poison } }

/-- A write of main memory at its homes. A line written whole is no longer poisoned (R470). -/
def writeHome (kind pa : Nat) (bs : List Byte) (w : World) : World :=
  let n := bs.length
  let w := forAll (granules pa n) recallWrite w
  let w := forAll (linesOf pa n) (fun l => touchLine kind (lineUse pa n l) l) w
  let w := putBytes pa bs (countHome pa n true w)
  { w with mem := { w.mem with poison := w.mem.poison.filter (fun l => !(pa ≤ 128 * l && 128 * l + 128 ≤ pa + n)) } }

/-- The held writes that `p` chooses by their granule take place, in arrival order. -/
def landLater (p : Nat → Bool) (w : World) : World :=
  let now := w.mem.later.filter (fun x => p (x.pa / 64))
  if now.isEmpty then w
  else forAll now (fun x w => let w := writeHome x.kind x.pa x.data w; if x.bad then setPoison x.pa x.data.length w else w)
    { w with mem := { w.mem with later := w.mem.later.filter (fun x => !(p (x.pa / 64))) } }

/-- The held writes whose reservation no longer holds them take place. -/
def settleLater (w : World) : World := landLater (fun g => !(heldBy w none g)) w

/-- Held writes of a byte range whose hold has ended take place before a later request of the range (R268). -/
def awaitLater (pa n : Nat) (w : World) : World :=
  landLater (fun g => (granules pa n).contains g && !(heldBy w none g)) w

/-- Is a write of a byte range still held? -/
def laterOver (w : World) (pa n : Nat) : Bool := (granules pa n).any (laterAt w)

/-- Bytes at an address with a held write's bytes over them. -/
def overlay (pa : Nat) (bs : List Byte) (x : LaterWrite) : List Byte :=
  bs.zipIdx.map (fun b => if x.pa ≤ pa + b.2 then (x.data[pa + b.2 - x.pa]?).getD b.1 else b.1)

/-- What a device request reads that is served after the held writes (R268). DESIGN CHOICE: it takes their bytes at once,
since a step is not suspended, and the hold goes on; a request of a core or a hart waits instead. -/
def behindHeld (w : World) (pa : Nat) (bs : List Byte) : List Byte := w.mem.later.foldl (overlay pa) bs

/-- The part of a write that lies in a granule. -/
def granulePart (pa : Nat) (bs : List Byte) (g : Nat) : Nat × List Byte :=
  let a := max pa (64 * g)
  (a, (bs.drop (a - pa)).take (64 * g + 64 - a))

/-- A device write of main memory, granule by granule where a reservation holds one of them (R279). -/
def writeMain (kind pa : Nat) (bs : List Byte) (w : World) : World :=
  let w := awaitLater pa bs.length w
  if (granules pa bs.length).any (heldBy w none) then
    forAll (granules pa bs.length) (fun g w =>
      let p := granulePart pa bs g
      if heldBy w none g then { w with mem := { w.mem with later := w.mem.later ++ [⟨kind, p.1, p.2, false⟩] } }
      else writeHome kind p.1 p.2 w) w
  else writeHome kind pa bs w

/-- A read by the device at the point of coherence: hart copies are recalled first (R269). -/
def devRead (kind pa n : Nat) (w : World) : List Byte × World :=
  if isMain pa then
    let w := awaitLater pa n w
    let w := forAll (granules pa n) recallRead w
    let w := forAll (linesOf pa n) (touchLine kind .read) w
    (behindHeld w pa (peek w pa n), countHome pa n false w)
  else if inChip pa then chipRead pa n w
  else (peek w pa n, w)

/-- A write by the device at the point of coherence. -/
def devWrite (kind pa : Nat) (bs : List Byte) (w : World) : World :=
  let n := bs.length
  if n = 0 then w
  else if isMain pa then writeMain kind pa bs w
  else if inPcie pa then { w with mem := { w.mem with host := listSet w.mem.host (pa - 0x3000000000000) bs } }
  else if inChip pa then chipWrite (.engine none) pa bs w
  else w

/-- What was just written to a byte range is poisoned: its lines, and the writes of it that are held. -/
def poisonWritten (pa n : Nat) (w : World) : World :=
  if laterOver w pa n then
    { w with mem := { w.mem with later := w.mem.later.map (fun x =>
        if decide (x.pa < pa + n) && decide (pa < x.pa + x.data.length) then { x with bad := true } else x) } }
  else setPoison pa n w

/-! ### Translation (R247 to R251) -/

/-- The shift of the VA bits a level indexes. -/
def levelShift : Nat → Nat
  | 0 => 16 | 1 => 21 | 2 => 30 | 3 => 39 | _ => 48

/-- The key of a table entry: context, level, and the VA bits down to the level. -/
def pteKey (ctx level va : Nat) : Nat := (ctx * 8 + level) * 2 ^ 41 + va >>> levelShift level

def pteOf (w : World) (ctx level va : Nat) : Nat := (mgetD w.mem.pte (pteKey ctx level va) 0).toNat

/-- A leaf found by a walk. -/
structure Leaf where
  pte   : Nat
  level : Nat
  deriving DecidableEq, Repr

def pteKind (e : Nat) : Nat := bits e 62 2
def pteAttr (e : Nat) : Nat := bits e 60 2
def pteWp (e : Nat) : Bool := bit e 59
def pteLegacy (e : Nat) : Nat := bits e 56 3
def pteFrame (e : Nat) : Nat := bits e 12 40 * 4096
/-- Off-loaded entries: page index, slot and partition (R248). -/
def pteOffPage (e : Nat) : Nat := bits e 28 24
def pteOffSlot (e : Nat) : Nat := bits e 12 16
def pteOffPart (e : Nat) : Nat := bits e 8 4

/-- A malformed entry (R251): a reserved field or code that is nonzero, or a range marked None. -/
def pteBad (e level : Nat) (isLeaf : Bool) : Bool :=
  pteKind e = 0 || bits e 52 2 ≠ 0 || pteAttr e = 3 ||
    (pteKind e ≠ 3 && bits e 0 12 ≠ 0) ||
    (isLeaf && pteKind e ≠ 3 && !(mapped (pteFrame e))) ||
    (!isLeaf && (level = 0 || pteKind e ≠ 1))

/-- A table walk (R247): the leaf, or the cause and level of the fault (R261). -/
def walk (w : World) (ctx va : Nat) : Except (Nat × Nat) Leaf :=
  let step (level : Nat) : Option (Nat × Nat) :=
    let e := pteOf w ctx level va
    if pteBad e level false || bit e 55 then some (1, level) else none
  match step 4, step 3, step 2 with
  | some f, _, _ => .error f
  | _, some f, _ => .error f
  | _, _, some f => .error f
  | none, none, none =>
    let e1 := pteOf w ctx 1 va
    if bit e1 55 then
      if pteBad e1 1 true then .error (1, 1)
      else if pteLegacy e1 ≠ 0 then .error (5, 1)
      else .ok ⟨e1, 1⟩
    else if pteBad e1 1 false then .error (1, 1)
    else
      let e0 := pteOf w ctx 0 va
      if pteBad e0 0 true || !(bit e0 55) then .error (1, 0) else .ok ⟨e0, 0⟩

/-- The physical address of a byte of a leaf that maps memory raw. -/
def leafPa (l : Leaf) (va : Nat) : Nat := pteFrame l.pte + va % 2 ^ levelShift l.level

/-- Records a memory fault (R261). -/
def memFault (cause level ctx src va : Nat) (w : World) : World :=
  let first := fld w rMEM_FAULT 63 1 = 0
  let w := recordErr w rMEM_FAULT (cause * 2 ^ 59 + level * 2 ^ 56 + ctx * 2 ^ 32 + src)
  if first then rgSet w rMEM_FAULT_VA (va % 2 ^ 57) else w

/-- A translation for an engine or the front end: the physical address of a byte that can be read now. -/
def vaRead (w : World) (ctx va : Nat) : Option Nat :=
  if 2 ^ 57 ≤ va then none
  else match walk w ctx va with
    | .ok l => if pteKind l.pte = 1 || pteKind l.pte = 2 then
        (if pteLegacy l.pte = 0 then some (leafPa l va) else some (pteFrame l.pte + va % 65536)) else none
    | .error _ => none

/-- The pages (64 KiB) of a virtual range. -/
def vaPages (va n : Nat) : List Nat :=
  if n = 0 then [] else (List.range ((va + n - 1) / 65536 + 1 - va / 65536)).map (fun i => 65536 * (i + va / 65536))

/-- Every page of a virtual range translates. -/
def vaMapped (w : World) (ctx va n : Nat) : Bool := (vaPages va n).all (fun p => (vaRead w ctx p).isSome)

/-- Reads a virtual range by the device, recalling hart copies, line by line. -/
def vaDevRead (kind ctx va n : Nat) (w : World) : List Byte × World :=
  (List.range ((va + n - 1) / 128 + 1 - va / 128)).foldl (fun (acc : List Byte × World) i =>
    let a := max va (128 * (i + va / 128))
    let e := min (va + n) (128 * (i + va / 128) + 128)
    match vaRead acc.2 ctx a with
    | some pa => let r := devRead kind pa (e - a) acc.2; (acc.1 ++ r.1, r.2)
    | none => (acc.1 ++ List.replicate (e - a) 0, acc.2)) ([], w)

/-- Writes a virtual range by the device, line by line. -/
def vaDevWrite (kind ctx va : Nat) (bs : List Byte) (w : World) : World :=
  let n := bs.length
  if n = 0 then w
  else (List.range ((va + n - 1) / 128 + 1 - va / 128)).foldl (fun w i =>
    let a := max va (128 * (i + va / 128))
    let e := min (va + n) (128 * (i + va / 128) + 128)
    match vaRead w ctx a with
    | some pa => devWrite kind pa ((bs.drop (a - va)).take (e - a)) w
    | none => w) w

/-- Is any byte of a virtual range poisoned? -/
def vaPoisoned (w : World) (ctx va n : Nat) : Bool := (linesOf va n).any (fun l => match vaRead w ctx (max va l) with
  | some pa => poisoned w pa 1
  | none => false)

/-- The physical address of the first poisoned line of a virtual range. -/
def poisonAt (w : World) (ctx va n : Nat) : Option Nat :=
  (linesOf va n).findSome? (fun l => match vaRead w ctx (max va l) with
    | some pa => if poisoned w pa 1 then some (pa / 128 * 128) else none
    | none => none)

/-- The state of Llynmon (R32). -/
def llynState (w : World) : Nat := fld w rGLB_LLYN_STATUS 0 4

/-- An image is in force (R31); a fatal error does not change that, nor the tree (R28). -/
def imageLoaded (w : World) : Bool := llynState w = 2 || llynState w = 4

/-- CONFIGURED or QUIESCING (R31), and no fatal error has stopped the blocks (R468). -/
def configured (w : World) : Bool := imageLoaded w && fld w rRAS_STATUS 0 1 = 0

end Sys2Proof.Machine
end

