-- ==== Sys2Proof/Machine/Pages.lean ====
section
/-!
DEFINITION. Pages (R247 to R253): the allocator of 64 KiB and 2 MiB pages, changes of table entries and their
invalidation, and page-in requests with the readiness of a virtual range (R200, R203, R204).
-/
namespace Sys2Proof.Machine

/-! ### The allocator (R253) -/

/-- Are all 32 pages of a 2 MiB frame free? -/
def frameFree (used : List Nat) (f : Nat) : Bool := used.all (fun u => u / 32 ≠ f)

/-- The lowest free 2 MiB frame of which the pool has at least `need` pages: the off-load carve-out's pages need fill no
whole frame (R195). Among one frame more than there are pages in use, one is free. -/
def freeFrame (need : Nat) (p : Pool) : Option Nat :=
  (List.range (p.used.length + 1)).find? (fun f => frameFree p.used f && decide (32 * f + need ≤ p.total))

/-- A free page of a frame already split. -/
def splitPage (p : Pool) : Option Nat :=
  (p.used.flatMap (fun u => (List.range 32).map (· + u / 32 * 32))).find?
    (fun q => !(p.used.contains q) && decide (q < p.total))

def usePages (p : Pool) (q n : Nat) : Pool := { p with used := (List.range n).foldl (fun u i => sIns u (q + i)) p.used }

/-- Takes a 64 KiB page: its frame's address. -/
def alloc64 (p : Pool) : Option (Nat × Pool) :=
  match splitPage p with
  | some q => some (p.base + 65536 * q, usePages p q 1)
  | none => (freeFrame 1 p).map (fun f => (p.base + 65536 * (32 * f), usePages p (32 * f) 1))

/-- Takes a 2 MiB page: its frame's address. -/
def alloc2m (p : Pool) : Option (Nat × Pool) :=
  (freeFrame 32 p).map (fun f => (p.base + 65536 * (32 * f), usePages p (32 * f) 32))

def allocPage (big : Bool) (p : Pool) : Option (Nat × Pool) := if big then alloc2m p else alloc64 p

/-- Takes `n` pages of one size, or none at all. -/
def allocN (big : Bool) : Nat → Pool → Option (List Nat × Pool)
  | 0, p => some ([], p)
  | n + 1, p => match allocPage big p with
    | none => none
    | some (f, p) => match allocN big n p with
      | none => none
      | some (fs, p) => some (f :: fs, p)

/-- Returns the 64 KiB pages of a frame of either size; a retired page does not return (R466). -/
def freePage (big : Bool) (addr : Nat) (p : Pool) : Pool :=
  let q := (addr - p.base) / 65536
  { p with used := p.used.filter (fun u => !(q ≤ u && u < q + (if big then 32 else 1)) || p.bad.contains u) }

def poolFree (p : Pool) : Nat := p.total - p.used.length

def blankPool : Pool := { base := 0, total := 0, used := [], bad := [] }

def hbmPool (w : World) (part : Nat) : Pool := mgetD w.mem.hbmPools part blankPool
def hostPool (w : World) (part : Nat) : Pool := mgetD w.mem.hostPools part blankPool

def setPool (host : Bool) (part : Nat) (p : Pool) (w : World) : World :=
  if host then { w with mem := { w.mem with hostPools := mset w.mem.hostPools part p } }
  else { w with mem := { w.mem with hbmPools := mset w.mem.hbmPools part p } }

def poolOf (w : World) (host : Bool) (part : Nat) : Pool := if host then hostPool w part else hbmPool w part

/-- Returns pages of one size to a partition's pool. -/
def freePages (host : Bool) (part : Nat) (big : Bool) (fs : List Nat) (w : World) : World :=
  setPool host part (fs.foldl (fun p f => freePage big f p) (poolOf w host part)) w

/-! ### Table entries (R247, R248, R252) -/

/-- The VA bits a level indexes, and the bytes of its tables: 512 entries, or 32 at level 0 (R247). -/
def indexBits (level : Nat) : Nat := if level = 0 then 5 else 9
def tableBytes (level : Nat) : Nat := if level = 0 then 256 else 4096

/-- The key of the table that holds an entry, and the key of a context's table. -/
def tableOfKey (key : Nat) : Nat := key / 2 ^ 41 * 2 ^ 41 + key % 2 ^ 41 / 2 ^ indexBits (key / 2 ^ 41 % 8)
def tableKey (ctx level va : Nat) : Nat := tableOfKey (pteKey ctx level va)

/-- The physical address of an entry, once its table exists. -/
def entryAddr (w : World) (key : Nat) : Option Nat :=
  (mget w.mem.tables (tableOfKey key)).map (· + 8 * (key % 2 ^ indexBits (key / 2 ^ 41 % 8)))

/-- Writes the memory of a table; a reservation of an M-mode hart holds the recall off (R279). -/
def writeTable (a : Nat) (bs : List Byte) (w : World) : World :=
  if heldBy w none (a / 64) then { w with mem := { w.mem with later := w.mem.later ++ [⟨byWalk, a, bs, false⟩] } }
  else putBytes a bs (recallWrite (a / 64) w)

/-- Writes a table entry, in its table's memory too; INVALID is not listed. -/
def setPte (key word : Nat) (w : World) : World :=
  let w := { w with mem := { w.mem with
    pte := if word = 0 then mdel w.mem.pte key else mset w.mem.pte key (BitVec.ofNat 64 word) } }
  match entryAddr w key with
  | some a => writeTable a (natLe word 8) w
  | none => w

/-- A table entry that names the next table: MAPPED, not a leaf. -/
def tableWord (addr : Nat) : Nat := 2 ^ 62 + addr

/-- The lowest free place for a table in the carve-out. An entry names a table by address bits [51:12], so each lies at a
multiple of 4 KiB. DESIGN CHOICE: the spec does not say at which. -/
def tablePlace (w : World) : Option Nat :=
  (List.range (w.mem.tables.length + 1)).findSome? (fun i =>
    if 4096 * i + 4096 ≤ w.mem.tableRoom && !(w.mem.tables.any (fun p => p.2 = 4096 * i)) then some (4096 * i) else none)

def inRange (pa n a : Nat) : Bool := pa ≤ a && a < pa + n

/-- Granules of a range that a reservation holds: a write of them waits (R279). -/
def heldGranules (w : World) (pa n : Nat) : List Nat :=
  (w.harts.hart.filterMap (fun p => p.2.resv.map (·.granule))).eraseDups.filter (fun g => inRange pa n (64 * g) && heldBy w none g)

/-- Hart copies of a range, instruction copies among them, are written back and dropped for a write (R266, R269), but for
what a reservation holds. -/
def recallRange (pa n : Nat) (w : World) : World :=
  let hs := heldGranules w pa n
  let lines := (w.harts.hart.flatMap (fun p =>
    p.2.mLines.map (·.1) ++ p.2.sLines ++ (match p.2.resv with | some r => [r.granule] | none => [])) ++
    w.harts.code.flatMap (·.2)).filter (fun l => inRange pa n (64 * l) && !(hs.contains l))
  forAll lines recallWrite w

/-- Hart copies of a range are written back for a read (R269). -/
def recallReads (pa n : Nat) (w : World) : World :=
  forAll ((w.harts.hart.flatMap (fun p => p.2.mLines.map (·.1))).filter (fun l => inRange pa n (64 * l))) recallRead w

/-- A write of a whole range has taken place from `old` to `new`: what of it a reservation holds waits (R279), with its
bytes. -/
def holdBack (kind pa n : Nat) (old new : World) : World :=
  forAll (heldGranules old pa n) (fun g w => { w with mem := { w.mem with
      bytes := listSet w.mem.bytes (64 * g) (listAt old.mem.bytes (64 * g) 64)
      later := w.mem.later ++ [⟨kind, 64 * g, listAt new.mem.bytes (64 * g) 64, false⟩] } }) new

/-- The bytes of a range become zero and whole. -/
def zeroRange (pa n : Nat) (w : World) : World :=
  { w with mem := { w.mem with
      bytes := w.mem.bytes.filter (fun p => !(inRange pa n p.1))
      poison := w.mem.poison.filter (fun l => !(inRange pa n (128 * l))) } }

/-- The entry above a table names it. -/
def nameTable (ctx va level addr : Nat) (w : World) : World :=
  if level = 4 || pteOf w ctx (level + 1) va = tableWord addr then w
  else setPte (pteKey ctx (level + 1) va) (tableWord addr) w

/-- Creates the table of a level for an address if it is missing: it holds INVALID entries only. The entry above
names it, again where a 2 MiB page stood there meanwhile. Answers whether there was room. DESIGN CHOICE: where the carve-out
has no room for a table that a MAP, an ALIAS, a MODEL_REG or a page-in needs, the leaf is kept, and the entry above names
frame 0; the spec is silent. -/
def makeTable (ctx va level : Nat) (w : World) : Bool × World :=
  match mget w.mem.tables (tableKey ctx level va) with
  | some a => (true, nameTable ctx va level a w)
  | none => match tablePlace w with
    | none => (false, nameTable ctx va level 0 w)
    | some a =>
      let w := holdBack byWalk a (tableBytes level) w (zeroRange a (tableBytes level) (recallRange a (tableBytes level) w))
      (true, nameTable ctx va level a { w with mem := { w.mem with tables := mset w.mem.tables (tableKey ctx level va) a } })

/-- Creates the tables above a leaf, root first (R247). -/
def makeTables (ctx level va : Nat) (w : World) : Bool × World :=
  ((List.range (5 - level)).map (4 - ·)).foldl (fun (a : Bool × World) l =>
    let r := makeTable ctx va l a.2
    (a.1 && r.1, r.2)) (true, w)

/-- A leaf: kind, attribute, write protection, legacy format, model bit and frame. -/
def leafWord (kind attr : Nat) (wp : Bool) (legacy : Nat) (model : Bool) (frame : Nat) : Nat :=
  kind * 2 ^ 62 + attr * 2 ^ 60 + b2n wp * 2 ^ 59 + legacy * 2 ^ 56 + 2 ^ 55 + b2n model * 2 ^ 54 + frame

/-- An OFFLOADED leaf (R248), keeping the leaf's other fields: Cassia ignores them (R65). -/
def offWord (old index slot part : Nat) : Nat :=
  3 * 2 ^ 62 + pteAttr old * 2 ^ 60 + b2n (pteWp old) * 2 ^ 59 + pteLegacy old * 2 ^ 56 + 2 ^ 55 +
    bits old 54 1 * 2 ^ 54 + index * 2 ^ 28 + slot * 2 ^ 12 + part * 2 ^ 8

/-- Writes a leaf, creating the tables above it (R247). -/
def setLeaf (ctx level va word : Nat) (w : World) : World :=
  setPte (pteKey ctx level va) word (makeTables ctx level va w).2

/-- Starts the invalidation of entries in every TLB; `cont` follows once all holders have confirmed (R252). -/
def invalidate (keys : List Nat) (cont : InvCont) (w : World) : World :=
  { w with mem := { w.mem with inval := w.mem.inval ++ [⟨keys, cont⟩] } }

/-- The pages of a range in one page size, as virtual addresses. -/
def pagesOf (big : Bool) (va len : Nat) : List Nat :=
  let n := if big then 2 ^ 21 else 65536
  (List.range (len / n)).map (fun i => va + n * i)

/-- The level of a page size. -/
def lvlOf (big : Bool) : Nat := if big then 1 else 0

/-! ### Page-in (R203, R204) -/

def casKey (part slot : Nat) : Nat := 65536 * part + slot

/-- Sends the notification of a launch's first page-in, once the page's stack is known. -/
def firstPageIn (p : PageIn) (frame : Nat) (w : World) : World :=
  if p.first then
    sendMsg (if stackOf w frame < 6 then 0x060 else 0x061) p.ctx 0 (2 ^ 57 + p.va % 2 ^ 57) w
  else w

/-- Gives a page-in its HBM page when the pool has one. -/
def pageInFrame (p : PageIn) (w : World) : PageIn × World :=
  match p.frame with
  | some _ => (p, w)
  | none => match ctxOf w p.ctx with
    | none => (p, w)
    | some c => match allocPage (p.level = 1) (hbmPool w c.part) with
      | none => (p, w)
      | some (f, pool) => ({ p with frame := some f }, firstPageIn p f (setPool false c.part pool w))

/-- The launch's page-in count rises (R204); past the limit the launch is stopped with PAGE_IN_STALL_LIMIT and
its context lost with cause 4. -/
def countPageIn (k : Nat) (w : World) : World :=
  match launchOf w k with
  | none => w
  | some (part, l) =>
    let w := updLaunch part (fun l => { l with pageIns := l.pageIns + 1 }) w
    let limit := l.pageLimit
    if limit ≠ 0 && limit < l.pageIns + 1 then loseCtxBy k stPageLimit 4 w else w

/-- Asks Cassia for an off-loaded page on behalf of an access; one page is paged in once however many wait. -/
def requestPageIn (ctx level va word : Nat) (work : Option Nat) (w : World) : World :=
  let base := va / 2 ^ levelShift level * 2 ^ levelShift level
  let same (p : PageIn) : Bool := p.ctx = ctx && p.va = base && p.level = level
  if w.cas.pageIns.any same then w
  else
    let first := match work with
      | some k => (match launchOf w k with
        | some (_, l) => l.pageIns = 0
        | none => false)
      | none => false
    let p : PageIn :=
      { ctx := ctx, va := base, level := level, slot := casKey (pteOffPart word) (pteOffSlot word),
        index := pteOffPage word, frame := none, work := work, first := first }
    let w := bump w rCAS_PAGEINS 1
    let r := pageInFrame p w
    let w := { r.2 with cas := { r.2.cas with pageIns := r.2.cas.pageIns ++ [r.1] } }
    match work with
    | some k => countPageIn k w
    | none => w

/-! ### Readiness of a virtual range -/

/-- What an access to a page meets: it translates, it waits, or it faults with a cause and a level (R261). -/
inductive VaState where
  | ready
  | waits
  | fault (cause level : Nat)
  deriving DecidableEq, Repr

/-- Does the slot an OFFLOADED leaf names hold its page (R251)? The page of a tensor that a DISCARD has ended is not
held, though another tensor may use the slot (R202). -/
def slotHolds (w : World) (ctx level va word : Nat) : Bool :=
  match mget w.cas.slots (casKey (pteOffPart word) (pteOffSlot word)) with
  | some s => (s.st = .host || s.st = .inn) && s.owner = ctx && decide (va < s.va + s.len) &&
      s.va + 65536 * pteOffPage word = va / 2 ^ levelShift level * 2 ^ levelShift level
  | none => false

/-- The state of the page of an address, and the page-in it asks for. `write` checks the leaf's protection. -/
def pageState (ctx va : Nat) (write : Bool) (work : Option Nat) (w : World) : VaState × World :=
  if 2 ^ 57 ≤ va then (.fault 1 4, w)
  else match walk w ctx va with
    | .error (c, l) => (.fault c l, w)
    | .ok l =>
      if pteKind l.pte = 2 then (.waits, w)
      else if pteKind l.pte = 3 then
        if slotHolds w ctx l.level va l.pte then (.waits, requestPageIn ctx l.level va l.pte work w) else (.fault 4 l.level, w)
      else if w.mem.held.contains (leafPa l va / 65536) then (.waits, w)
      else if write && pteWp l.pte then (.fault 2 l.level, w)
      else (.ready, w)

/-- The reads of a walk at the slices, root first: one entry per level (R247, R235). -/
def walkReads (ctx va : Nat) (w : World) : World :=
  let last := match walk w ctx va with
    | .ok l => l.level
    | .error (_, l) => l
  forAll ((List.range (5 - last)).map (4 - ·)) (fun l w => match entryAddr w (pteKey ctx l va) with
    | some a => (devRead byWalk a 8 w).2
    | none => w) w

/-- A mover, an engine or a fetch translates an address: a walk, unless its translation is cached. DESIGN CHOICE: one cache
holds the translations of all of them; R252 names neither their number nor their sizes. -/
def engineWalk (ctx va : Nat) (w : World) : World := match walk w ctx va with
  | .error _ => w
  | .ok l =>
    let key := pteKey ctx l.level va
    if pteKind l.pte ≠ 1 || (mget w.mem.etlb key).isSome then w
    else
      let w := walkReads ctx va w
      { w with mem := { w.mem with etlb := mset w.mem.etlb key (BitVec.ofNat 64 l.pte) } }

/-- The state of a whole range for an engine: the first page that faults, else whether some page waits. Each
result says at which address. -/
def rangeState (ctx va n : Nat) (write : Bool) (work : Option Nat) (w : World) : (VaState × Nat) × World :=
  (vaPages va n).foldl (fun (a : (VaState × Nat) × World) p =>
    match a.1.1 with
    | .fault _ _ => a
    | st =>
      let addr := max va p
      let r := pageState ctx addr write work a.2
      match r.1 with
      | .ready => ((st, a.1.2), engineWalk ctx addr r.2)
      | x => ((x, addr), r.2)) ((.ready, va), w)

end Sys2Proof.Machine
end

