-- ==== Sys2Proof/Machine/Operands.lean ====
section
/-!
DEFINITION. The fields of instruction words, register operands of thread groups, and the checks of both
(R109, R129 to R140, R162).
-/
namespace Sys2Proof.Machine

/-- An instruction in issue: core, slot, program counter, the path's lanes, the lanes whose guard holds, and
the two words. -/
structure Iss where
  core : Nat
  slot : Nat
  pc   : Nat
  path : W32
  ex   : W32
  w1   : Nat
  w2   : Nat
  deriving DecidableEq, Repr

/-- The lanes of a mask, ascending. -/
def lanesOf (m : W32) : List Nat := bitList m.toNat 32

/-- The mask of a list of lanes. -/
def maskOf (ls : List Nat) : W32 := ls.foldl (fun m l => m ||| BitVec.twoPow 32 l) 0

/-! ### Register access -/

/-- g(n) of a lane; g255 reads zero (R129). -/
def gRead (g : Group) (n lane : Nat) : W32 := if n = 255 then 0 else mgetD g.g (32 * n + lane) 0

/-- Writes g(n) of a lane; a write to g255 is discarded (R129). A zero is not listed. -/
def gWrite (n lane : Nat) (v : W32) (g : Group) : Group :=
  if n = 255 then g
  else { g with g := if v = 0 then mdel g.g (32 * n + lane) else mset g.g (32 * n + lane) v }

def uRead (g : Group) (n : Nat) : W32 := mgetD g.u n 0

def uWrite (n : Nat) (v : W32) (g : Group) : Group := { g with u := if v = 0 then mdel g.u n else mset g.u n v }

/-- The even-aligned pair g(n), g(n + 1) (R130). -/
def gPair (g : Group) (n lane : Nat) : Nat := (gRead g n lane).toNat + 2 ^ 32 * (gRead g (n + 1) lane).toNat
def uPair (g : Group) (n : Nat) : Nat := (uRead g n).toNat + 2 ^ 32 * (uRead g (n + 1)).toNat

def gPairWrite (n lane v : Nat) (g : Group) : Group :=
  gWrite (n + 1) lane (BitVec.ofNat 32 (v / 2 ^ 32)) (gWrite n lane (BitVec.ofNat 32 v) g)

/-- p(n) as a lane mask. -/
def pRead (g : Group) (n : Nat) : W32 := mgetD g.p n 0

def pLane (g : Group) (n lane : Nat) : Bool := (pRead g n).getLsbD lane

def pWrite (n lane : Nat) (b : Bool) (g : Group) : Group :=
  let m := pRead g n
  let v := if b then m ||| BitVec.twoPow 32 lane else m &&& ~~~(BitVec.twoPow 32 lane)
  { g with p := if v = 0 then mdel g.p n else mset g.p n v }

/-! ### Fields of the first word -/

def fD (i : Iss) : Nat := bits i.w1 40 8
def fA (i : Iss) : Nat := bits i.w1 32 8
def fB (i : Iss) : Nat := bits i.w1 24 8
def fC (i : Iss) : Nat := bits i.w1 16 8
def fDu (i : Iss) : Bool := bit i.w1 15
def fBk (i : Iss) : Nat := bits i.w1 13 2
def fCk (i : Iss) : Nat := bits i.w1 11 2
def fMod (i : Iss) : Nat := bits i.w1 0 11
def fLong (i : Iss) : Bool := bit i.w1 53

/-- The class and operation of a word (R133). -/
def clsOp (w1 : Nat) : Nat × Nat := (bits w1 60 4, bits w1 54 6)

/-- Is an operation listed for its class (R143 to R149)? -/
def opDefined (cls op : Nat) : Bool :=
  match cls with
  | 0 => op ≤ 0x1D | 1 => op ≤ 0x0C | 2 => op ≤ 0x0A | 3 => op ≤ 2 | 4 => op ≤ 7 | 5 => op ≤ 3
  | 6 => op ≤ 7 | 7 => op ≤ 5 | 8 => op ≤ 1 | 9 => op ≤ 4 | _ => false

/-! ### Trap kinds and their order (R123, R163) -/

def tIllegal : Nat := 1
def tFormat : Nat := 2
def tOperand : Nat := 3
def tMemFault : Nat := 4
def tSlm : Nat := 5
def tMisaligned : Nat := 6
def tBreak : Nat := 7

/-- The trap raised when several conditions are met: the first in the order of R163. -/
def firstTrap (illegal format operand misaligned slm : Bool) : Option Nat :=
  if illegal then some tIllegal else if format then some tFormat else if operand then some tOperand
  else if misaligned then some tMisaligned else if slm then some tSlm else none

/-- The header conditions of R132 to R134 and R162: the guard fields without a guard, long outside its
classes, and the upper half of a second word. -/
def headerBad (w1 w2 : Nat) : Bool :=
  let cls := (clsOp w1).1
  (!(bit w1 52) && bits w1 48 4 ≠ 0) ||
  (bit w1 53 && (!(cls = 0 || cls = 1 || cls = 3) || w2 / 2 ^ 32 ≠ 0))

/-- The lanes where the guard holds (R134). -/
def guardLanes (g : Group) (w1 : Nat) (path : W32) : W32 :=
  if bit w1 52 then
    let p := pRead g (bits w1 48 3)
    path &&& (if bit w1 51 then ~~~p else p)
  else path

/-! ### Register use: the limits of R109 and R130, and the scoreboard of R115 -/

/-- The registers an instruction names: g operands and u operands as (first, count, alignment), in the order
reads then writes. -/
structure Uses where
  g : List (Nat × Nat × Nat)
  u : List (Nat × Nat × Nat)
  deriving DecidableEq, Repr

def gUseBad (regs : Nat) (x : Nat × Nat × Nat) : Bool :=
  if x.2.1 = 1 then !(x.1 < regs || x.1 = 255) else !(x.1 % x.2.2 = 0 && x.1 + x.2.1 ≤ regs)

def uUseBad (x : Nat × Nat × Nat) : Bool := !(x.1 % x.2.2 = 0 && x.1 + x.2.1 ≤ 64)

/-- Is some operand outside the limits of R109 and R130? -/
def usesBad (regs : Nat) (u : Uses) : Bool := u.g.any (gUseBad regs) || u.u.any uUseBad

/-- Registers that an outstanding access of a group will write (R115). -/
def accWrites (a : Access) : List Nat :=
  let n := match a.kind with
    | .ld => if a.size ≤ 4 then 1 else if a.size = 5 then 2 else 4
    | .atom _ ty => if ty = 3 then 2 else 1
    | _ => 0
  if a.dst = 255 then [] else (List.range n).map (· + a.dst)

/-- Uniform registers an outstanding LDU will write. -/
def accWritesU (a : Access) : List Nat :=
  match a.kind with
  | .ldUniform => (List.range (if a.size ≤ 4 then 1 else if a.size = 5 then 2 else 4)).map (· + a.dst)
  | _ => []

/-- Does an instruction name a register that waits for an earlier result of its group (R115)? -/
def regsBusy (c : Core) (slot : Nat) (u : Uses) : Bool :=
  let number := match mget c.groups slot with
    | some g => g.number
    | none => 0
  let accs := (c.accs ++ c.slmq).filter (fun a => a.slot = slot && a.number = number)
  let bg := accs.flatMap accWrites
  let bu := accs.flatMap accWritesU
  u.g.any (fun x => bg.any (fun r => x.1 ≤ r && r < x.1 + x.2.1)) ||
  u.u.any (fun x => bu.any (fun r => x.1 ≤ r && r < x.1 + x.2.1))

end Sys2Proof.Machine
end

