-- ==== Sys2Proof/Machine/Scoreboard.lean ====
section
/-!
DEFINITION. The registers every kernel instruction names, by its layout (R136 to R142), as the scoreboard of R115 and the
limits of R109 and R130 see them.
-/
namespace Sys2Proof.Machine

/-! ### The ALU layout (R136) -/

/-- What a source field holds: nothing, a register or immediate as its kind selects, or a predicate index. -/
inductive Opd where
  | none | reg | pred
  deriving DecidableEq, Repr

/-- What the destination field names. -/
inductive Dest where
  | reg | pred | ureg
  deriving DecidableEq, Repr

/-- The operands of an operation, the mod bits it defines, and whether du = 1 is legal. -/
structure AluForm where
  a : Opd
  b : Opd
  c : Opd
  dest : Dest
  modMask : Nat
  duOk : Bool
  /-- Operands are 64-bit pairs. -/
  wide : Bool
  deriving DecidableEq, Repr

/-- The registers an ALU instruction names. -/
def aluUses (f : AluForm) (i : Iss) : Uses :=
  let n : Nat × Nat := if f.wide then (2, 2) else (1, 1)
  let src (o : Opd) (field kind : Nat) : Uses :=
    if o = .reg then
      (if kind = 0 then ⟨[(field, n)], []⟩ else if kind = 1 then ⟨[], [(field, n)]⟩ else ⟨[], []⟩)
    else ⟨[], []⟩
  let a := src f.a (fA i) (if fDu i then 1 else 0)
  let b := src f.b (fB i) (fBk i)
  let c := src f.c (fC i) (fCk i)
  let d : Uses := match f.dest with
    | .reg => if fDu i then ⟨[], [(fD i, n)]⟩ else ⟨[(fD i, n)], []⟩
    | .ureg => ⟨[], [(fD i, 1, 1)]⟩
    | .pred => ⟨[], []⟩
  ⟨a.g ++ b.g ++ c.g ++ d.g, a.u ++ b.u ++ c.u ++ d.u⟩

/-- d = f(a, b). -/
def formAB : AluForm := ⟨.reg, .reg, .none, .reg, 0, true, false⟩
/-- d = f(a). -/
def formA (modMask : Nat) : AluForm := ⟨.reg, .none, .none, .reg, modMask, true, false⟩

/-- The form of a class INT operation (R143). -/
def intForm (op : Nat) (i : Iss) : AluForm := match op with
  | 0x05 => ⟨.reg, .reg, .reg, .reg, 0, true, false⟩
  | 0x10 => formA 0x7FF
  | 0x11 => formA 0x7FF
  | 0x12 => ⟨.reg, .reg, .none, .reg, 0x7FF, true, false⟩
  | 0x13 => formA 0
  | 0x14 => formA 0
  | 0x15 => formA 0
  | 0x16 => ⟨.none, .reg, .none, .reg, 0, true, false⟩
  | 0x17 => ⟨.reg, .reg, .pred, .reg, 0, true, false⟩
  | 0x18 => ⟨.reg, .reg, .none, .pred, 0xF, true, false⟩
  | 0x19 => ⟨.pred, .pred, .pred, .pred, 0xFF, true, false⟩
  | 0x1A => ⟨.reg, .reg, .none, .reg, 0, true, true⟩
  | 0x1B => ⟨.reg, .reg, .none, .reg, 3, false, false⟩
  | 0x1C => ⟨.pred, .none, .none, if fMod i = 2 then .reg else .pred, 3, false, false⟩
  | 0x1D => ⟨.reg, .reg, .none, .ureg, 0, false, false⟩
  | _ => formAB

/-! ### Class FP (R144, R145) -/

/-- Defined mod bits of an FP operation: negate and absolute value of the operands it has, and its own. -/
def fpMask (b c : Bool) (own : Nat) : Nat := 0x480 + (if b then 0x240 else 0) + (if c then 0x100 else 0) + own

def fpForm (b c : Bool) (dest : Dest) (own : Nat) : AluForm :=
  ⟨.reg, if b then .reg else .none, if c then .reg else .none, dest, fpMask b c own, false, false⟩

/-- The form of a class FP operation but VDOT. -/
def fpFormOf (op : Nat) : AluForm :=
  if op ≤ 1 || op = 3 || op = 4 then fpForm true false .reg 0
  else if op = 2 then fpForm true true .reg 0
  else if op = 5 then fpForm true false .pred 7
  else fpForm false false .reg 0

/-- One side of a VDOT: format, whether block-scaled, scale format and block size. -/
structure VdotSide where
  fmt   : Nat
  bs    : Bool
  sf    : ScaleFmt
  blk32 : Bool
  deriving DecidableEq, Repr

def vdotA (i : Iss) : VdotSide :=
  ⟨bits i.w1 7 4, bit i.w1 2, if bit i.w1 14 then .fs8 else .e8m0, bit i.w1 12⟩
def vdotB (i : Iss) : VdotSide :=
  ⟨bits i.w1 3 4, bit i.w1 1, if bit i.w1 13 then .fs8 else .e8m0, bit i.w1 11⟩

/-- Registers of an operand: 32 elements of its format. -/
def vdotRegs (f : Nat) : Nat := match fmtOfCode f with
  | some e => elemBits e
  | none => 0

def vdotUses (i : Iss) : Uses :=
  ⟨[(fA i, vdotRegs (vdotA i).fmt, 1), (fB i, vdotRegs (vdotB i).fmt, 1), (fD i, 1, 1)] ++
    (if (vdotA i).bs || (vdotB i).bs then [(fC i, 1, 1)] else []), []⟩

/-! ### Class CVT (R137) -/

def cvtCtr (i : Iss) : Nat := bits i.w1 26 6
def cvtIdx (i : Iss) : Nat := bits i.w1 18 8
def cvtS (i : Iss) : Nat := bits i.w1 12 6
def cvtSrc (i : Iss) : Nat := bits i.w1 8 4
def cvtDst (i : Iss) : Nat := bits i.w1 4 4
def cvtRnd (i : Iss) : Nat := bits i.w1 1 3
def cvtSat (i : Iss) : Bool := bit i.w1 0

/-- The registers a CVT names: d, a, the scale register where the form uses it, and under SR the counter
pair and the index. -/
def cvtUses (usesS : Bool) (i : Iss) : Uses :=
  ⟨[(fD i, 1, 1), (fA i, 1, 1)] ++ (if cvtRnd i = 5 then [(cvtIdx i, 1, 1)] else []),
   (if usesS then [(cvtS i, 1, 1)] else []) ++ (if cvtRnd i = 5 then [(cvtCtr i, 2, 2)] else [])⟩

/-! ### Classes MEM and ATOM (R138, R139) -/

def sizeRegs (size : Nat) : Nat := if size ≤ 4 then 1 else if size = 5 then 2 else 4

def mSpace (i : Iss) : Nat := bits i.w1 20 4
def mSize (i : Iss) : Nat := bits i.w1 16 4

/-- Registers of a MEM instruction: data, base and index. -/
def memUses (uniform : Bool) (i : Iss) : Uses :=
  let n := sizeRegs (mSize i)
  let base : Uses := match mSpace i with
    | 0 => ⟨[(fA i, 2, 2)], []⟩
    | 1 => ⟨[(fB i, 1, 1)], [(fA i, 2, 2)]⟩
    | 2 => ⟨[(fA i, 1, 1)], []⟩
    | 3 => ⟨[(fB i, 1, 1)], [(fA i, 1, 1)]⟩
    | 4 => ⟨[], [(fA i, 2, 2)]⟩
    | _ => ⟨[], [(fA i, 1, 1)]⟩
  ⟨(if uniform then [] else [(fD i, n, n)]) ++ base.g, (if uniform then [(fD i, n, n)] else []) ++ base.u⟩

def aSlm (i : Iss) : Bool := bit i.w1 15
def aType (i : Iss) : Nat := bits i.w1 12 3
def atomUses (op : Nat) (i : Iss) : Uses :=
  let k := if aType i = 3 then 2 else 1
  ⟨(if fD i = 255 then [] else [(fD i, k, k)]) ++ [if aSlm i then (fA i, 1, 1) else (fA i, 2, 2), (fB i, k, k)] ++
    (if op = 7 then [(fC i, k, k)] else []), []⟩

/-! ### The fixed layouts (R140) -/

def ySem (i : Iss) : Nat := bits i.w1 35 5
def yKind (i : Iss) : Nat := bits i.w1 22 2
def yR (i : Iss) : Nat := bits i.w1 40 8


def xSem (i : Iss) : Nat := bits i.w1 29 5
def xSlot (i : Iss) : Nat := bits i.w1 45 3
def xSlot2 (i : Iss) : Nat := bits i.w1 42 3
def xQ (i : Iss) : Nat := bits i.w1 36 6
def xRnd (i : Iss) : Nat := bits i.w1 26 3
def xSat (i : Iss) : Bool := bit i.w1 25
def xCtr (i : Iss) : Nat := bits i.w1 19 6

/-- The u registers of a descriptor slot. -/
def slotUse (k : Nat) : List (Nat × Nat × Nat) := if k = 0 then [] else [(8 * k, 8, 8)]

def ctrUse (i : Iss) : List (Nat × Nat × Nat) := if xRnd i = 5 then [(xCtr i, 2, 2)] else []

def semUses (i : Iss) : Uses := ⟨[], if yKind i = 1 then [(fB i, 1, 1)] else []⟩

def noUses (_ : Iss) : Uses := ⟨[], []⟩

def tmUses (i : Iss) : Uses := ⟨[], slotUse (xSlot i) ++ slotUse (xSlot2 i)⟩

def sDrain (i : Iss) : Bool := bit i.w1 35
def accUses (i : Iss) : Uses := ⟨[(yR i, 1, 1)], [(bits i.w1 28 6, 1, 1)]⟩

/-- The registers the instruction in issue names, by its class and operation. -/
def usesOf (i : Iss) : Uses :=
  let op := (clsOp i.w1).2
  match (clsOp i.w1).1 with
  | 0 => aluUses (intForm op i) i
  | 1 => if op ≤ 0xA then aluUses (fpFormOf op) i else vdotUses i
  | 2 => cvtUses (5 ≤ op) i
  | 3 => memUses (op = 2) i
  | 4 => atomUses op i
  | 5 => match op with
    | 2 => ⟨[], [(fD i, 1, 1)]⟩
    | 3 => ⟨[], [(fB i, 1, 1)]⟩
    | _ => semUses i
  | 6 => match op with
    | 1 => ⟨[(yR i, 2, 2)], []⟩
    | 2 => ⟨[(yR i, 2, 2)], []⟩
    | 4 => ⟨[], [(yR i, 1, 1)]⟩
    | _ => noUses i
  | 7 => match op with
    | 0 => ⟨[], slotUse (xSlot i)⟩
    | 1 => noUses i
    | 2 => ⟨[], slotUse (xSlot i) ++ slotUse (xSlot2 i) ++ [(xQ i, if sDrain i then 2 else 3, 1)] ++ ctrUse i⟩
    | 3 => ⟨[], slotUse (xSlot i) ++ [(xQ i, 2, 1)] ++ ctrUse i⟩
    | _ => accUses i
  | 8 => tmUses i
  | 9 => match op with
    | 0 => ⟨[], [(fD i, 3, 1)]⟩
    | 1 => ⟨[], [(fA i, 3, 1)]⟩
    | 2 => ⟨[], slotUse (xSlot i)⟩
    | _ => noUses i
  | _ => noUses i

/-! ### Poisoned register words (R469, R470) -/

/-- The g registers an instruction writes without reading them. -/
def destOf (i : Iss) : Option (Nat × Nat × Nat) :=
  let op := (clsOp i.w1).2
  let alu (f : AluForm) : Option (Nat × Nat × Nat) :=
    if f.dest = .reg && !(fDu i) then some (fD i, if f.wide then (2, 2) else (1, 1)) else none
  match (clsOp i.w1).1 with
  | 0 => alu (intForm op i)
  | 1 => if op ≤ 0xA then alu (fpFormOf op) else none
  | 2 => some (fD i, 1, 1)
  | 3 => if op = 0 then some (fD i, sizeRegs (mSize i), sizeRegs (mSize i)) else none
  | 4 => if fD i = 255 then none else some (fD i, if aType i = 3 then (2, 2) else (1, 1))
  | 6 => if op = 2 then some (yR i, 2, 2) else none
  | 7 => if op = 4 then some (yR i, 1, 1) else none
  | _ => none

/-- The g registers it reads. -/
def readsOf (i : Iss) : List (Nat × Nat × Nat) := match destOf i with
  | some d => (usesOf i).g.erase d
  | none => (usesOf i).g

/-- The lanes whose registers it reads: SHFL and READLANE read those of the path. -/
def readLanes (i : Iss) : W32 := if clsOp i.w1 = (0, 0x1B) || clsOp i.w1 = (0, 0x1D) then i.path else i.ex

/-- Is a mark that of a register word of the group in issue, in some lanes and registers? -/
def markIn (i : Iss) (lanes : W32) (us : List (Nat × Nat × Nat)) (k : Nat) : Bool :=
  decide (k / 8192 = i.slot) && lanes.getLsbD (k % 32) &&
    us.any (fun u => u.1 ≤ k % 8192 / 32 && k % 8192 / 32 < u.1 + u.2.1)

/-- The poisoned word an instruction reads (R469): DEDUCED, whatever its class, its reader is the consumer. What is marked of
the rest of a core's state the first issue consumes. -/
def markRead (c : Core) (i : Iss) : Option Nat :=
  c.marks.find? (fun k => k = ctlMark || markIn i (readLanes i) (readsOf i) k)

end Sys2Proof.Machine
end

