-- ==== Sys2Proof/Machine/Issue.lean ====
section
/-!
DEFINITION. The issue of one kernel instruction: choice of group and path (R113, R117), fetch (R135), decode and
the checks that trap before any effect (R123, R162, R163), the books of R117 and the counters of R128.
-/
namespace Sys2Proof.Machine

/-! ### Fetch (R132, R135) -/

/-- The result of fetching one word. -/
inductive Fetched where
  | word (v : Nat)
  | fault (cause level : Nat)
  | wait
  deriving DecidableEq, Repr

/-- One instruction word: from the core's instruction cache; one that is not there waits for its line. -/
def fetchWord (w : World) (c : Core) (ctx pc : Nat) : Fetched :=
  match mget c.icache pc with
  | some v => .word v.toNat
  | none => match (pageState ctx pc false none w).1 with
    | .fault cause level => .fault cause level
    | _ => .wait

/-- Keeps a fetched word in the instruction cache. -/
def cacheWord (pc v : Nat) (c : Core) : Core := { c with icache := mset c.icache pc (BitVec.ofNat 64 v) }

/-- What a fetch that waits asks for: its page, or, once the partition's bucket admits the request (R345, R346), the line of
its word at the point of coherence (R269), whose words the instruction cache then holds. DESIGN CHOICE: the request has the
class of the core's loads; a legacy-tagged page is fetched raw, since only kernel loads and stores convert (R65); poison in
the line stops the launch as R471 says of a core. -/
def fetchAhead (n pc : Nat) (l : CoreLaunch) (w : World) : World :=
  let p := pageState l.ctx pc false (some l.work) w
  match p.1, vaRead w l.ctx pc with
  | .waits, _ => p.2
  | .ready, some pa =>
    let base := pa / 128 * 128
    if !(lineAdmitted w l.part base) then holdLine l.part base w
    else
      let r := devRead byLoad base 128 (chargeLine l.part base (engineWalk l.ctx pc w))
      if poisoned r.2 base 128 then corePoison n (if inHost base then kindLpddr else kindHbm) true pc r.2
      else updCore n (fun c => iter 16 (fun k c => cacheWord (pc / 128 * 128 + 8 * k) (leNat ((r.1.drop (8 * k)).take 8)) c) c) r.2
  | _, _ => w

/-! ### Paths (R116, R117) -/

/-- Adds a lane to the path with its program counter. -/
def addPath (pc lane : Nat) (ps : Map W32) : Map W32 := mset ps pc (mgetD ps pc 0 ||| BitVec.twoPow 32 lane)

/-- The paths of a group: active threads by program counter, lowest first. -/
def pathsOf (g : Group) : Map W32 :=
  (g.threads.zipIdx).foldl (fun ps t => if t.1.st = .active then addPath t.1.pc t.2 ps else ps) []

/-- The book of a path: what is kept under its program counter, if it still holds the same threads. -/
def bookOf (g : Group) (pc : Nat) (mask : W32) : PathBook :=
  match mget g.paths pc with
  | some b => if b.mask = mask then b else ⟨mask, 0, none, false, none⟩
  | none => ⟨mask, 0, none, false, none⟩

/-- Does the next instruction of a group's path, as far as it can be fetched, name a register that waits for an earlier
result of the group (R115)? -/
def pathBlocked (w : World) (n slot pc : Nat) : Bool :=
  let c := coreOf w n
  (c.accs ++ c.slmq).any (fun a => a.slot = slot) &&
  (match c.launch with
    | none => false
    | some l => match fetchWord w c l.ctx pc with
      | .word w1 =>
        let w2 := match (if bit w1 53 then fetchWord w c l.ctx (pc + 8) else .word 0) with
          | .word v => v
          | _ => 0
        regsBusy c slot (usesOf ⟨n, slot, pc, 0, 0, w1, w2⟩)
      | _ => false)

/-- The paths that can issue: every lane ready, not held back by YIELD, and not by the scoreboard, as `blocked` says of a
program counter. -/
def readyPaths (blocked : Nat → Bool) (g : Group) (lanes : W32) : Map W32 :=
  (pathsOf g).filter (fun p => p.2 &&& ~~~lanes = 0 && !(bookOf g p.1 p.2).yielded && !(blocked p.1))

/-- A path in a favoured run that may go on (R117 item 1). -/
def favouredPath (g : Group) (ps : Map W32) : Option (Nat × W32) :=
  ps.find? (fun p => match (bookOf g p.1 p.2).run with
    | some k => k < 16
    | none => false)

/-- The starved path of R117 item 2: the largest count of 64 or more, the lower program counter on a tie. -/
def starvedPath (g : Group) (ps : Map W32) : Option (Nat × W32) :=
  ps.foldl (fun best p =>
    let n := (bookOf g p.1 p.2).starve
    if n < 64 then best
    else match best with
      | none => some p
      | some b => if (bookOf g b.1 b.2).starve < n then some p else best) none

/-- The path a group issues (R117), and whether it issues in a favoured run. -/
def choosePath (g : Group) (ps : Map W32) : Option ((Nat × W32) × Bool) :=
  match favouredPath g ps with
  | some p => some (p, true)
  | none => match starvedPath g ps with
    | some p => some (p, true)
    | none => ps.head?.map (·, false)

/-- The books of a group after an issue of one of its paths (R117): the issuing path's count is 0 and its
run advances, and ends after 16 instructions; every other ready path's count rises; a path that was not ready ends its
run; YIELD's mark is spent. Which paths the latencies of R114 keep from being ready is what the command's lanes report.
DESIGN CHOICE: a favoured run ends at the issue of another path of its group only; whether it ends in cycles in which the path
is not ready and its group issues nothing R117 does not say. -/
def issueBooks (g : Group) (ready : Map W32) (chosen : Nat) (favoured : Bool) : Map PathBook :=
  (pathsOf g).foldl (fun m p =>
    let b := bookOf g p.1 p.2
    let isReady := (mget ready p.1).isSome
    let b' : PathBook :=
      if p.1 = chosen then
        { mask := p.2, starve := 0, yielded := false, fence := none,
          run := if favoured && b.run.getD 0 + 1 < 16 then some (b.run.getD 0 + 1) else none }
      else { mask := p.2, starve := if isReady then b.starve + 1 else b.starve, yielded := false, fence := b.fence,
             run := if isReady then b.run else none }
    mset m p.1 b') []

/-- Re-keys the books to the paths after an effect: a path with the same threads keeps its book, every path
formed by a split or a merge starts afresh (R117). -/
def rekeyBooks (old : Map PathBook) (g : Group) : Group :=
  { g with paths := (pathsOf g).foldl (fun m p =>
      match old.find? (fun b => b.2.mask = p.2) with
      | some b => mset m p.1 b.2
      | none => mset m p.1 ⟨p.2, 0, none, false, none⟩) [] }

/-- The slots of a quarter in the order R113 examines them. DESIGN CHOICE: before a quarter's first issue after core reset
slot 0 stands first, and the place is kept from one launch to the next; R113 names only the slot that issued last. -/
def slotOrder (c : Core) (q : Nat) : List Nat :=
  (List.range 16).map (fun i => (mgetD c.lastSlot q 15 + 1 + i) % 16)

/-- May a group issue as far as the block knows: it is resident, reported ready, and has a path that neither YIELD nor
the scoreboard, as `blocked` says of a slot and a program counter, holds back. -/
def slotReady (blocked : Nat → Nat → Bool) (c : Core) (q : Nat) (groups : BitVec 16) (s : Nat) : Bool :=
  groups.getLsbD s && (match mget c.groups (16 * q + s) with
    | some g => (pathsOf g).any (fun p => !(bookOf g p.1 p.2).yielded && !(blocked (16 * q + s) p.1))
    | none => false)

/-- Spends YIELD's marks of the groups R113 passed over. -/
def spendYields (q : Nat) (slots : List Nat) (c : Core) : Core :=
  { c with groups := slots.foldl (fun gs s => mupd gs (16 * q + s) (fun g =>
      { g with paths := g.paths.map (fun (k, b) => (k, { b with yielded := false })) })) c.groups }

/-- The group that issues (R113). -/
def chooseSlot (w : World) (a : At) : Option Nat :=
  let c := coreOf w a.core
  (slotOrder c a.quarter).find? (slotReady (pathBlocked w a.core) c a.quarter a.groups)

/-! ### The group in issue -/

def updGroup (n slot : Nat) (f : Group → Group) (w : World) : World :=
  updCore n (fun c => { c with groups := mupd c.groups slot f }) w

def groupOf (w : World) (n slot : Nat) : Group :=
  mgetD (coreOf w n).groups slot { number := 0, g := [], u := [], p := [], threads := [], paths := [] }

/-- The launch of a core, or a blank one. -/
def launchOn (w : World) (n : Nat) : CoreLaunch :=
  ((coreOf w n).launch).getD
    { work := 0, ctx := 0, part := 0, rank := 0, groups := 0, regs := 0, slmKib := 0, entry := 0, ftz := false,
      seed := 0, coop := false, lcb := [] }

/-- Sets the program counter of the lanes of a mask. -/
def setPcs (mask : W32) (pc : Nat) (g : Group) : Group :=
  { g with threads := g.threads.zipIdx.map (fun t => if mask.getLsbD t.2 then { t.1 with pc := pc } else t.1) }

/-- Sets the state of the lanes of a mask. -/
def setSts (mask : W32) (st : TState) (g : Group) : Group :=
  { g with threads := g.threads.zipIdx.map (fun t => if mask.getLsbD t.2 then { t.1 with st := st } else t.1) }

/-- Is the core able to issue for its launch: it has one, its clears have ended (R108), it has not stopped, no pre-emption holds it (R355) nor a
Starchart build (R484),
and every group of a cooperative launch is placed (R127)? -/
def coreIssues (w : World) (n : Nat) : Bool :=
  let c := coreOf w n
  match c.launch with
  | none => false
  | some l => !c.stopped && !c.clearBusy && !(w.sched.preempt.contains l.part) && !(issueHeld w l.part) &&
    (!l.coop || (match mget w.fe.launches l.part with
      | some x => x.placed = x.groups
      | none => false))

/-- The lanes of a group that have not exited. -/
def aliveLanes (g : Group) : W32 :=
  maskOf ((g.threads.zipIdx.filter (fun t => t.1.st ≠ .exited)).map (·.2))

/-- Counters of one issue (R128). -/
def countIssue (n : Nat) (g : Group) (path : W32) (favoured : Bool) (w : World) : World :=
  let w := bump w (rKX_ISSUE n) 1
  let w := if aliveLanes g &&& ~~~path = 0 then w else bump w (rKX_DIVERGE n) 1
  if favoured then bump w (rKX_FAVOUR n) 1 else w

/-- The entry a work's key belongs to: itself, or the GRAPH_RUN of a node. -/
def entryKey (k : Nat) : Nat := k / 8192 * 8192

/-- R361: the first instruction of a batch step's first launch stamps its start. -/
def stampStart (k : Nat) (w : World) : World :=
  match mget w.sched.steps (entryKey k) with
  | none => w
  | some x =>
    if x.started = none then
      let st := stampNow w
      { st.2 with sched := { st.2.sched with
        steps := mset st.2.sched.steps (entryKey k) { x with started := some st.1 } } }
    else w

/-- What an instruction is made of: its registers, its trap at issue if any, what it waits for, its effect, and what it
notes while it waits. -/
structure Meaning where
  uses  : Iss → World → Uses
  trap  : Iss → World → Option Nat
  waits : Iss → World → Bool
  eff   : Iss → World → World
  note  : Iss → World → World := fun _ w => w

/-- The trap an instruction raises at issue, the first in the order of R163: the header of R132 to R134, a u
index above 63 (R162), the instruction's own conditions, and the register limits of R109 and R130. -/
def issueTrap (regs : Nat) (us : Uses) (i : Iss) (own : Option Nat) : Option Nat :=
  if headerBad i.w1 i.w2 || us.u.any (fun x => 63 < x.1) || own = some tIllegal then some tIllegal
  else if own = some tFormat then some tFormat
  else if usesBad regs us then some tOperand
  else own

/-- A trap at issue: its quarter has issued in this cycle (R126). -/
def issueTraps (n slot : Nat) (mask : W32) (pc kind : Nat) (w : World) : World :=
  updCore n (fun c => { c with trapCycle := c.trapCycle.map (fun t => { t with quarters := sIns t.quarters (slot / 16) }) })
    (kernelTrap n slot mask pc kind w)

/-- Does an instruction at issue read a poisoned word of its core? Then its launch stops (R469, R471). -/
def consumeMark (i : Iss) (go : World → World) (w : World) : World := match markRead (coreOf w i.core) i with
  | some k => corePoison i.core kindCore false k w
  | none => go w

/-- An issue that has passed fetch and decode as class `cls`, operation `op`. -/
def issueDecoded (m : Meaning) (i : Iss) (ready : Map W32) (favoured : Bool) (q : Nat) (w : World) : World :=
  let g := groupOf w i.core i.slot
  let l := launchOn w i.core
  let us := m.uses i w
  if regsBusy (coreOf w i.core) i.slot us then w
  else
    match issueTrap l.regs us i (m.trap i w) with
    | some k => issueTraps i.core i.slot i.path i.pc k w
    | none =>
      if m.waits i w then m.note i w
      else consumeMark i (fun w =>
        let passed := (slotOrder (coreOf w i.core) q).takeWhile (fun s => 16 * q + s ≠ i.slot)
        let books := issueBooks g ready i.pc favoured
        let w := countIssue i.core g i.path favoured (stampStart l.work w)
        let w := updCore i.core (fun c =>
          let c := spendYields q passed (unmark (markIn i i.ex (destOf i).toList) c)
          { c with lastSlot := mset c.lastSlot q (i.slot % 16) }) w
        let w := updGroup i.core i.slot (fun g =>
          setPcs i.path (i.pc + if fLong i then 16 else 8) { g with paths := books }) w
        let w := m.eff i w
        updGroup i.core i.slot (fun g => rekeyBooks g.paths g) w) w

/-- A second group of the core, of another quarter, traps, or consumes poison, in the cycle of a trap (R126, R471): nothing else of the cycle's other
issues takes effect. -/
def lateTrap (cls op : Nat) (m : Meaning) (a : At) (w : World) : World :=
  let c := coreOf w a.core
  match c.trapCycle, chooseSlot w a with
  | some t, some s =>
    let slot := 16 * a.quarter + s
    let g := groupOf w a.core slot
    let l := launchOn w a.core
    if t.time ≠ w.now || 4 ≤ a.quarter || t.quarters.contains a.quarter then w
    else match choosePath g (readyPaths (pathBlocked w a.core slot) g a.lanes) with
      | none => w
      | some ((pc, path), _) => match fetchWord w c l.ctx pc with
        | .wait => w
        | .fault cause level => issueTraps a.core slot path pc tMemFault (memFault cause level l.ctx (0x100 + a.core) pc w)
        | .word w1 =>
          if !(opDefined (clsOp w1).1 (clsOp w1).2) then issueTraps a.core slot path pc tIllegal w
          else if clsOp w1 ≠ (cls, op) then w
          else
            let w2 := match fetchWord w c l.ctx (pc + 8) with
              | .word v => v
              | _ => 0
            let i : Iss := ⟨a.core, slot, pc, path, guardLanes g w1 path, w1, if bit w1 53 then w2 else 0⟩
            let us := m.uses i w
            if regsBusy c slot us then w
            else match issueTrap l.regs us i (m.trap i w) with
              | some k => issueTraps a.core slot path pc k w
              | none => if t.poison || m.waits i w then w else consumeMark i (fun w => w) w
  | _, _ => w

/-- One issue of a quarter, whose instruction is class `cls`, operation `op` (R113 to R119, R162). Nothing
happens when no group can issue, when the instruction at hand is another one, or while it waits. An encoding
that names no operation traps whatever the command. DESIGN CHOICE: the second word of a long instruction is fetched before any
check, so that a fault of its fetch comes first even in a class where long = 1 is illegal; R162 and R163 do not order the two. -/
def issue (cls op : Nat) (m : Meaning) (a : At) (w : World) : World :=
  let c := coreOf w a.core
  if !(coreIssues w a.core) || 4 ≤ a.quarter then lateTrap cls op m a w
  else match chooseSlot w a with
    | none => updCore a.core (spendYields a.quarter (List.range 16)) w
    | some s =>
      let slot := 16 * a.quarter + s
      let g := groupOf w a.core slot
      let ready := readyPaths (pathBlocked w a.core slot) g a.lanes
      match choosePath g ready with
      | none => w
      | some ((pc, path), favoured) =>
        let l := launchOn w a.core
        match fetchWord w c l.ctx pc with
        | .wait => fetchAhead a.core pc l w
        | .fault cause level => issueTraps a.core slot path pc tMemFault (memFault cause level l.ctx (0x100 + a.core) pc w)
        | .word w1 =>
          if !(opDefined (clsOp w1).1 (clsOp w1).2) then issueTraps a.core slot path pc tIllegal w
          else if clsOp w1 ≠ (cls, op) then w
          else
            let go (w2 : Nat) : World :=
              issueDecoded m ⟨a.core, slot, pc, path, guardLanes g w1 path, w1, w2⟩ ready favoured a.quarter w
            if bit w1 53 then
              match fetchWord w c l.ctx (pc + 8) with
              | .wait => fetchAhead a.core (pc + 8) l w
              | .fault cause level =>
                issueTraps a.core slot path pc tMemFault (memFault cause level l.ctx (0x100 + a.core) (pc + 8) w)
              | .word w2 => go w2
            else go 0

/-- A meaning that changes only its group. -/
def groupMeaning (uses : Iss → Group → Uses) (trap : Iss → Group → Option Nat) (eff : Iss → CoreLaunch → Group → Group × Flags) :
    Meaning :=
  { uses := fun i w => uses i (groupOf w i.core i.slot)
    trap := fun i w => trap i (groupOf w i.core i.slot)
    waits := fun _ _ => false
    eff := fun i w =>
      let r := eff i (launchOn w i.core) (groupOf w i.core i.slot)
      updCore i.core (fun c => { c with groups := mset c.groups i.slot r.1, flags := c.flags ||| r.2 }) w }

end Sys2Proof.Machine
end

