-- ==== Sys2Proof/Machine/Int.lean ====
section
/-!
DEFINITION. Class INT of the kernel instruction set (R136, R143): the ALU layout and its checks, the
operations, and the cross-lane instructions (R119).
-/
namespace Sys2Proof.Machine

/-- A source field that breaks R136 or R162: an unused field that is not 0, kind 0 with du = 1, a register
field beside an imm32, a predicate index above 7 or with a kind. -/
def opdBad (o : Opd) (du : Bool) (field kind : Nat) : Bool :=
  match o with
  | .none => field ≠ 0 || kind ≠ 0
  | .reg => (kind = 0 && du) || (kind = 3 && field ≠ 0)
  | .pred => kind ≠ 0 || 8 ≤ field

/-- The illegal-instruction conditions of the ALU layout. -/
def aluIllegal (f : AluForm) (i : Iss) : Bool :=
  let du := fDu i
  (fLong i != ((fBk i = 3) != (fCk i = 3))) || (fBk i = 3 && fCk i = 3) ||
  opdBad f.a false (fA i) 0 || opdBad f.b du (fB i) (fBk i) || opdBad f.c du (fC i) (fCk i) ||
  (du && !f.duOk) || (f.dest = .pred && 8 ≤ fD i) || fMod i &&& (0x7FF - f.modMask) ≠ 0

/-- The sign-extended immediate of a field (R136), as 32 bits. -/
def immOf (i : Iss) (field kind : Nat) : Int :=
  if kind = 2 then sextInt field 8 else sextInt i.w2 32

/-- A 32-bit source as its kind selects. -/
def srcVal (i : Iss) (g : Group) (lane field kind : Nat) : W32 :=
  if kind = 0 then gRead g field lane
  else if kind = 1 then uRead g field
  else BitVec.ofInt 32 (immOf i field kind)

def aVal (i : Iss) (g : Group) (lane : Nat) : W32 := if fDu i then uRead g (fA i) else gRead g (fA i) lane
def bVal (i : Iss) (g : Group) (lane : Nat) : W32 := srcVal i g lane (fB i) (fBk i)
def cVal (i : Iss) (g : Group) (lane : Nat) : W32 := srcVal i g lane (fC i) (fCk i)

/-- The lowest lane of the path whose guard holds. -/
def leadLane (i : Iss) : Option Nat := (lanesOf i.ex).head?

/-- Writes a 32-bit result: u(d) once for a uniform instruction, else g(d) in every lane whose guard holds. -/
def putReg (i : Iss) (v : Nat → W32) (g : Group) : Group :=
  if fDu i then
    (match leadLane i with
      | some l => uWrite (fD i) (v l) g
      | none => g)
  else forAll (lanesOf i.ex) (fun l g => gWrite (fD i) l (v l) g) g

/-- Writes a predicate result: with du = 1, one value in every thread of the path (R143). -/
def putPred (i : Iss) (v : Nat → Bool) (g : Group) : Group :=
  if fDu i then
    (match leadLane i with
      | some l => forAll (lanesOf i.path) (fun k g => pWrite (fD i) k (v l) g) g
      | none => g)
  else forAll (lanesOf i.ex) (fun l g => pWrite (fD i) l (v l) g) g

/-- An INT instruction: its form, further illegal encodings, and its effect on its group. -/
def intMeaning (f : Iss → AluForm) (bad : Iss → Bool) (eff : Iss → Group → Group) : Meaning :=
  groupMeaning (fun i _ => aluUses (f i) i)
    (fun i _ => if aluIllegal (f i) i || bad i then some tIllegal else none)
    (fun i _ g => (eff i g, 0))

def noBad (_ : Iss) : Bool := false

/-- A two-source operation. -/
def intAB (f : W32 → W32 → W32) : Meaning :=
  intMeaning (fun _ => formAB) noBad (fun i g => putReg i (fun l => f (aVal i g l) (bVal i g l)) g)

/-- A one-source operation. -/
def intA (f : W32 → W32) : Meaning :=
  intMeaning (fun _ => formA 0) noBad (fun i g => putReg i (fun l => f (aVal i g l)) g)

/-- Issues a class INT operation. -/
def execInt (op : Nat) (m : Meaning) (a : At) (s : State) : Host.Outcome State Fault Refusal := run (issue 0 op m a) s

/-! ### Operations (R143) -/

def execIadd (a : At) (s : State) := execInt 0x00 (intAB (fun x y => x + y)) a s
def execIsub (a : At) (s : State) := execInt 0x01 (intAB (fun x y => x - y)) a s
def execImul (a : At) (s : State) := execInt 0x02 (intAB (fun x y => x * y)) a s
def execImulhiU (a : At) (s : State) :=
  execInt 0x03 (intAB (fun x y => BitVec.ofNat 32 (x.toNat * y.toNat / 2 ^ 32))) a s
def execImulhiS (a : At) (s : State) :=
  execInt 0x04 (intAB (fun x y => BitVec.ofInt 32 (x.toInt * y.toInt / 2 ^ 32))) a s
def execImad (a : At) (s : State) :=
  execInt 0x05 (intMeaning (intForm 0x05) noBad
    (fun i g => putReg i (fun l => aVal i g l * bVal i g l + cVal i g l) g)) a s
def execIminS (a : At) (s : State) := execInt 0x06 (intAB (fun x y => if y.toInt < x.toInt then y else x)) a s
def execIminU (a : At) (s : State) := execInt 0x07 (intAB (fun x y => if y.toNat < x.toNat then y else x)) a s
def execImaxS (a : At) (s : State) := execInt 0x08 (intAB (fun x y => if x.toInt < y.toInt then y else x)) a s
def execImaxU (a : At) (s : State) := execInt 0x09 (intAB (fun x y => if x.toNat < y.toNat then y else x)) a s
def execAnd (a : At) (s : State) := execInt 0x0A (intAB (fun x y => x &&& y)) a s
def execOr (a : At) (s : State) := execInt 0x0B (intAB (fun x y => x ||| y)) a s
def execXor (a : At) (s : State) := execInt 0x0C (intAB (fun x y => x ^^^ y)) a s
def execShl (a : At) (s : State) := execInt 0x0D (intAB (fun x y => x <<< (y.toNat % 32))) a s
def execShr (a : At) (s : State) := execInt 0x0E (intAB (fun x y => x >>> (y.toNat % 32))) a s
def execSar (a : At) (s : State) := execInt 0x0F (intAB (fun x y => x.sshiftRight (y.toNat % 32))) a s

/-- pos and len of a bit-field operation. -/
def bfPos (i : Iss) : Nat := fMod i % 32
def bfLen (i : Iss) : Nat := fMod i / 32
def bfBad (i : Iss) : Bool := 32 < bfLen i

/-- Bits `[pos + len - 1 : pos]` of a word, bits above 31 reading 0. -/
def bfExtract (pos len : Nat) (x : W32) : Nat := bits x.toNat pos len

def execBfeU (a : At) (s : State) :=
  execInt 0x10 (intMeaning (intForm 0x10) bfBad (fun i g =>
    putReg i (fun l => BitVec.ofNat 32 (bfExtract (bfPos i) (bfLen i) (aVal i g l))) g)) a s
def execBfeS (a : At) (s : State) :=
  execInt 0x11 (intMeaning (intForm 0x11) bfBad (fun i g =>
    putReg i (fun l => if bfLen i = 0 then 0
      else BitVec.ofInt 32 (sextInt (bfExtract (bfPos i) (bfLen i) (aVal i g l)) (bfLen i))) g)) a s

/-- BFI on one word: bits beyond 31 are dropped. -/
def bfInsert (pos len : Nat) (x y : W32) : W32 :=
  let m : W32 := BitVec.ofNat 32 ((2 ^ len - 1) * 2 ^ pos)
  (y &&& ~~~m) ||| (BitVec.ofNat 32 (x.toNat * 2 ^ pos) &&& m)

def execBfi (a : At) (s : State) :=
  execInt 0x12 (intMeaning (intForm 0x12) bfBad (fun i g =>
    putReg i (fun l => bfInsert (bfPos i) (bfLen i) (aVal i g l) (bVal i g l)) g)) a s

def popCount (x : W32) : W32 := BitVec.ofNat 32 (bitList x.toNat 32).length
def leadZeros (x : W32) : W32 := if x = 0 then 32 else BitVec.ofNat 32 (31 - Nat.log2 x.toNat)
def revBits (x : W32) : W32 := (bitList x.toNat 32).foldl (fun r k => r ||| BitVec.twoPow 32 (31 - k)) 0

def execPopc (a : At) (s : State) := execInt 0x13 (intA popCount) a s
def execClz (a : At) (s : State) := execInt 0x14 (intA leadZeros) a s
def execBrev (a : At) (s : State) := execInt 0x15 (intA revBits) a s
def execMov (a : At) (s : State) :=
  execInt 0x16 (intMeaning (intForm 0x16) noBad
    (fun i g => putReg i (fun l => bVal i g l) g)) a s
def execSel (a : At) (s : State) :=
  execInt 0x17 (intMeaning (intForm 0x17) noBad (fun i g =>
    putReg i (fun l => if pLane g (fC i) l then aVal i g l else bVal i g l) g)) a s

/-- An integer comparison by its code; `u` for unsigned. -/
def intCmp (code : Nat) (u : Bool) (x y : W32) : Bool :=
  let lt := if u then decide (x.toNat < y.toNat) else decide (x.toInt < y.toInt)
  match code with
  | 0 => x = y | 1 => x ≠ y | 2 => lt | 3 => lt || x = y | 4 => !lt && x ≠ y | _ => !lt

def execIsetp (a : At) (s : State) :=
  execInt 0x18 (intMeaning (intForm 0x18) (fun i => 6 ≤ fMod i % 8)
    (fun i g => putPred i (fun l => intCmp (fMod i % 8) (bit (fMod i) 3) (aVal i g l) (bVal i g l)) g)) a s

def execPset (a : At) (s : State) :=
  execInt 0x19 (intMeaning (intForm 0x19) noBad (fun i g =>
    putPred i (fun l =>
      bit (fMod i) (4 * b2n (pLane g (fA i) l) + 2 * b2n (pLane g (fB i) l) + b2n (pLane g (fC i) l))) g)) a s

/-- A 64-bit operand (R130, R136). -/
def aVal64 (i : Iss) (g : Group) (lane : Nat) : Nat := if fDu i then uPair g (fA i) else gPair g (fA i) lane
def bVal64 (i : Iss) (g : Group) (lane : Nat) : Nat :=
  if fBk i = 0 then gPair g (fB i) lane
  else if fBk i = 1 then uPair g (fB i)
  else intCode 64 (immOf i (fB i) (fBk i))

def uPairWrite (n v : Nat) (g : Group) : Group :=
  uWrite (n + 1) (BitVec.ofNat 32 (v / 2 ^ 32)) (uWrite n (BitVec.ofNat 32 v) g)

def execIadd64 (a : At) (s : State) :=
  execInt 0x1A (intMeaning (intForm 0x1A) noBad (fun i g =>
    let v (l : Nat) := (aVal64 i g l + bVal64 i g l) % 2 ^ 64
    if fDu i then
      (match leadLane i with
        | some l => uPairWrite (fD i) (v l) g
        | none => g)
    else forAll (lanesOf i.ex) (fun l h => gPairWrite (fD i) l (v l) h) g)) a s

/-! ### Cross-lane instructions (R119, R134): a lane whose guard fails counts as outside the path -/

/-- The source lane of SHFL, modulo 2^32. -/
def shflLane (mode lane : Nat) (b : W32) : W32 :=
  let t := BitVec.ofNat 32 lane
  match mode with
  | 0 => BitVec.ofNat 32 (b.toNat % 32)
  | 1 => t - b
  | 2 => t + b
  | _ => t ^^^ BitVec.ofNat 32 (b.toNat % 32)

def execShfl (a : At) (s : State) :=
  execInt 0x1B (intMeaning (intForm 0x1B) noBad (fun i g =>
    putReg i (fun l =>
      let src := (shflLane (fMod i) l (bVal i g l)).toNat
      if 32 ≤ src then aVal i g l
      else if i.ex.getLsbD src then aVal i g src else 0) g)) a s

def execVote (a : At) (s : State) :=
  execInt 0x1C (intMeaning (intForm 0x1C)
    (fun i => fMod i = 3)
    (fun i g =>
      let m := pRead g (fA i) &&& i.ex
      if fMod i = 2 then putReg i (fun _ => m) g
      else putPred i (fun _ => if fMod i = 0 then decide (m = i.ex) else decide (m ≠ 0)) g)) a s

def execReadlane (a : At) (s : State) :=
  execInt 0x1D (intMeaning (intForm 0x1D) noBad (fun i g =>
    match leadLane i with
    | none => g
    | some l =>
      let src := (bVal i g l).toNat % 32
      uWrite (fD i) (if i.ex.getLsbD src then aVal i g src else 0) g)) a s

end Sys2Proof.Machine
end

