-- ==== Sys2Proof/Machine/Fp.lean ====
section
/-!
DEFINITION. Class FP of the kernel instruction set (R144, R145): FP32 arithmetic, comparisons, the correctly
rounded functions, and VDOT.
-/
namespace Sys2Proof.Machine

/-! ### Operands (R136) -/

/-- mod[7:6] take absolute values, mod[10:8] negate: changes of the sign bit only. -/
def fpSign (neg abs : Bool) (x : W32) : W32 :=
  let y := if abs then x &&& 0x7FFFFFFF#32 else x
  if neg then y ^^^ 0x80000000#32 else y

def fpA (i : Iss) (g : Group) (l : Nat) : W32 := fpSign (bit (fMod i) 10) (bit (fMod i) 7) (aVal i g l)
def fpB (i : Iss) (g : Group) (l : Nat) : W32 := fpSign (bit (fMod i) 9) (bit (fMod i) 6) (bVal i g l)
def fpC (i : Iss) (g : Group) (l : Nat) : W32 := fpSign (bit (fMod i) 8) false (cVal i g l)

/-- One FP32 operand after R52. -/
def ftz32 (ftz : Bool) (x : W32) : W32 × Flags :=
  let c := ftzCode ftz .fp32 x.toNat
  (BitVec.ofNat 32 c.1, c.2)

def nan32 : W32 := 0x7FC00000#32
def inf32 (neg : Bool) : W32 := if neg then 0xFF800000#32 else 0x7F800000#32
def zero32 (neg : Bool) : W32 := if neg then 0x80000000#32 else 0

/-! ### Arithmetic on FP32 words, each with its flags (R144) -/

def fp32Add (ftz : Bool) (a b : W32) : W32 × Flags :=
  let x := ftz32 ftz a
  let y := ftz32 ftz b
  let r := f32Add ftz x.1 y.1
  (r.1, x.2 ||| y.2 ||| r.2)

/-- The exact product of two values: NaN with the invalid flag for infinity times zero. -/
def valMul (x y : Val) : Val × Flags :=
  match x, y with
  | .nan, _ => (.nan, 0)
  | _, .nan => (.nan, 0)
  | .inf s, .inf t => (.inf (s != t), 0)
  | .inf s, .fin t n _ => if n = 0 then (.nan, flagInvalid) else (.inf (s != t), 0)
  | .fin s n _, .inf t => if n = 0 then (.nan, flagInvalid) else (.inf (s != t), 0)
  | .fin s n d, .fin t n' d' => (.fin (s != t) (n * n') (d * d'), 0)

/-- The exact sum of two values: NaN with the invalid flag for opposite infinities. -/
def valAdd (x y : Val) : Val × Flags :=
  match x, y with
  | .nan, _ => (.nan, 0)
  | _, .nan => (.nan, 0)
  | .inf s, .inf t => if s = t then (.inf s, 0) else (.nan, flagInvalid)
  | .inf s, .fin .. => (.inf s, 0)
  | .fin .., .inf t => (.inf t, 0)
  | a, b => (finAdd a b, 0)

def fp32Mul (ftz : Bool) (a b : W32) : W32 × Flags :=
  let x := ftz32 ftz a
  let y := ftz32 ftz b
  let p := valMul (f32Val x.1) (f32Val y.1)
  let r := toF32 ftz p.1
  (r.1, x.2 ||| y.2 ||| p.2 ||| r.2)

/-- a × b + c with one rounding. A NaN operand gives the canonical NaN and no flag. -/
def fp32Fma (ftz : Bool) (a b c : W32) : W32 × Flags :=
  let x := ftz32 ftz a
  let y := ftz32 ftz b
  let z := ftz32 ftz c
  let fl := x.2 ||| y.2 ||| z.2
  if f32Val z.1 = .nan then (nan32, fl)
  else
    let p := valMul (f32Val x.1) (f32Val y.1)
    let s := valAdd p.1 (f32Val z.1)
    let r := toF32 ftz s.1
    (r.1, fl ||| p.2 ||| s.2 ||| r.2)

/-- Numeric order of two values neither of which is NaN; zeros are equal. -/
def valLt (x y : Val) : Bool :=
  match x, y with
  | .inf s, .inf t => s && !t
  | .inf s, _ => s
  | _, .inf t => !t
  | .fin s n d, .fin t n' d' => decide (signedNum s (n * d') < signedNum t (n' * d))
  | _, _ => false

/-- FMIN (`mx` false) and FMAX: −0 is below +0, a NaN gives the other operand. DESIGN CHOICE: a flushed operand of FMIN, FMAX
or FSETP (`fp32Cmp`) raises flush as R52 says of every flush, though R144 gives these rows no flag of their own. -/
def fp32MinMax (mx ftz : Bool) (a b : W32) : W32 × Flags :=
  let x := ftz32 ftz a
  let y := ftz32 ftz b
  let fl := x.2 ||| y.2
  let vx := f32Val x.1
  let vy := f32Val y.1
  if vx = .nan then (if vy = .nan then nan32 else y.1, fl)
  else if vy = .nan then (x.1, fl)
  else
    let below := valLt vx vy || (isZeroVal vx && isZeroVal vy && x.1 = 0x80000000#32 && y.1 = 0#32)
    (if below != mx then x.1 else y.1, fl)

/-- FSETP's comparison by its code. -/
def fp32Cmp (code : Nat) (ftz : Bool) (a b : W32) : Bool × Flags :=
  let x := ftz32 ftz a
  let y := ftz32 ftz b
  let vx := f32Val x.1
  let vy := f32Val y.1
  let un := decide (vx = .nan) || decide (vy = .nan)
  let lt := valLt vx vy
  let gt := valLt vy vx
  let r := match code with
    | 0 => !un && !lt && !gt | 1 => un || lt || gt | 2 => !un && lt | 3 => !un && !gt | 4 => !un && gt
    | 5 => !un && !lt | 6 => !un | _ => un
  (r, x.2 ||| y.2)

/-! ### The correctly rounded functions (R144) -/

/-- floor(sqrt(n)) from the highest of `k` bits down. -/
def isqrtGo : Nat → Nat → Nat → Nat
  | 0, _, r => r
  | k + 1, n, r => let t := r + 2 ^ k; isqrtGo k n (if t * t ≤ n then t else r)

/-- A fraction that rounds to FP32 as the square root of n/d does: exact where the root is, else strictly
inside a cell far finer than any FP32 rounding step. -/
def sqrtFrac (n d : Nat) : Nat × Nat :=
  let big := n * 2 ^ 320 / d
  let r := isqrtGo 260 big 0
  if r * r = big && n * 2 ^ 320 % d = 0 then (r, 2 ^ 160) else (2 * r + 1, 2 ^ 161)

/-- The fixed-point scale of the series below. -/
def fixBits : Nat := 224

/-- atanh(n/d) in fixed point: the sum of z^(2k+1)/(2k+1), |z| at most 1/3. `t` is z^(2k+1). -/
def atanhGo : Nat → Nat → Nat → Nat → Nat → Nat → Nat
  | 0, _, _, _, _, s => s
  | k + 1, n, d, t, m, s => atanhGo k n d (t * n / d * n / d) (m + 2) (s + t / m)

def atanhFix (n d : Nat) : Nat := atanhGo 90 n d (n * 2 ^ fixBits / d) 1 0

/-- ln 2 = 2·atanh(1/3), in fixed point. -/
def ln2Fix : Nat := 2 * atanhFix 1 3

/-- exp(x) in fixed point: the sum of x^k/k!. `t` is the current term. -/
def expGo : Nat → Nat → Nat → Nat → Nat → Nat
  | 0, _, _, _, s => s
  | k + 1, x, t, m, s => expGo k x (t * x / 2 ^ fixBits / m) (m + 1) (s + t)

def expFix (x : Nat) : Nat := expGo 70 x (2 ^ fixBits) 1 0

/-- 2^(v) for a signed fraction v that is not an integer and lies between -152 and 128: a fraction within
2^-200 of it, relatively. -/
def exp2Frac (v : Int) (d : Nat) : Val :=
  let ip := v / (d : Int)
  let f := (v % (d : Int)).toNat
  let e := expFix (f * 2 ^ fixBits / d * ln2Fix / 2 ^ fixBits)
  mkFin false (2 * e + 1) (ip - fixBits - 1)

/-- log2(n/d) for a positive fraction that is no power of two. -/
def log2Val (n d : Nat) : Val :=
  let e := log2Frac n d
  let p := pow2Frac (-e)
  let mn := n * p.1
  let md := d * p.2
  let l := 2 * atanhFix (mn - md) (mn + md) * 2 ^ fixBits / ln2Fix
  let t : Int := e * (2 ^ fixBits : Nat) + (l : Nat)
  .fin (t < 0) t.natAbs (2 ^ fixBits)

/-- Is the positive fraction a power of two? -/
def isPow2Frac (n d : Nat) : Bool :=
  let p := pow2Frac (log2Frac n d)
  n * p.2 = d * p.1

/-- A function of one finite or special operand after R52. -/
def fpFunc (ftz : Bool) (f : Val → Val × Flags) (a : W32) : W32 × Flags :=
  let x := ftz32 ftz a
  let v := f32Val x.1
  if v = .nan then (nan32, x.2)
  else
    let y := f v
    let r := toF32 ftz y.1
    (r.1, x.2 ||| y.2 ||| r.2)

def rcpVal : Val → Val × Flags
  | .fin s n d => if n = 0 then (.inf s, 0) else (.fin s d n, 0)
  | .inf s => (.fin s 0 1, 0)
  | .nan => (.nan, 0)

def rsqVal : Val → Val × Flags
  | .fin s n d =>
    if n = 0 then (.inf s, 0)
    else if s then (.nan, flagInvalid)
    else let r := sqrtFrac d n; (.fin false r.1 r.2, 0)
  | .inf s => if s then (.nan, flagInvalid) else (.fin false 0 1, 0)
  | .nan => (.nan, 0)

def sqrtVal : Val → Val × Flags
  | .fin s n d =>
    if n = 0 then (.fin s 0 1, 0)
    else if s then (.nan, flagInvalid)
    else let r := sqrtFrac n d; (.fin false r.1 r.2, 0)
  | .inf s => if s then (.nan, flagInvalid) else (.inf false, 0)
  | .nan => (.nan, 0)

/-- Above 128 the result overflows; below -152 it lies under half the least subnormal. -/
def ex2Val : Val → Val × Flags
  | .fin s n d =>
    let v := signedNum s n
    if 128 * (d : Int) ≤ v then (mkFin false 1 129, 0)
    else if v ≤ -152 * (d : Int) then (mkFin false 1 (-153), 0)
    else if v % (d : Int) = 0 then (mkFin false 1 (v / (d : Int)), 0)
    else (exp2Frac v d, 0)
  | .inf s => if s then (.fin false 0 1, 0) else (.inf false, 0)
  | .nan => (.nan, 0)

def lg2Val : Val → Val × Flags
  | .fin s n d =>
    if n = 0 then (.inf true, 0)
    else if s then (.nan, flagInvalid)
    else if isPow2Frac n d then
      let e := log2Frac n d
      (.fin (e < 0) e.natAbs 1, 0)
    else (log2Val n d, 0)
  | .inf s => if s then (.nan, flagInvalid) else (.inf false, 0)
  | .nan => (.nan, 0)

/-! ### Operations -/

/-- Writes g(d) in every lane whose guard holds and collects the flags. -/
def putRegFl (i : Iss) (v : Nat → W32 × Flags) (g : Group) : Group × Flags :=
  forAll (lanesOf i.ex) (fun l (r : Group × Flags) => (gWrite (fD i) l (v l).1 r.1, r.2 ||| (v l).2)) (g, 0)

def putPredFl (i : Iss) (v : Nat → Bool × Flags) (g : Group) : Group × Flags :=
  forAll (lanesOf i.ex) (fun l (r : Group × Flags) => (pWrite (fD i) l (v l).1 r.1, r.2 ||| (v l).2)) (g, 0)

def fpMeaning (f : AluForm) (eff : Iss → Bool → Group → Group × Flags) : Meaning :=
  groupMeaning (fun i _ => aluUses f i) (fun i _ => if aluIllegal f i then some tIllegal else none)
    (fun i l g => eff i l.ftz g)

def execFp (op : Nat) (m : Meaning) (a : At) (s : State) : Host.Outcome State Fault Refusal := run (issue 1 op m a) s

def fpAB (f : Bool → W32 → W32 → W32 × Flags) : Meaning :=
  fpMeaning (fpFormOf 0) (fun i ftz g => putRegFl i (fun l => f ftz (fpA i g l) (fpB i g l)) g)

def fpA1 (f : Val → Val × Flags) : Meaning :=
  fpMeaning (fpFormOf 6) (fun i ftz g => putRegFl i (fun l => fpFunc ftz f (fpA i g l)) g)

def execFadd (a : At) (s : State) := execFp 0x00 (fpAB fp32Add) a s
def execFmul (a : At) (s : State) := execFp 0x01 (fpAB fp32Mul) a s
def execFfma (a : At) (s : State) :=
  execFp 0x02 (fpMeaning (fpFormOf 2) (fun i ftz g =>
    putRegFl i (fun l => fp32Fma ftz (fpA i g l) (fpB i g l) (fpC i g l)) g)) a s
def execFmin (a : At) (s : State) := execFp 0x03 (fpAB (fp32MinMax false)) a s
def execFmax (a : At) (s : State) := execFp 0x04 (fpAB (fp32MinMax true)) a s
def execFsetp (a : At) (s : State) :=
  execFp 0x05 (fpMeaning (fpFormOf 5) (fun i ftz g =>
    putPredFl i (fun l => fp32Cmp (fMod i % 8) ftz (fpA i g l) (fpB i g l)) g)) a s
def execRcp (a : At) (s : State) := execFp 0x06 (fpA1 rcpVal) a s
def execRsq (a : At) (s : State) := execFp 0x07 (fpA1 rsqVal) a s
def execSqrt (a : At) (s : State) := execFp 0x08 (fpA1 sqrtVal) a s
def execEx2 (a : At) (s : State) := execFp 0x09 (fpA1 ex2Val) a s
def execLg2 (a : At) (s : State) := execFp 0x0A (fpA1 lg2Val) a s

/-! ### VDOT (R145) -/

/-- The element formats a block scale goes with (R46). -/
def bsAllowed (f : Nat) : Bool := 3 ≤ f && f ≤ 8

def vdotIllegal (i : Iss) : Bool :=
  let a := vdotA i
  let b := vdotB i
  fLong i || fDu i || bit i.w1 0 || 11 ≤ a.fmt || 11 ≤ b.fmt ||
  (!a.bs && (a.sf ≠ .e8m0 || a.blk32)) || (!b.bs && (b.sf ≠ .e8m0 || b.blk32)) ||
  (!a.bs && !b.bs && fC i ≠ 0)

def vdotBadFormat (i : Iss) : Bool :=
  let a := vdotA i
  let b := vdotB i
  9 ≤ a.fmt || 9 ≤ b.fmt || (a.bs && !(bsAllowed a.fmt)) || (b.bs && !(bsAllowed b.fmt))

/-- The bytes of an operand held in registers. -/
def regBytes (g : Group) (lane n count : Nat) : List Byte :=
  (List.range count).flatMap (fun j => natLe (gRead g (n + j) lane).toNat 4)

/-- Both operands INT8 without block scales take the integer path (R68). -/
def intPath (a b : VdotSide) : Bool := a.fmt = 8 && b.fmt = 8 && !a.bs && !b.bs

/-- The operand of element k, with its scale byte from g(c) at byte `base` or the next. -/
def vdotElem (ftz : Bool) (s : VdotSide) (bs : List Byte) (scales : W32) (base k : Nat) : DotOperand × Flags :=
  match fmtOfCode s.fmt with
  | none => (⟨.nan, none⟩, 0)
  | some f =>
    let r := readElem ftz f (packedElem (elemBits f) bs k)
    let byte := base + (if s.blk32 || k < 16 then 0 else 1)
    (⟨r.1, if s.bs then scaleVal s.sf (bits scales.toNat (8 * byte) 8) else some (1, 1)⟩, r.2)

/-- The dot product of one thread. -/
def vdotLane (i : Iss) (ftz fromZero : Bool) (g : Group) (l : Nat) : W32 × Flags :=
  let a := vdotA i
  let b := vdotB i
  let ab := regBytes g l (fA i) (vdotRegs a.fmt)
  let bb := regBytes g l (fB i) (vdotRegs b.fmt)
  let sc := gRead g (fC i) l
  let acc := if fromZero then 0 else gRead g (fD i) l
  if intPath a b then
    dotInt acc ((List.range 32).map (fun k => (sextInt (packedElem 8 ab k) 8, sextInt (packedElem 8 bb k) 8)))
  else
    let xs := (List.range 32).map (fun k => (vdotElem ftz a ab sc 0 k, vdotElem ftz b bb sc 2 k))
    let r := dotFloat ftz acc (xs.map (fun p => (p.1.1, p.2.1)))
    (r.1, xs.foldl (fun fl p => fl ||| p.1.2 ||| p.2.2) r.2)

def vdotMeaning (fromZero : Bool) : Meaning :=
  groupMeaning (fun i _ => vdotUses i)
    (fun i _ => if vdotIllegal i then some tIllegal else if vdotBadFormat i then some tFormat else none)
    (fun i l g => putRegFl i (fun k => vdotLane i l.ftz fromZero g k) g)

def execVdot (a : At) (s : State) := execFp 0x0B (vdotMeaning false) a s
def execVdotZ (a : At) (s : State) := execFp 0x0C (vdotMeaning true) a s

end Sys2Proof.Machine
end

