-- ==== Sys2Proof/Machine/CoreMem.lean ====
section
/-!
DEFINITION. A core's accesses to memory: SLM bounds and passes (R164 to R170), the L1 and the constant cache
(R172 to R175), legacy elements (R65), atomics (R151), and a line request at its home (R237 to R241).
-/
namespace Sys2Proof.Machine

/-! ### Occupancy and the SLM bound (R110, R164) -/

def rAlloc (regs : Nat) : Nat := 8 * ((regs + 7) / 8)

/-- Groups per core (R110). -/
def groupsPerCore (regs slmKib : Nat) : Nat :=
  min (min 64 (4 * min 16 (1024 / max 1 (rAlloc regs)))) (if slmKib = 0 then 64 else 512 / slmKib)

/-- The launch's SLM bound on a core, in bytes. -/
def slmBound (l : CoreLaunch) : Nat := min 524288 (groupsPerCore l.regs l.slmKib * l.slmKib * 1024)

/-- An SLM address outside the bound, or with a bit of `[31:19]` set. -/
def slmOut (l : CoreLaunch) (addr n : Nat) : Bool := 524288 ≤ addr || slmBound l < addr + n

/-! ### Sizes (R138) -/

def sizeBytes : Nat → Nat
  | 0 => 1 | 1 => 1 | 2 => 2 | 3 => 2 | 4 => 4 | 5 => 8 | _ => 16

/-- The value a load of a size code writes: sign-extended for S8 and S16. -/
def loadValue (size v : Nat) : Nat :=
  if size = 1 then intCode 32 (sextInt v 8) else if size = 3 then intCode 32 (sextInt v 16) else v

/-- Writes a loaded value to consecutive g registers of a lane. -/
def putG (dst n lane v : Nat) (g : Group) : Group :=
  iter n (fun i g => gWrite (dst + i) lane (BitVec.ofNat 32 (v / 2 ^ (32 * i))) g) g

/-- Writes a loaded value to consecutive u registers. -/
def putU (dst n v : Nat) (g : Group) : Group :=
  iter n (fun i g => uWrite (dst + i) (BitVec.ofNat 32 (v / 2 ^ (32 * i))) g) g

/-- The value of consecutive g registers of a lane. -/
def getG (g : Group) (src n lane : Nat) : Nat :=
  (List.range n).foldl (fun v i => v + (gRead g (src + i) lane).toNat * 2 ^ (32 * i)) 0

/-! ### Accesses in flight -/

/-- The number of the group in a slot. -/
def slotNumber (c : Core) (slot : Nat) : Nat := match mget c.groups slot with
  | some g => g.number
  | none => 0

/-- The group that issued an access, if it is still in its slot. -/
def accGroup? (c : Core) (a : Access) : Option Group := match mget c.groups a.slot with
  | some g => if g.number = a.number then some g else none
  | none => none

/-- Changes the group that issued an access, if it is still in its slot. -/
def onAccGroup (a : Access) (f : Group → Group) (c : Core) : Core := match accGroup? c a with
  | some g => { c with groups := mset c.groups a.slot (f g) }
  | none => c

/-- An access as issued. -/
def newAccess (c : Core) (i : Iss) (kind : AccKind) (const : Bool) (dst size : Nat) (reqs : List LaneReq) : Access :=
  { id := c.nextId, slot := i.slot, number := slotNumber c i.slot, mask := i.path, pc := i.pc, kind := kind, const := const, dst := dst,
    size := size, reqs := reqs, phase := .unchecked, pas := [], legacy := [], todo := [], cacheable := [],
    got := [], data := [], poison := false, fl := 0, sent := 0, asked := 0, hits := [] }

/-- Queues an access: at the SLM's thread side, or on its way to global memory. -/
def pushAccess (slm : Bool) (i : Iss) (kind : AccKind) (const : Bool) (dst size : Nat) (reqs : List LaneReq)
    (w : World) : World :=
  if reqs.isEmpty then w
  else updCore i.core (fun c =>
    let a := newAccess c i kind const dst size reqs
    if slm then { c with slmq := c.slmq ++ [a], nextId := c.nextId + 1 }
    else { c with accs := c.accs ++ [a], nextId := c.nextId + 1 }) w

/-- Is a global store or atomic of a group, by its slot and number, outstanding, issued before the access number given (R157, R179)? -/
def writesOut (c : Core) (slot number before : Nat) : Bool :=
  c.accs.any (fun a => a.slot = slot && a.number = number && a.id < before && (match a.kind with
    | .ld => false | .ldUniform => false | _ => true))

/-- Is an SLM store or atomic of a group outstanding (R155, R179)? -/
def slmWritesOut (c : Core) (slot number before : Nat) : Bool :=
  c.slmq.any (fun a => a.slot = slot && a.number = number && a.id < before && (match a.kind with
    | .ld => false | .ldUniform => false | _ => true))

/-- Is a global load of a group outstanding (R158)? -/
def loadsOut (c : Core) (slot number : Nat) : Bool :=
  c.accs.any (fun a => a.slot = slot && a.number = number && (match a.kind with
    | .ld => true | .ldUniform => true | _ => false))

/-- Line requests of a core that have not returned: its accesses' and its mover's (R244). -/
def coreLines (c : Core) : Nat := c.accs.foldl (fun n a => n + a.asked) c.tmLines

/-- Those of a compute die. -/
def dieLines (w : World) (n : Nat) : Nat := w.cores.foldl (fun t p => if p.1 / 64 = n / 64 then t + coreLines p.2 else t) 0

/-- The trackers of R244: 512 line requests per core and 16,384 per compute die are in use. -/
def trackerFull (w : World) (n : Nat) : Bool := 512 ≤ coreLines (coreOf w n) || 16384 ≤ dieLines w n

/-- More are in use than there are. -/
def trackerOver (w : World) (n : Nat) : Bool := 512 < coreLines (coreOf w n) || 16384 < dieLines w n

/-! ### L1 and constant cache (R172 to R175) -/

/-- Drops a line from a core's L1; an outstanding fill of it is not installed. -/
def l1Drop (line : Nat) (c : Core) : Core :=
  { c with l1 := mdel c.l1 line,
           accs := c.accs.map (fun a => if a.const then a else { a with cacheable := a.cacheable.filter (· ≠ line) }) }

/-- Installs a filled line in the L1 (128 sets of 8 ways; which way it takes affects only timing). -/
def l1Install (line : Nat) (bs : List Byte) (c : Core) : Core :=
  let inSet := (c.l1.filter (fun p => p.1 % 128 = line % 128)).map (·.1)
  let l1 := if 8 ≤ inSet.length && !(inSet.contains line) then mdel c.l1 (inSet.headD 0) else c.l1
  { c with l1 := mset l1 line bs }

/-- Installs a filled line in the constant cache of 256 lines. -/
def ccInstall (line : Nat) (bs : List Byte) (c : Core) : Core :=
  let cc := if 256 ≤ c.ccache.length && (mget c.ccache line).isNone then c.ccache.drop 1 else c.ccache
  { c with ccache := mset cc line bs }

/-- Bytes of an access range that is present in lines held. -/
def fromLine (bs : List Byte) (pa n : Nat) : Nat := leNat ((bs.drop (pa % 128)).take n)

/-- Replaces bytes of a line held. -/
def patchLine (bs : List Byte) (pa v n : Nat) : List Byte :=
  bs.take (pa % 128) ++ natLe v n ++ bs.drop (pa % 128 + n)

/-! ### Legacy elements (R64, R65) -/

def legacyFmt : Nat → ElemFmt
  | 1 => .e4m3 | 2 => .e5m2 | 3 => .fp16 | 4 => .bf16 | _ => .int8

def legacyBytes (code : Nat) : Nat := elemBits (legacyFmt code) / 8

/-- The storage address of a logical element of a legacy page. -/
def legacyPa (l : Leaf) (va : Nat) : Nat := pteFrame l.pte + va % 65536 / 4 * legacyBytes (pteLegacy l.pte)

def legacyLoad (ftz : Bool) (code v : Nat) : Nat × Flags :=
  let r := convFloat ftz .fp32 .rne false 0 (decodeElem (legacyFmt code) v)
  (r.1, r.2 ||| flagLegacy)

def legacyStore (ftz : Bool) (code v : Nat) : Nat × Flags :=
  let x := readElem ftz .fp32 v
  let r := convElem ftz (legacyFmt code) .rne true 0 false x.1
  (r.1, x.2 ||| r.2 ||| flagLegacy)

/-! ### Atomics (R148, R151) -/

/-- Bytes of an atomic type: 0 U32, 1 S32, 2 F32, 3 U64. -/
def atomBytes (ty : Nat) : Nat := if ty = 3 then 8 else 4

def f32AtomAdd (ftz : Bool) (x y : Nat) : Nat × Flags :=
  let r := fp32Add ftz (BitVec.ofNat 32 x) (BitVec.ofNat 32 y)
  (r.1.toNat, r.2)

/-- The new value of an atomic, with the flags an F32 one raises. -/
def atomNew (op ty : Nat) (ftz : Bool) (old v cmp : Nat) : Nat × Flags :=
  let n := 8 * atomBytes ty
  let sx (x : Nat) : Int := sextInt x 32
  match op with
  | 0 => if ty = 2 then f32AtomAdd ftz old v else ((old + v) % 2 ^ n, 0)
  | 1 =>
    if ty = 2 then
      let r := fp32MinMax false ftz (BitVec.ofNat 32 old) (BitVec.ofNat 32 v)
      (r.1.toNat, r.2)
    else if ty = 1 then (if sx v < sx old then v else old, 0)
    else (min old v, 0)
  | 2 =>
    if ty = 2 then
      let r := fp32MinMax true ftz (BitVec.ofNat 32 old) (BitVec.ofNat 32 v)
      (r.1.toNat, r.2)
    else if ty = 1 then (if sx old < sx v then v else old, 0)
    else (max old v, 0)
  | 3 => (old &&& v, 0)
  | 4 => (old ||| v, 0)
  | 5 => (old ^^^ v, 0)
  | 6 => (v, 0)
  | _ => (if old = cmp then v else old, 0)

/-- The legal pairings of operation and type (R148). -/
def atomLegal (op ty : Nat) : Bool := ty ≤ 3 && (op ≤ 2 || ty = 0 || ty = 3)

/-- Applies the lanes of an atomic to bytes in ascending lane order: the bytes after, each lane's old value,
and the flags. -/
def atomLanes (op ty : Nat) (ftz : Bool) (reqs : List (LaneReq × Nat)) (m : Map Byte) :
    Map Byte × Map Nat × Flags :=
  reqs.foldl (fun (acc : Map Byte × Map Nat × Flags) r =>
    let n := atomBytes ty
    let old := bytesAt acc.1 r.2 n
    let nw := atomNew op ty ftz old r.1.data r.1.cmp
    (bytesSet acc.1 r.2 nw.1 n, mset acc.2.1 r.1.lane old, acc.2.2 ||| nw.2)) (m, [], 0)

/-! ### SLM accesses (R168 to R170) -/

/-- Words a lane's access touches. -/
def wordsOf (addr n : Nat) : List Nat := (List.range ((addr + n - 1) / 4 + 1 - addr / 4)).map (· + addr / 4)

/-- Bytes per lane of an access. -/
def accBytes (a : Access) : Nat := match a.kind with
  | .atom _ ty => atomBytes ty
  | _ => sizeBytes a.size

/-- The pass count of an SLM instruction (R169). -/
def slmPasses (a : Access) : Nat :=
  let ws := (a.reqs.flatMap (fun r => wordsOf r.addr (accBytes a))).foldl sIns []
  max 1 ((List.range 64).foldl (fun m b => max m (ws.filter (fun x => x % 64 = b)).length) 0)

/-- Is a word an access reads marked poisoned (R470, R471)? -/
def slmPoisonRead (c : Core) (a : Access) : Bool :=
  (match a.kind with | .st => false | _ => true) &&
    a.reqs.any (fun r => (wordsOf r.addr (accBytes a)).any (fun x => c.slmPoison.contains x))

/-- A full write of a word clears its poison mark. -/
def slmClearMarks (addr n : Nat) (c : Core) : Core :=
  { c with slmPoison := c.slmPoison.filter (fun x => !(addr ≤ 4 * x && 4 * x + 4 ≤ addr + n)) }

/-- Performs an SLM access on a core. -/
def slmPerform (a : Access) (c : Core) : Core :=
  let ftz := match c.launch with | some l => l.ftz | none => false
  match a.kind with
  | .st => a.reqs.foldl (fun c r =>
      slmClearMarks r.addr (sizeBytes a.size) { c with slm := bytesSet c.slm r.addr r.data (sizeBytes a.size) }) c
  | .atom op ty =>
    let r := atomLanes op ty ftz (a.reqs.map (fun x => (x, x.addr))) c.slm
    let put (g : Group) : Group :=
      if a.dst = 255 then g else forAll r.2.1 (fun p g => putG a.dst (if ty = 3 then 2 else 1) p.1 p.2 g) g
    onAccGroup a put { c with slm := r.1, flags := c.flags ||| r.2.2 }
  | _ =>
    onAccGroup a (fun g => a.reqs.foldl (fun g r =>
      putG a.dst (sizeRegs a.size) r.lane (loadValue a.size (bytesAt c.slm r.addr (sizeBytes a.size))) g) g) c

/-! ### Line requests at the home (R234 to R241) -/

/-- Where a line request goes: the stack's slice, or a host-tier channel. -/
def homeOf (w : World) (line : Nat) : Nat :=
  let pa := 128 * line
  if inHbm pa then stackOf w pa else if inHost pa then 12 + channelOf pa else 28

/-- Is a home still invalidating after reset (R240, R246)? -/
def homeBusy (w : World) (line : Nat) : Bool :=
  let pa := 128 * line
  if inHbm pa then bit w.mem.invBusy (stackOf w pa) else if inHost pa then w.mem.sysBusy else false

/-- The class of a core's request (R235). -/
def accClass (w : World) (a : Access) : Nat := match a.kind with
  | .ld => classOf w byLoad
  | .ldUniform => classOf w byLoad
  | _ => classOf w byStore

/-- A prefetch of one line (R239, R241): not for a line present or being filled; it never evicts a dirty line, nor one
that a hart's copy would make dirty (R267) or that a hart has reserved (R279). -/
def prefetchLine (line : Nat) (w : World) : World :=
  if (mget w.mem.lines line).isSome || w.mem.fills.any (·.line = line) then w
  else
    let ls := setLines w line
    let clean (x : Nat) : Bool :=
      !(mgetD w.mem.lines x false) && !(lineReserved w x) && (ownerOf w (2 * x)).isNone && (ownerOf w (2 * x + 1)).isNone
    if ls.length + (setFills w line).length < 16 then addFill line none 4 false (bump w rMEM_PF_ISSUED 1)
    else match ls.find? clean with
      | some v => addFill line none 4 false (bump (makeRoom line v true w) rMEM_PF_ISSUED 1)
      | none => bump w rMEM_PF_DROP 1

/-- The prefetches a trained detector issues from a line, within the 4 KiB granule. -/
def issuePrefetch (line : Nat) (stride : Int) (w : World) : World :=
  if fld w rMEM_PF_CTL 0 1 = 0 then w
  else iter (fld w rMEM_PF_CTL 1 4) (fun i w =>
    let t := (line : Int) + stride * ((i : Int) + 1)
    if 0 ≤ t && t.toNat / 32 = line / 32 then prefetchLine t.toNat w else w) w

/-- Stride training on a stream's request (R241). The most recently used detector stands first. -/
def trainStream (unit hint line : Nat) (w : World) : World :=
  if !(inHbm (128 * line)) then w
  else
    let s := stackOf w (128 * line)
    let mine (d : Detector) : Bool := d.slice = s && d.unit = unit && d.hint = hint
    match w.mem.detectors.find? mine with
    | none =>
      let d : Detector := ⟨s, unit, hint, line, 0, false⟩
      let others := w.mem.detectors.filter (·.slice ≠ s)
      let own := (w.mem.detectors.filter (·.slice = s)).take 1023
      { w with mem := { w.mem with detectors := d :: (own ++ others) } }
    | some d =>
      let rest := w.mem.detectors.filter (fun x => !(mine x))
      let st : Int := (line : Int) - d.last
      let train := st = d.stride && -31 ≤ st && st ≤ 31 && line ≠ 0 && d.last ≠ 0 && (d.last : Int) ≠ d.stride
      let w := { w with mem := { w.mem with detectors := { d with last := line, stride := st, trained := train } :: rest } }
      if train then issuePrefetch line st w else w

/-- Reads of a virtual range by an engine that has a stream: its detectors train on each line. -/
def streamRead (kind unit hint ctx va n : Nat) (w : World) : List Byte × World :=
  vaDevRead kind ctx va n (forAll (linesOf va n) (fun a w => match vaRead w ctx (max va a) with
    | some pa => trainStream unit hint (pa / 128) w
    | none => w) w)

/-- The lanes of an access whose bytes lie in a line, with their physical addresses. -/
def laneOf (a : Access) (line : Nat) : List (LaneReq × Nat) :=
  a.reqs.filterMap (fun r => match mget a.pas r.lane with
    | some pa => if pa / 128 = line then some (r, pa) else none
    | none => none)

/-- Bytes and value one lane stores: a legacy page holds the converted element. -/
def storeBytes (ftz : Bool) (a : Access) (r : LaneReq) : Nat × Nat × Flags :=
  match mget a.legacy r.lane with
  | some code => let v := legacyStore ftz code r.data; (legacyBytes code, v.1, v.2)
  | none => (sizeBytes a.size, r.data % 2 ^ (8 * sizeBytes a.size), 0)

/-- The bytes a store writes in a line: where lanes overlap the highest lane's stay (R170, R173). -/
def storeOverlay (ftz : Bool) (a : Access) (line : Nat) : Map Byte × Flags :=
  (laneOf a line).foldl (fun (acc : Map Byte × Flags) p =>
    let s := storeBytes ftz a p.1
    ((natLe s.2.1 s.1).zipIdx.foldl (fun m b => mset m (p.2 + b.2) b.1) acc.1, acc.2 ||| s.2.2)) ([], 0)

/-- Recalls the hart copies of the halves of a line that a device request reaches (R269), behind the writes held there. -/
def recallHalves (write : Bool) (halves : List Nat) (w : World) : World :=
  forAll halves (fun g w => (if write then recallWrite else recallRead) g (awaitLater (64 * g) 64 w)) w

/-- The halves of a line that hold one of some byte addresses. -/
def halvesOf (line : Nat) (as : List Nat) : List Nat := [2 * line, 2 * line + 1].filter (fun g => as.any (fun a => a / 64 = g))

/-- A line written whole is no longer poisoned (R470). -/
def clearWhole (m : Map Byte) (line : Nat) (w : World) : World :=
  if (List.range 128).all (fun i => (mget m (128 * line + i)).isSome) then
    { w with mem := { w.mem with poison := w.mem.poison.filter (· ≠ line) } }
  else w

/-- Serves a line request of a core's access at the home, in arrival order: recalls, then the read, the masked
write or the atomics; the access as it leaves. -/
def serveLine (ftz : Bool) (a : Access) (line : Nat) (w : World) : Access × World :=
  let pa := 128 * line
  match a.kind with
  | .st =>
    let o := storeOverlay ftz a line
    let w := if isMain pa then countHome pa o.1.length true (recallHalves true (halvesOf line (o.1.map (·.1))) w) else w
    let w := if inPcie pa then
        o.1.foldl (fun w p => { w with mem := { w.mem with host := byteSet w.mem.host (p.1 - 0x3000000000000) p.2 } }) w
      else o.1.foldl (fun w p => { w with mem := { w.mem with bytes := byteSet w.mem.bytes p.1 p.2 } }) w
    ({ a with fl := a.fl ||| o.2 }, clearWhole o.1 line w)
  | .atom op ty =>
    let w := recallHalves true (halvesOf line ((laneOf a line).map (·.2))) w
    let bad := (laneOf a line).any (fun p => poisoned w p.2 (atomBytes ty))
    let r := atomLanes op ty ftz (laneOf a line) w.mem.bytes
    let moved := atomBytes ty * (laneOf a line).length
    let w := countHome pa moved true (countHome pa moved false w)
    ({ a with got := r.2.1.foldl (fun m p => mset m p.1 p.2) a.got, fl := a.fl ||| r.2.2, poison := a.poison || bad },
      { w with mem := { w.mem with bytes := r.1 } })
  | _ =>
    let w := if isMain pa then countHome pa 128 false (recallHalves false [2 * line, 2 * line + 1] w) else w
    let bad := (laneOf a line).any (fun p => poisoned w p.2 (accBytes a))
    ({ a with data := mset a.data line (peek w pa 128), poison := a.poison || bad }, w)

end Sys2Proof.Machine
end

