-- ==== Sys2Proof/Machine/KernelCtrl.lean ====
section
/-!
DEFINITION. Classes SYNC, CTRL and SPEC of the kernel instruction set but WATCH (R140, R149, R155 to R159), the
wake of waiting threads, and the steps of a stopping core and a gated quarter.
-/
namespace Sys2Proof.Machine

/-! ### The fixed layouts (R140) -/

/-- A bit outside the listed fields is 1. -/
def fixedBad (mask : Nat) (i : Iss) : Bool := bits i.w1 0 48 &&& (2 ^ 48 - 1 - mask) ≠ 0

/-- A field's mask. -/
def fm (lo n : Nat) : Nat := (2 ^ n - 1) * 2 ^ lo

/-- The operand of SEM.SIG and SEM.WAIT: u(b), or imm8 zero-extended (R381). -/
def semOperand (i : Iss) (g : Group) : W32 := if yKind i = 1 then uRead g (fB i) else BitVec.ofNat 32 (fB i)

/-- Is some thread of a quarter active? -/
def quarterActive (c : Core) (q : Nat) : Bool :=
  c.groups.any (fun p => p.1 / 16 = q && p.2.threads.any (fun t => t.st = .active))

/-- A gated quarter with an active thread ungates (R383). -/
def ungate (c : Core) : Core := { c with gated := c.gated.filter (fun q => !(quarterActive c q)) }

/-! ### Semaphores (R155) -/

/-- The access number before which SEM.SIG and FENCE.PUB wait for their group's writes: the one at their start, which the
path's book keeps while they wait. -/
def fenceStart (i : Iss) (w : World) : Nat :=
  ((bookOf (groupOf w i.core i.slot) i.pc i.path).fence).getD (coreOf w i.core).nextId

/-- Keeps that number while the instruction waits. -/
def fenceNote (i : Iss) (w : World) : World := updGroup i.core i.slot (fun g =>
  { g with paths := mset g.paths i.pc { bookOf g i.pc i.path with fence := some (fenceStart i w) } }) w

def semMask : Nat := fm 35 5 + fm 24 8 + fm 22 2

def semBad (i : Iss) : Bool := fixedBad semMask i || 16 ≤ ySem i || (yKind i ≠ 1 && yKind i ≠ 2)

def execSemSig (a : At) (s : State) :=
  run (issue 5 0
    { uses := fun i _ => semUses i
      trap := fun i _ => if semBad i then some tIllegal else none
      waits := fun i w => i.ex ≠ 0 &&
        slmWritesOut (coreOf w i.core) i.slot (slotNumber (coreOf w i.core) i.slot) (fenceStart i w)
      eff := fun i w =>
        if i.ex = 0 then w else updCore i.core (semAdd (ySem i) (semOperand i (groupOf w i.core i.slot))) w
      note := fenceNote } a) s

def execSemWait (a : At) (s : State) :=
  run (issue 5 1
    { uses := fun i _ => semUses i
      trap := fun i _ => if semBad i then some tIllegal else none
      waits := fun _ _ => false
      eff := fun i w =>
        let target := semOperand i (groupOf w i.core i.slot)
        if semReached (mgetD (coreOf w i.core).sems (ySem i) 0) target then w
        else updGroup i.core i.slot (setSts i.ex (.waitSem (ySem i) target)) w } a) s

def execSemRd (a : At) (s : State) :=
  run (issue 5 2
    { uses := fun i _ => ⟨[], [(fD i, 1, 1)]⟩
      trap := fun i _ => if fixedBad (fm 40 8 + fm 35 5) i || 16 ≤ ySem i then some tIllegal else none
      waits := fun _ _ => false
      eff := fun i w =>
        if i.ex = 0 then w
        else updGroup i.core i.slot (uWrite (fD i) (mgetD (coreOf w i.core).sems (ySem i) 0)) w } a) s

/-! ### Control transfers (R156) -/

/-- The signed 32-bit offset, in units of 8 bytes. -/
def off32 (i : Iss) : Int := sextInt (bits i.w1 8 32) 32

def branchTarget (i : Iss) : Nat := intCode 64 ((i.pc : Int) + 8 * off32 i)

def ctrlTrap (mask : Nat) (i : Iss) : Option Nat := if fixedBad mask i then some tIllegal else none

/-- A control instruction that changes only its group. -/
def ctrlMeaning (uses : Iss → Uses) (trap : Iss → Group → Option Nat) (eff : Iss → Group → Group) : Meaning :=
  groupMeaning (fun i _ => uses i) trap (fun i _ g => (eff i g, 0))

def execBra (a : At) (s : State) :=
  run (issue 6 0 (ctrlMeaning noUses (fun i _ => ctrlTrap (fm 8 32) i)
    (fun i g => setPcs i.ex (branchTarget i) g)) a) s

/-- Sets each lane's program counter from its register pair. -/
def jumpPairs (i : Iss) (g : Group) : Group :=
  forAll (lanesOf i.ex) (fun l h => setPcs (BitVec.twoPow 32 l) (gPair g (yR i) l) h) g

def execBrx (a : At) (s : State) :=
  run (issue 6 1 (ctrlMeaning (fun i => ⟨[(yR i, 2, 2)], []⟩)
    (fun i g => firstTrap (fixedBad (fm 40 8) i) false false
      ((lanesOf i.ex).any (fun l => gPair g (yR i) l % 8 ≠ 0)) false)
    jumpPairs) a) s

def execCall (a : At) (s : State) :=
  run (issue 6 2 (ctrlMeaning (fun i => ⟨[(yR i, 2, 2)], []⟩) (fun i _ => ctrlTrap (fm 8 40) i)
    (fun i g => setPcs i.ex (branchTarget i)
      (forAll (lanesOf i.ex) (fun l h => gPairWrite (yR i) l (i.pc + 8) h) g))) a) s

/-! ### GJOIN and EXIT (R120, R122) -/

/-- May the GJOIN of a mask at a program counter release: every thread of the mask has exited or waits there? -/
def joinMet (g : Group) (mask : W32) (pc : Nat) : Bool :=
  (lanesOf mask).all (fun l => match g.threads[l]? with
    | some t => t.st = .exited || (t.pc = pc && (match t.st with | .waitJoin _ => true | _ => false))
    | none => true)

/-- Releases the threads of a mask that wait in GJOIN: they go on at the next instruction. -/
def joinRelease (mask : W32) (pc : Nat) (g : Group) : Group :=
  { g with threads := g.threads.zipIdx.map (fun t =>
      match t.1.st with
      | .waitJoin _ => if mask.getLsbD t.2 then { t.1 with st := .active, pc := pc + 8 } else t.1
      | _ => t.1) }

/-- Releases every GJOIN whose mask is met. -/
def joinAll (g : Group) : Group :=
  iter 32 (fun l g => match g.threads[l]? with
    | some t => (match t.st with
      | .waitJoin m => if joinMet g m t.pc then joinRelease m t.pc g else g
      | _ => g)
    | none => g) g

def execGjoin (a : At) (s : State) :=
  run (issue 6 4 (ctrlMeaning (fun i => ⟨[], [(yR i, 1, 1)]⟩)
    (fun i g => firstTrap (fixedBad (fm 40 8) i) false (i.ex &&& ~~~(uRead g (yR i)) ≠ 0) false false)
    (fun i g => joinAll (setSts i.ex (.waitJoin (uRead g (yR i))) (setPcs i.ex i.pc g)))) a) s

/-- A group whose threads have all exited frees its slot (R122). -/
def freeIfDone (slot : Nat) (c : Core) : Core :=
  match mget c.groups slot with
  | some g => if g.threads.all (fun t => t.st = .exited) then { c with groups := mdel c.groups slot } else c
  | none => c

/-- Notes that a core has freed a slot of its launch (R305). -/
def noteFreed (n slot : Nat) (w : World) : World :=
  match (coreOf w n).launch, mget (coreOf w n).groups slot with
  | some l, none => updLaunch l.part (fun l => { l with freed := l.freed ++ [(w.now, n)] }) w
  | _, _ => w

def execExit (a : At) (s : State) :=
  run (issue 6 3
    { uses := fun i _ => noUses i
      trap := fun i _ => ctrlTrap 0 i
      waits := fun _ _ => false
      eff := fun i w => noteFreed i.core i.slot (updCore i.core (fun c =>
        freeIfDone i.slot { c with groups := mupd c.groups i.slot (fun g => joinAll (setSts i.ex .exited g)) }) w) } a) s

/-- YIELD (R121): the path's count is 0 and it is not ready for the group's next issue. -/
def execYield (a : At) (s : State) :=
  run (issue 6 5 (ctrlMeaning noUses (fun i _ => ctrlTrap 0 i)
    (fun i g => if i.ex = 0 then g
      else { g with paths := mupd g.paths i.pc (fun b => { b with starve := 0, yielded := true }) })) a) s

/-- BRK raises the break trap where a guard holds; its tag is ignored. -/
def execBrk (a : At) (s : State) :=
  run (issue 6 6 (ctrlMeaning noUses
    (fun i _ => if fixedBad (fm 8 32) i then some tIllegal else if i.ex = 0 then none else some tBreak)
    (fun _ g => g)) a) s

def execNop (a : At) (s : State) := run (issue 6 7 (ctrlMeaning noUses (fun i _ => ctrlTrap 0 i) (fun _ g => g)) a) s

/-! ### Frame time (R159, R377) -/

/-- What the core's replica shows: within 4 ns of the FTB, and never before what it has shown. -/
def coreTime (n : Nat) (w : World) : Nat × World :=
  let r := replicaKey w
  let k := max r.1 (coreOf r.2 n).ftSeen
  (k, updCore n (fun c => { c with ftSeen := k }) r.2)

/-- The three words of a key with the FTB's state (R159). -/
def ftWords (key state : Nat) (i : Nat) : W32 :=
  match i with
  | 0 => BitVec.ofNat 32 key
  | 1 => BitVec.ofNat 32 (key / 2 ^ 32)
  | _ => BitVec.ofNat 32 (bits key 64 16 + state * 2 ^ 16)

def execFtRd (a : At) (s : State) :=
  run (issue 9 0
    { uses := fun i _ => ⟨[], [(fD i, 3, 1)]⟩
      trap := fun i _ => ctrlTrap (fm 40 8) i
      waits := fun _ _ => false
      eff := fun i w =>
        if i.ex = 0 then w
        else
          let t := coreTime i.core w
          updGroup i.core i.slot (fun g => iter 3 (fun k g => uWrite (fD i + k) (ftWords t.1 (ftbState w) k) g) g) t.2 }
    a) s

/-- The target key in u(a) to u(a + 2). -/
def ftTarget (g : Group) (a : Nat) : Nat :=
  (uRead g a).toNat + (uRead g (a + 1)).toNat * 2 ^ 32 + bits (uRead g (a + 2)).toNat 0 16 * 2 ^ 64

def execFtWait (a : At) (s : State) :=
  run (issue 9 1
    { uses := fun i _ => ⟨[], [(fA i, 3, 1)]⟩
      trap := fun i _ => ctrlTrap (fm 32 8) i
      waits := fun _ _ => false
      eff := fun i w =>
        let t := coreTime i.core w
        let target := ftTarget (groupOf w i.core i.slot) (fA i)
        if target ≤ t.1 then t.2 else updGroup i.core i.slot (setSts i.ex (.waitFrame target)) t.2 } a) s

/-- FT_WAIT_RELEASE: the threads of a core whose target the core's replica has reached become ready. -/
def ftRelease (n : Nat) (w : World) : World :=
  let t := coreTime n w
  updCore n (fun c => ungate { c with groups := c.groups.map (fun (k, g) =>
    (k, { g with threads := g.threads.map (fun th => match th.st with
      | .waitFrame key => if key ≤ t.1 then { th with st := .active } else th
      | _ => th) })) }) t.2

def execFtWaitRelease (n : Nat) (s : State) := run (ftRelease n) s

/-! ### FENCE.PUB and CACHE.INV (R157, R158) -/

def execFencePub (a : At) (s : State) :=
  run (issue 9 3
    { uses := fun i _ => noUses i
      trap := fun i _ => ctrlTrap 0 i
      waits := fun i w => i.ex ≠ 0 && writesOut (coreOf w i.core) i.slot (slotNumber (coreOf w i.core) i.slot) (fenceStart i w)
      eff := fun _ w => w
      note := fenceNote } a) s

/-- Every line of the L1 becomes invalid; an outstanding fill is not installed. -/
def l1Invalidate (c : Core) : Core :=
  { c with l1 := [], accs := c.accs.map (fun a => if a.const then a else { a with cacheable := [] }) }

def execCacheInv (a : At) (s : State) :=
  run (issue 9 4
    { uses := fun i _ => noUses i
      trap := fun i _ => ctrlTrap 0 i
      waits := fun i w => i.ex ≠ 0 && loadsOut (coreOf w i.core) i.slot (slotNumber (coreOf w i.core) i.slot)
      eff := fun i w => if i.ex = 0 then w else updCore i.core l1Invalidate w } a) s

/-! ### A gated quarter -/

/-- QUARTER_GATE (R383): a quarter with no active path gates while one of its threads waits; not after a pre-emption request
or a stop, which ungate it. `cycles` is what
its gating adds to SY_GATED. -/
def quarterGate (n q cycles : Nat) (w : World) : World :=
  let c := coreOf w n
  let waits := c.groups.any (fun p => p.1 / 16 = q && p.2.threads.any (fun t => match t.st with
    | .active => false | .exited => false | _ => true))
  let ends := c.stopped || (match c.launch with | some l => w.sched.preempt.contains l.part | none => false)
  if 4 ≤ q || quarterActive c q || !waits || ends then w
  else bump (updCore n (fun c => { c with gated := sIns c.gated q }) w) (rSY_GATED n) cycles

def execQuarterGate (n q cycles : Nat) (s : State) := run (quarterGate n q cycles) s

end Sys2Proof.Machine
end

