-- ==== Sys2Proof/Machine/NetBase.lean ====
section
/-!
DEFINITION. Ports and node addressing (R394 to R400), and what leaves a port.
-/
namespace Sys2Proof.Machine

/-- The role of a port: 0 OFF, 1 DATA, 2 TWIN. -/
def portRole (w : World) (p : Nat) : Nat := fld w rNET_ROLE (2 * p) 2

def portUp (w : World) (p : Nat) : Bool := fld w (rNET_PORT_STATUS p) 0 1 = 1

/-- The source unit of a port (R394). -/
def portUnit (p : Nat) : Nat := 0x070 + p

/-- This module's node ID. -/
def nodeId (w : World) : Nat := fld w rNET_CFG 32 20

def nodeTable (w : World) : Nat := rg w rNET_NODETAB / 64 % 2 ^ 46 * 64

/-- The base address of a node (R400), as a little-endian number of its 16 bytes: none for an invalid entry, a node at
or beyond count, or a table that is not enabled. -/
def nodeAddr (w : World) (n : Nat) : Option Nat :=
  if fld w rNET_NODETAB 0 1 = 0 then none
  else
    let count := leNat (devRead byNetwork (nodeTable w + 4) 4 w).1
    let bs := (devRead byNetwork (nodeTable w + 64 + 16 * n) 16 w).1
    if count ≤ n || 236 < ((bs.getD 15 0).toNat) || bs.all (· = 0) then none else some (leNat bs)

/-- An IPv4-mapped address (::ffff:a.b.c.d). -/
def isV4 (a : Nat) : Bool := a % 2 ^ 96 = 0xFFFF * 2 ^ 80

/-- Bytes of the MAC frame that carries `n` bytes of UDP payload, FCS included (R476). PRESUMED: untagged Ethernet,
IPv4 or IPv6 without options, padded to 64. -/
def frameLen (v4 : Bool) (n : Nat) : Nat := max 64 (14 + (if v4 then 20 else 40) + 8 + n + 4)

/-- A port's own IP address, which every packet of it carries as its source, and its MAC address (R400). -/
def portAddr (w : World) (p : Nat) : Nat := match nodeAddr w (nodeId w) with
  | some a => a + p * 2 ^ 120
  | none => Config.noAddress

def portMac (w : World) (p : Nat) : Nat := (rg w rNET_MAC_BASE + p) % 2 ^ 48

/-- UDP headers: source port, destination port, DSCP. -/
structure UdpHead where
  src  : Nat
  dst  : Nat
  dscp : Nat

/-- Those of collective and twin datagrams (R410, R412). -/
def netUdp (w : World) : UdpHead := ⟨fld w rNET_UDP 0 16, fld w rNET_UDP 0 16, fld w rNET_UDP 16 6⟩

/-- Sends a UDP datagram of `n` payload bytes to a node, if the link is up and the node has an address: to the
address of the node's port of the same index (R410), from the port's own, by way of the port's next hop (R400). -/
def sendUdp (port node n : Nat) (h : UdpHead) (nums : List Nat) (data : List Byte) (w : World) : World :=
  if !(portUp w port) then w
  else match nodeAddr w node with
    | none => w
    | some a =>
      emit .packet ([port, node, a + port * 2 ^ 120, portAddr w port, fld w (rNET_PORT_GW port) 0 48, portMac w port,
        h.dst, h.src, h.dscp] ++ nums) data (bump w (rDBG_PORT_TX port) (frameLen (isV4 a) n))

/-- Counts a datagram received from a node. -/
def countRx (port node n : Nat) (w : World) : World :=
  match nodeAddr w node with
  | some a => bump w (rDBG_PORT_RX port) (frameLen (isV4 a) n)
  | none => bump (freeUsed w) (rDBG_PORT_RX port) (freeVal w)

/-- The 16-byte payload of R410. -/
def btPayload (typ g b phase sender receiver : Nat) : List Byte :=
  [1, BitVec.ofNat 8 typ, BitVec.ofNat 8 g, BitVec.ofNat 8 b] ++ natLe phase 2 ++ [0, 0] ++ natLe sender 4 ++
    natLe receiver 4

/-- Sends ARRIVE (1) or RELEASE (2) to a node on the barrier port, if it is a DATA port. -/
def sendBt (typ g b phase receiver : Nat) (w : World) : World :=
  let p := fld w rNET_UDP 24 5
  if portRole w p = 1 then sendUdp p receiver 16 (netUdp w) [] (btPayload typ g b phase (nodeId w) receiver) w else w

end Sys2Proof.Machine
end

