-- ==== Sys2Proof/Machine/Barrier.lean ====
section
/-!
DEFINITION. Barrier trees (R385 to R390): arrivals at a core, contributions up the tree, releases, and network
barrier groups.
-/
namespace Sys2Proof.Machine

/-! ### Handles (R385) -/

def hScope (h : Nat) : Nat := bits h 30 2
def hNbg (h : Nat) : Nat := bits h 26 4
def hBarrier (h : Nat) : Nat := bits h 0 6

/-- A reserved bit, or an nbg below scope NETWORK. -/
def handleBad (h : Nat) : Bool := bits h 6 20 ≠ 0 || (hScope h ≠ 3 && hNbg h ≠ 0)

/-- Two handles differ in scope or nbg (R388). -/
def handleDiffers (a b : Nat) : Bool := hScope a ≠ hScope b || hNbg a ≠ hNbg b

/-! ### Network barrier groups: state (R389) -/

def blankPhase : NbgPhase := { phase := 0, arrived := [], cores := none, sent := none, released := false }

def nbgOf (w : World) (g : Nat) : Nbg := mgetD w.nbgs g { ctx := none, work := 0, inflight := [], phases := [] }

def setNbg (g : Nat) (x : Nbg) (w : World) : World := { w with nbgs := mset w.nbgs g x }

def phaseOf (w : World) (g b : Nat) : NbgPhase := mgetD (nbgOf w g).phases b blankPhase

def setPhase (g b : Nat) (x : NbgPhase) (w : World) : World :=
  let n := nbgOf w g
  setNbg g { n with phases := mset n.phases b x } w

/-- The group takes part: enabled, and not abandoned. -/
def nbgActive (w : World) (g : Nat) : Bool :=
  fld w (rBT_NBG_STATUS g) 0 1 = 1 && fld w (rBT_NBG_STATUS g) 1 1 = 0

def nbgPart (w : World) (g : Nat) : Nat := fld w (rBT_NBG_CFG g) 36 4
def nbgRoot (w : World) (g : Nat) : Bool := fld w (rBT_NBG_CFG g) 26 1 = 1
def nbgParent (w : World) (g : Nat) : Nat := fld w (rBT_NBG_CFG g) 0 20

/-- The node IDs of the children, by index. -/
def nbgChildren (w : World) (g : Nat) : List Nat :=
  (List.range (min 16 (fld w (rBT_NBG_CFG g) 27 5))).map (fun k => fld w (rBT_NBG_CHILD g (k / 3)) (20 * (k % 3)) 20)

/-- A phase is in flight for a barrier. -/
def markInflight (g b : Nat) (w : World) : World :=
  let n := nbgOf w g
  setNbg g { n with inflight := sIns n.inflight b } w

/-! ### BAR.ARV (R387, R388) -/

/-- The arrivals of a barrier a core holds in the present phase. -/
def arrivalsOf (c : Core) (b : Nat) : List BarArrival := c.arrived.filter (fun a => hBarrier a.handle = b)

/-- One arrival counts at its core: a mismatch traps; the last one contributes to the core's cluster, or beyond. -/
def coreArrive (n : Nat) (x : BarArrival) (w : World) : World :=
  let c := coreOf w n
  let b := hBarrier x.handle
  let mismatch := match (arrivalsOf c b).head? with
    | some f => handleDiffers f.handle x.handle
    | none => false
  if mismatch then kernelTrap n x.slot x.mask x.pc tOperand w
  else
    let w := updCore n (fun c => { c with arrived := c.arrived ++ [x] }) w
    let c := coreOf w n
    if (arrivalsOf c b).length = c.expect then
      let m : BarMsg := ⟨1, n / 16, ((arrivalsOf c b).headD x).handle, [n]⟩
      match c.launch with
      | some l => updLaunch l.part (fun y => { y with barMsgs := y.barMsgs ++ [m] }) w
      | none => w
    else w

/-- Has the group in a slot arrived at a barrier in the present phase? -/
def hasArrived (c : Core) (slot b : Nat) : Bool := c.arrived.any (fun a => a.slot = slot && hBarrier a.handle = b)

/-- A phase of a network barrier is in flight here; the first arrival names the context and the launch. -/
def nbgTake (g b ctx work : Nat) (w : World) : World :=
  let w := markInflight g b w
  let n := nbgOf w g
  if n.ctx.isNone then setNbg g { n with ctx := some ctx, work := work } w else w

/-- An arrival at a network barrier takes its group for its context and its launch. A group that is abandoned or not
enabled takes no arrival (R390). -/
def nbgClaim (h ctx work : Nat) (w : World) : World :=
  if hScope h = 3 && nbgActive w (hNbg h) then nbgTake (hNbg h) (hBarrier h) ctx work w else w

/-- A BAR.ARV executes: it arrives, or is held while its group's bit is set. -/
def barArrive (i : Iss) (h sem : Nat) (w : World) : World :=
  let c := coreOf w i.core
  let b := hBarrier h
  let x : BarArrival := { slot := i.slot, handle := h, sem := sem, mask := i.path, pc := i.pc }
  if hasArrived c i.slot b then
    updGroup i.core i.slot (setSts i.path (.waitBar b sem)) (updCore i.core (fun c => { c with held := c.held ++ [x] }) w)
  else coreArrive i.core x (nbgClaim h (launchOn w i.core).ctx (launchOn w i.core).work w)

/-- A handle whose NBG belongs to another partition, or is in use by another context (R389). -/
def nbgRefuses (w : World) (h : Nat) (l : CoreLaunch) : Bool :=
  hScope h = 3 && (nbgPart w (hNbg h) ≠ l.part || (match (nbgOf w (hNbg h)).ctx with
    | some c => c ≠ l.ctx
    | none => false))

def execBarArv (a : At) (s : State) :=
  run (issue 5 3
    { uses := fun i _ => ⟨[], [(fB i, 1, 1)]⟩
      trap := fun i w =>
        let h := (uRead (groupOf w i.core i.slot) (fB i)).toNat
        let l := launchOn w i.core
        if fixedBad (fm 35 5 + fm 24 8) i || 16 ≤ ySem i then some tIllegal
        else if i.ex = 0 then none
        else if !l.coop || handleBad h || nbgRefuses w h l then some tOperand
        else none
      waits := fun _ _ => false
      eff := fun i w =>
        if i.ex = 0 then w
        else barArrive i (uRead (groupOf w i.core i.slot) (fB i)).toNat (ySem i) w } a) s

/-! ### Network part (R389, R390) -/

/-- The running launch that uses an NBG. -/
def nbgLaunch (w : World) (g : Nat) : Option Launch := match mget w.fe.launches (nbgPart w g) with
  | some l => if (nbgOf w g).ctx.isSome && l.work = (nbgOf w g).work then some l else none
  | none => none

/-- Releases to each core, once. -/
def addRels (part b : Nat) (cores : List Nat) (w : World) : World :=
  updLaunch part (fun l => { l with barRels := l.barRels ++ cores.map (·, b) }) w

/-- The same for a saved launch. -/
def addSavedRels (part k b : Nat) (cores : List Nat) (w : World) : World :=
  { w with sched := { w.sched with saved := mupd w.sched.saved part (fun ss => ss.map (fun s =>
      if s.launch.work = k then
        { s with launch := { s.launch with barRels := s.launch.barRels ++ cores.map (·, b) } }
      else s)) } }

/-- A phase completes at this node: RELEASE goes to every child, the package is released, the phase advances. -/
def nbgComplete (g b : Nat) (w : World) : World :=
  let p := phaseOf w g b
  let cores := p.cores.getD []
  let w := (nbgChildren w g).foldl (fun w c => sendBt 2 g b p.phase c w) w
  let w := match nbgLaunch w g with
    | some _ => addRels (nbgPart w g) b cores w
    | none => addSavedRels (nbgPart w g) (nbgOf w g).work b cores w
  let w := setPhase g b { blankPhase with phase := (p.phase + 1) % 65536 } w
  let n := nbgOf w g
  let fl := n.inflight.filter (· ≠ b)
  bump (setNbg g { n with inflight := fl, ctx := if fl.isEmpty then none else n.ctx,
                             work := if fl.isEmpty then 0 else n.work } w) rBT_COMPLETIONS 1

/-- Sends ARRIVE upward, or completes at the root, once the package counter and every child have arrived. -/
def nbgCheck (g b : Nat) (w : World) : World :=
  let p := phaseOf w g b
  if !(nbgActive w g) || p.cores.isNone || p.sent.isSome ||
      !((List.range (nbgChildren w g).length).all (fun k => p.arrived.contains k)) then w
  else if nbgRoot w g then nbgComplete g b w
  else sendBt 1 g b p.phase (nbgParent w g) (setPhase g b { p with sent := some w.now } w)

/-- The package counter of a NETWORK barrier completes for a launch. An NBG that is abandoned or not enabled takes
nothing; one that was enabled after the launch's arrivals is the launch's from here on. -/
def nbgPackage (l : Launch) (g b : Nat) (cores : List Nat) (w : World) : World :=
  if nbgActive w g then
    nbgCheck g b (setPhase g b { phaseOf w g b with cores := some cores } (nbgTake g b l.ctx l.work w))
  else w

/-! ### Contributions and releases (R386 to R388) -/

def dedupNat (l : List Nat) : List Nat := l.foldl sIns []

/-- What a counter expects (R386): cores of a cluster, clusters of a die, dies of the package that hold groups. -/
def barExpect (l : Launch) (level unit : Nat) : Nat :=
  match level with
  | 1 => (l.barCores.filter (fun c => c / 16 = unit)).length
  | 2 => (dedupNat ((l.barCores.filter (fun c => c / 64 = unit)).map (· / 16))).length
  | _ => (dedupNat (l.barCores.map (· / 64))).length

def barKey (level unit b : Nat) : Nat := (level * 16 + unit) * 64 + b

/-- A counter has reached its count: the barrier completes at the level of its scope, or goes up. -/
def barFull (part : Nat) (l : Launch) (m : BarMsg) (x : BarCount) (w : World) : World :=
  let b := hBarrier x.handle
  let w := updLaunch part (fun l => { l with bars := mdel l.bars (barKey m.level m.unit b) }) w
  if m.level = hScope x.handle + 1 then addRels part b x.cores w
  else if m.level = 3 then nbgPackage l (hNbg x.handle) b x.cores w
  else
    let up : BarMsg := ⟨m.level + 1, if m.level = 1 then m.unit / 4 else 0, x.handle, x.cores⟩
    updLaunch part (fun l => { l with barMsgs := l.barMsgs ++ [up] }) w

/-- BARRIER_CONTRIBUTION: message `idx` of a partition's launch reaches its level. A contribution whose scope or nbg
differs from the counter's first traps on its lowest core, with pc 0; slot and lanes are open values. -/
def barContribution (part idx : Nat) (w : World) : World :=
  match mget w.fe.launches part with
  | none => w
  | some l => match l.barMsgs[idx]? with
    | none => w
    | some m =>
      let w := updLaunch part (fun l => { l with barMsgs := l.barMsgs.eraseIdx idx }) w
      let key := barKey m.level m.unit (hBarrier m.handle)
      let old := mgetD l.bars key ⟨0, [], m.handle⟩
      if handleDiffers old.handle m.handle then
        let n := (dedupNat m.cores).headD 0
        let slot := freeVal w % 64
        let w := freeUsed w
        let mask : W32 := BitVec.ofNat 32 (freeVal w)
        kernelTrap n slot mask 0 tOperand (freeUsed w)
      else
        let x : BarCount := ⟨old.count + 1, old.cores ++ m.cores, old.handle⟩
        if x.count = barExpect l m.level m.unit then barFull part l m x w
        else updLaunch part (fun l => { l with bars := mset l.bars key x }) w

def execBarrierContribution (part idx : Nat) (s : State) := run (barContribution part idx) s

/-- The first held arrival of each group at a barrier, in issue order. -/
def firstHeld (b : Nat) (held : List BarArrival) : List BarArrival :=
  held.foldl (fun l a => if hBarrier a.handle = b && !(l.any (·.slot = a.slot)) then l ++ [a] else l) []

/-- Threads held at a barrier go on. -/
def wakeHeld (x : BarArrival) (g : Group) : Group :=
  { g with threads := g.threads.zipIdx.map (fun t => match t.1.st with
      | .waitBar b _ =>
        if x.mask.getLsbD t.2 && b = hBarrier x.handle then { t.1 with st := .active } else t.1
      | _ => t.1) }

/-- BARRIER_RELEASE: a release reaches a core. Each distinct semaphore its arrivals named rises by 1; the phase's bits
clear; the first held arrival of each group counts toward the next phase. -/
def barRelease (n b : Nat) (w : World) : World :=
  match (coreOf w n).launch with
  | none => w
  | some cl => match mget w.fe.launches cl.part with
    | none => w
    | some l =>
      if !(l.barRels.contains (n, b)) then w
      else
        let w := updLaunch cl.part (fun l => { l with barRels := l.barRels.erase (n, b) }) w
        let c := coreOf w n
        let sems := dedupNat ((arrivalsOf c b).map (·.sem))
        let again := firstHeld b c.held
        let c := { c with
          arrived := c.arrived.filter (fun a => hBarrier a.handle ≠ b)
          held := again.foldl (fun h a => h.erase a) c.held
          phases := mset c.phases b (mgetD c.phases b 0 + 1) }
        let c := sems.foldl (fun c s => semAdd s 1 c) c
        let c := again.foldl (fun c a => { c with groups := mupd c.groups a.slot (wakeHeld a) }) c
        let w := setCore n { c with gated := [] } w
        again.foldl (fun w a => coreArrive n a (nbgClaim a.handle cl.ctx cl.work w)) w

def execBarrierRelease (n b : Nat) (s : State) := run (barRelease n b) s

/-! ### Datagrams (R389, R410) -/

def btDrop (w : World) : World := bump w rBT_NET_DROP 1

/-- The checks every collective datagram passes (R410): version, reserved bits, receiver, group, its sender's place.
The sender's index among the children, or 16 for the parent. -/
def btSender (w : World) (d : Nat) : Option Nat :=
  let g := bits d 16 4
  let sender := bits d 64 20
  if bits d 0 8 ≠ 1 || bits d 20 4 ≠ 0 || bits d 30 2 ≠ 0 || bits d 48 16 ≠ 0 || bits d 84 12 ≠ 0 || bits d 116 12 ≠ 0 ||
      bits d 96 20 ≠ nodeId w || 0x40000 ≤ sender || !(nbgActive w g) then none
  else match (nbgChildren w g).findIdx? (· = sender) with
    | some k => some k
    | none => if !(nbgRoot w g) && nbgParent w g = sender then some 16 else none

/-- ARRIVE: a datagram (its 16 bytes as a number) received on a port. -/
def nbgArrive (port d : Nat) (w : World) : World :=
  if !(configured w) || portRole w port ≠ 1 then w
  else
    let g := bits d 16 4
    let b := bits d 24 6
    let ph := bits d 32 16
    match btSender w d with
    | none => btDrop w
    | some k =>
      let p := phaseOf w g b
      if 16 ≤ k then btDrop w
      else if ph = p.phase then
        if p.arrived.contains k then w
        else nbgCheck g b (setPhase g b { p with arrived := sIns p.arrived k } (markInflight g b w))
      else if (ph + 1) % 65536 = p.phase then sendBt 2 g b ph (bits d 64 20) w
      else btDrop w

def execArrive (port d : Nat) (s : State) := run (nbgArrive port d) s

/-- RELEASE: a datagram received from the parent. While the launch is saved it is held (R390). -/
def nbgRelease (port d : Nat) (w : World) : World :=
  if !(configured w) || portRole w port ≠ 1 then w
  else
    let g := bits d 16 4
    let b := bits d 24 6
    match btSender w d with
    | none => btDrop w
    | some k =>
      let p := phaseOf w g b
      if k ≠ 16 || bits d 32 16 ≠ p.phase then btDrop w
      else
        let isSaved := (nbgOf w g).ctx.isSome &&
          (mgetD w.sched.saved (nbgPart w g) []).any (fun s => s.launch.work = (nbgOf w g).work)
        if isSaved then setPhase g b { p with released := true } w else nbgComplete g b w

def execRelease (port d : Nat) (s : State) := run (nbgRelease port d) s

/-- Releases held while a launch was saved are applied at its restore (R390). -/
def nbgRestored (part k : Nat) (w : World) : World :=
  (List.range 16).foldl (fun w g =>
    if nbgPart w g = part && (nbgOf w g).ctx.isSome && (nbgOf w g).work = k then
      (nbgOf w g).inflight.foldl (fun w b => if (phaseOf w g b).released then nbgComplete g b w else w) w
    else w) w

/-- ARRIVE_RESEND: retry_us after the last ARRIVE without a RELEASE, it is sent again. A RELEASE held for a saved launch
has been received. -/
def arriveResend (g b : Nat) (w : World) : World :=
  let p := phaseOf w g b
  match p.sent with
  | none => w
  | some t =>
    if nbgActive w g && !p.released && t + 1000 * fld w (rBT_NBG_CFG g) 48 16 ≤ w.now then
      bump (sendBt 1 g b p.phase (nbgParent w g) (setPhase g b { p with sent := some w.now } w)) rBT_NET_RETRY 1
    else w

def execArriveResend (g b : Nat) (s : State) := run (arriveResend g b) s

/-- NBG_ENABLE: writing 1 to enable sets every phase to 0 and clears abandoned (R392). -/
def nbgEnable (g : Nat) (w : World) : World :=
  if configured w && g < 16 then
    fldSet (setNbg g { ctx := none, work := 0, inflight := [], phases := [] } w) (rBT_NBG_STATUS g) 0 2 1
  else w

def execNbgEnable (g : Nat) (s : State) := run (nbgEnable g) s

/-- A launch ends: NBGs with a phase in flight for it are abandoned (R390). -/
def nbgAbandon (part k : Nat) (w : World) : World :=
  (List.range 16).foldl (fun w g =>
    if nbgPart w g = part && (nbgOf w g).ctx.isSome && (nbgOf w g).work = k then fldSet w (rBT_NBG_STATUS g) 1 1 1 else w) w

end Sys2Proof.Machine
end

