-- ==== Sys2Proof/Machine/FrameTime.lean ====
section
/-!
DEFINITION. The frame time base's sources, states and steps (R368 to R376, R392).
-/
namespace Sys2Proof.Machine

/-! ### Messages and state changes (R374 to R376) -/

/-- Accumulator units in one frame. -/
def ftbFrame (w : World) : Nat := ftbLpf w * 65536 * ftbUnit w

/-- A message of the FTB. -/
def ftbMsg (event : Nat) (w : World) : World :=
  sendMsg 0x0A1 devCtx stOK
    (event * 2 ^ 56 + ftbState w * 2 ^ 48 + (if ftbFrame w = 0 then 0 else w.ftb.acc / ftbFrame w % 2 ^ 48)) w

/-- Moves to a state, with its message; HOLDOVER is counted when it is entered. -/
def ftbMove (st : Nat) (w : World) : World :=
  if ftbState w = st then w
  else
    let w := fldSet w rFTB_STATUS 0 2 st
    ftbMsg 1 (if st = 3 then bump w rFTB_LOSSES 1 else w)

/-- T moves: the replicas, which stay within 4 ns of it, follow (R377). -/
def ftbMoveTo (acc : Nat) (w : World) : World :=
  { w with ftb := { w.ftb with acc := acc }, cores := w.cores.map (fun p => (p.1, { p.2 with ftSeen := 0 })) }

/-- Sets T (R375): the step is counted and a message sent. -/
def ftbStep (acc : Nat) (w : World) : World :=
  ftbMsg 2 (bump (ftbMoveTo acc { w with ftb := { w.ftb with good := 0, bad := 0 } }) rFTB_STEPS 1)

/-- The image becomes CONFIGURED (R374): FREE_RUN with T = 0, unless the source is NONE. -/
def ftbStart (w : World) : World :=
  let w := { w with ftb := { Ftb.reset with last := w.now } }
  if ftbSource w = 0 then w else ftbMove 1 w

/-- The image is unloaded: NOT_RUNNING. -/
def ftbStop (w : World) : World :=
  let w := fldSet w rFTB_STATUS 2 4 0
  fldSet (ftbMove 0 w) rFTB_OFFSET 32 32 0

/-! ### Measurements (R374) -/

/-- Accumulator units in one ns at the nominal rate. -/
def ftbNs (w : World) : Nat := 2 ^ 40 * ftbNum w * ftbLpf w * 65536

/-- The servo steers the rate adjustment within its limit (R374); the value it takes is open. -/
def ftbSteer (w : World) : World :=
  if 2 ≤ ftbState w && fld w rFTB_STATUS 4 1 = 0 then
    let bound := fld w rFTB_SERVO 32 16 * 2 ^ 40 / 10 ^ 6
    let a : Int := (freeVal w % (2 * bound + 1) : Nat) - (bound : Int)
    fldSet (freeUsed w) rFTB_OFFSET 32 32 (a % 2 ^ 32).toNat
  else w

/-- Records the last offset in ns; one that does not fit its 32 bits is an open value. -/
def ftbRecord (off : Int) (w : World) : World :=
  let ns := if ftbNs w = 0 then 0 else off.tdiv (ftbNs w)
  if -2147483648 ≤ ns && ns ≤ 2147483647 then fldSet w rFTB_OFFSET 0 32 (ns % 2 ^ 32).toNat
  else fldSet (freeUsed w) rFTB_OFFSET 0 32 (freeVal w)

/-- The state changes a measurement brings, `off` being its offset in accumulator units. -/
def ftbJudge (off : Int) (w : World) : World :=
  let lock := fld w rFTB_SERVO 0 32 * ftbNs w
  let good := if off.natAbs ≤ lock then w.ftb.good + 1 else 0
  let bad := if 4 * lock < off.natAbs then w.ftb.bad + 1 else 0
  let w := { w with ftb := { w.ftb with good := good, bad := bad } }
  let st := ftbState w
  if 2 ≤ st && ftbFrame w < off.natAbs then ftbMove 3 (fldSet w rFTB_STATUS 4 1 1)
  else if st = 2 && 4 ≤ bad then ftbMove 3 { w with ftb := { w.ftb with good := 0 } }
  else if (st = 1 || st = 3) && 16 ≤ good then ftbMove 2 { w with ftb := { w.ftb with bad := 0 } }
  else w

/-- One measurement: the reference stands at `ref` accumulator units. The first after the image loads acquires, and
one that a resync waits for steps. -/
def ftbMeasure (ref : Nat) (w : World) : World :=
  let off : Int := (w.ftb.acc : Int) - ref
  let w := ftbRecord off (bump { w with ftb := { w.ftb with last := w.now } } rFTB_MEAS 1)
  if fld w rFTB_STATUS 2 1 = 0 then
    ftbStep ref (fldSet (if fld w rFTB_STATUS 3 1 = 1 then fldSet w rFTB_STATUS 3 2 0 else w) rFTB_STATUS 2 1 1)
  else if fld w rFTB_STATUS 3 1 = 1 then ftbStep ref (fldSet w rFTB_STATUS 3 2 0)
  else ftbSteer (ftbJudge off w)

/-- PTP_EVENT_MESSAGE (R372): a PTP message of the FTB's port and domain. Where it completes an offset computation,
`ns` is the PTP time since the epoch at this instant. -/
def ptpMessage (completes : Bool) (ns : Nat) (w : World) : World :=
  if !completes || ftbSource w ≠ 2 || ftbState w = 0 then w
  else ftbMeasure (ns * ftbNum w * ftbLpf w * 65536 / (ftbDen w * 10 ^ 9) * ftbUnit w) w

def execPtpEventMessage (completes : Bool) (ns : Nat) (s : State) := run (ptpMessage completes ns) s

/-- Two naturals within 0.1 % of the second. -/
def within1000 (a b : Nat) : Bool := (a - b) * 1000 ≤ b && (b - a) * 1000 ≤ b

/-- The frame start nearest the FTB's time: the analogue reference carries no frame count (R373). -/
def nearestFrame (w : World) : Nat :=
  let per := ftbFrame w
  if per = 0 then 0 else (w.ftb.acc + per / 2) / per * per

/-- An armed alignment sets the frame count and clears (R392). -/
def ftbAlign (w : World) : World :=
  if fld w rFTB_ALIGN 63 1 = 1 then
    let acc := fld w rFTB_ALIGN 0 48 * ftbFrame w + (if ftbFrame w = 0 then 0 else w.ftb.acc % ftbFrame w)
    fldSet (ftbMoveTo acc w) rFTB_ALIGN 63 1 0
  else w

/-- ANALOG_FRAME_START (R373, R392): a frame start, with the measured frame period in ns and lines per frame. One that
differs from the image's is no measurement; an armed alignment takes effect at either. -/
def analogFrame (period lines : Nat) (w : World) : World :=
  if ftbSource w ≠ 3 || ftbState w = 0 then w
  else if !(within1000 (10 ^ 9 * ftbDen w) (ftbNum w * period) && within1000 lines (ftbLpf w)) then
    ftbAlign (if fld w rFTB_STATUS 5 1 = 1 then w else ftbMsg 3 (fldSet w rFTB_STATUS 5 1 1))
  else ftbAlign (ftbMeasure (nearestFrame w) w)

def execAnalogFrameStart (period lines : Nat) (s : State) := run (analogFrame period lines) s

/-- FTB_LOSS_TIMEOUT: LOCKED with no measurement for loss_ms becomes HOLDOVER. -/
def ftbLoss (w : World) : World :=
  if ftbState w = 2 && w.ftb.last + fld w rFTB_SERVO 48 16 * 10 ^ 6 ≤ w.now then
    ftbMove 3 { w with ftb := { w.ftb with good := 0, bad := 0 } }
  else w

def execFtbLossTimeout (s : State) := run ftbLoss s

/-- RESYNC: a write of 1 to FTB_CTL.resync; dropped with source NONE or FREE_RUN. -/
def ftbResync (w : World) : World :=
  if configured w && 2 ≤ ftbSource w then fldSet w rFTB_STATUS 3 1 1 else w

def execResync (s : State) := run ftbResync s

/-- FTB_ALIGN_ARM: a write of FTB_ALIGN with arm = 1 and a frame count; arm clears if the source is not ANALOG. -/
def ftbAlignArm (frame : Nat) (w : World) : World :=
  if configured w then
    rgSet w rFTB_ALIGN (frame % 2 ^ 48 + (if ftbSource w = 3 then 2 ^ 63 else 0))
  else w

def execFtbAlignArm (frame : Nat) (s : State) := run (ftbAlignArm frame) s

end Sys2Proof.Machine
end

