-- ==== Sys2Proof/Machine/Tree.lean ====
section
/-!
DEFINITION. Which units serve, the capability word, and changes of the descriptor tree (R19, R24, R28).
-/
namespace Sys2Proof.Machine

/-! ### Cores of a partition (R19, R343, R467) -/

/-- Is a core in service: its own physical core is not retired, or its cluster's spare has taken its number? -/
def coreServes (w : World) (n : Nat) : Bool :=
  let c := n / 16
  !(bit (fld w (rRAS_CLUSTER c) 0 17) (n % 16)) ||
    (mget w.ras.adopted c = some (n % 16) && !(bit (fld w (rRAS_CLUSTER c) 0 17) 16))

def partClusters (w : World) (p : Nat) : List Nat := bitList (fld w (rSCHED_PART_CFG p) 0 16) 16

/-- Is the partition defined by the image? -/
def partDefined (w : World) (p : Nat) : Bool := fld w (rSCHED_PART_CFG p) 0 16 ≠ 0

/-- A partition's ENABLED cores by rank (R305). -/
def partCores (w : World) (p : Nat) : List Nat :=
  ((partClusters w p).flatMap (fun c => (List.range 16).map (· + 16 * c))).filter (coreServes w)


/-- The operating point of a die is the one committed (R443). -/
def dieSettled (w : World) (d : Nat) : Bool := fld w (rPWR_OP d) 0 16 = fld w (rPWR_OP d) 16 16

/-- Every core of the partition has moved to the present mode epoch (R314). -/
def epochReady (w : World) (p : Nat) : Bool :=
  (partClusters w p).all (fun c => bit (fld w rPWR_EPOCH 0 16) c && dieSettled w (c / 4))

/-- Cores in service beneath the module. -/
def coresServing (w : World) : Nat := ((List.range 256).filter (coreServes w)).length

/-! ### The capability word (R24) -/

/-- A unit that is not a core is in service. -/
def unitServes (w : World) (unit : Nat) : Bool := !(w.ras.retired.contains unit)

/-- Partitions that hold cores beneath a node, `under` saying which cores those are. -/
def partsUnder (w : World) (under : Nat → Bool) : List Nat :=
  (List.range 16).filter (fun p => (partClusters w p).any (fun c => (List.range 16).any (fun k => under (16 * c + k))))

/-- Both Cassia halves serve, and a partition beneath the node has Cassia slots. -/
def hasCassia (w : World) (under : Nat → Bool) : Bool :=
  unitServes w 0x060 && unitServes w 0x061 && (partsUnder w under).any (fun p => fld w (rCAS_PART_CFG p) 0 17 ≠ 0)

/-- Every Saffron unit serves, and the image arms a rule or update programs. -/
def hasSaffron (w : World) : Bool :=
  (List.range 12).all (fun u => unitServes w (0x050 + u)) && fld w rSAF_CFG 0 5 ≠ 0

/-- The capability word of a compute node. -/
def capWord (w : World) (under : Nat → Bool) : Nat :=
  0xFF007FFF + b2n (hasCassia w under) * 2 ^ 16 + b2n (hasSaffron w) * 2 ^ 15

/-! ### Tree changes (R28, R32) -/

/-- Descriptors in the tree (R22, R25, R26). -/
def treeCount (w : World) : Nat :=
  let parts := if imageLoaded w then (List.range 16).filter (partDefined w) else []
  400 + (if Config.variantA then 2 else 0) + parts.length + ((parts.map (fun p => (partClusters w p).length)).sum) +
    (if fld w rNET_TWIN_STATUS 0 2 = 2 then 2 else 0)

/-- What the device reports once a change of the tree is made: gen has risen by 2, the package's word and the count
follow. -/
def treeChange (w : World) : World :=
  let w := fldSet w rGLB_UDGEN 0 32 (fld w rGLB_UDGEN 0 32 + 2)
  let w := fldSet w rGLB_UDGEN 32 32 (treeCount w)
  rgSet w rGLB_FEAT0 (capWord w (fun _ => true))

end Sys2Proof.Machine
end

