-- ==== Sys2Proof/Machine/Retire.lean ====
section
/-!
DEFINITION. Retirement of cores and the entry of spares into service (R19, R464, R467), and what RAS reports of them.
-/
namespace Sys2Proof.Machine

/-- An entry of the repair record (R464): kind, and content from byte 2. -/
def recEntry (kind : Nat) (content : List Byte) : List Byte :=
  (BitVec.ofNat 8 kind :: 0 :: content ++ List.replicate 14 0).take 16

/-- Adds an entry to those of the session. -/
def addEntry (e : List Byte) (w : World) : World :=
  if w.ras.session.contains e then w else { w with ras := { w.ras with session := w.ras.session ++ [e] } }

/-- Physical cores of a cluster that are retired. -/
def retiredMask (w : World) (c : Nat) : Nat := fld w (rRAS_CLUSTER c) 0 17

/-- The 64 KiB pages of HBM retired, by page number, from the record and the session (R464). -/
def retiredPages (w : World) : List Nat :=
  ((w.ras.record ++ w.ras.session).filterMap (fun e => if le e 0 1 = 4 then some (le e 2 8) else none)).eraseDups

/-- Registers of RAS that follow the repair in force. -/
def rasRefresh (w : World) : World :=
  let masks := (List.range 16).map (retiredMask w)
  let unused := (List.range 16).filter (fun c => !(bit (nth masks c 0) 16) && (mget w.ras.adopted c).isNone)
  let w := fldSet w rRAS_STATUS 16 8 ((masks.map (fun m => (bitList m 17).length)).sum)
  let w := fldSet w rRAS_STATUS 24 8 unused.length
  let pages := retiredPages w
  forAll (List.range 12) (fun s w => fldSet w (rRAS_HBM s) 32 13 (pages.filter (fun p => stackOf w (65536 * p) = s)).length)
    (forAll (List.range 16) (fun c w => fldSet w (rRAS_CLUSTER c) 17 1 (b2n (mget w.ras.adopted c).isSome)) w)

/-- Retires a physical core of a cluster: it is counted, logged, and entered in the record. `n` is the logical number
it is reported under. -/
def retirePhysical (c phys n : Nat) (w : World) : World :=
  let w := fldSet w (rRAS_CLUSTER c) phys 1 1
  let w := addEntry (recEntry 1 [BitVec.ofNat 8 c, BitVec.ofNat 8 phys]) (bump w rRAS_CORES_RETIRED 1)
  rasRefresh (rasLog kindCoreRetired 0 (0x100 + n) none false 0 w)

/-- The cluster's spare may still take a core's place. -/
def spareFree (w : World) (c : Nat) : Bool :=
  bit (fld w (rRAS_CLUSTER c) 18 1) 0 && !(bit (retiredMask w c) 16) && (mget w.ras.adopted c).isNone &&
    (mget w.ras.testing c).isNone

/-- RAS_STATUS says that no cluster has a core in service (R463). -/
def lastCore (w : World) : World := if coresServing w = 0 then fldSet w rRAS_STATUS 1 1 1 else w

/-- Retires the core that serves under a logical number: the tree changes (R28), a saved launch of it can no longer be
restored (R357), and the spare begins its signature test if it may. -/
def retireCore (n : Nat) (w : World) : World :=
  if !(coreServes w n) then w
  else
    let c := n / 16
    let k := n % 16
    let spare := mget w.ras.adopted c = some k
    let w := retirePhysical c (if spare then 16 else k) n w
    let lost (s : Saved) : Saved := if s.launch.cores.contains n then { s with lost := true } else s
    let w := { w with sched := { w.sched with saved := w.sched.saved.map (fun p => (p.1, p.2.map lost)) } }
    let w := if !spare && spareFree w c then { w with ras := { w.ras with testing := mset w.ras.testing c k } } else w
    lastCore (treeChange w)

/-- Cores whose retirement waited for a launch that has left them. -/
def retireWaiting (cores : List Nat) (w : World) : World :=
  let ns := w.ras.retiring.filter (fun n => cores.contains n)
  forAll ns retireCore { w with ras := { w.ras with retiring := w.ras.retiring.filter (fun n => !(cores.contains n)) } }

end Sys2Proof.Machine
end

