-- ==== Sys2Proof/Machine/Fatal.lean ====
section
/-!
DEFINITION. How a session ends (R31, R439, R454, R468): the unloading of an image, a fatal error, the loss of power;
and the trip.
-/
namespace Sys2Proof.Machine

/-! ### The end of an image's session -/

/-- Registers an unloaded image leaves as they are: GLB, PWR, RAS, D2D, the thermal ceilings PWR arms, fuses and the
mode epoch. Every
other register returns to its reset value (DESIGN CHOICE). -/
def keptReg (off : Nat) : Bool :=
  off < 0x100000 || (0x800000 ≤ off && off < 0xB00000) || (0x300400 ≤ off && off < 0x300480) || off = rNET_MAC_BASE ||
    off = rFE_EPOCH

/-- The lanes that failed in this session (R465), by port. -/
def laneEntries (w : World) : List (List Byte) :=
  (List.range 20).flatMap (fun p => (List.range 9).filterMap (fun l =>
    if bit (fld w (rNET_PORT_STATUS p) 16 9) l && !(bit (mgetD w.ras.lanes p 0) l) then
      some (recEntry 5 [BitVec.ofNat 8 p, BitVec.ofNat 8 l])
    else none))

/-- Every block but GLB, PWR and RAS loses its state; what memory holds stays. -/
def endSession (w : World) : World :=
  let w := forAll (laneEntries w) addEntry w
  { w with
    regs := w.regs.filter (fun r => keptReg r.1)
    irq := { w.irq with
      waiting := w.irq.waiting.filter (fun m => m.ring < 64)
      flight := w.irq.flight.filter (fun f => f.1 < 64) }
    mem := { Mem.reset with
      bytes := w.mem.bytes, poison := w.mem.poison, host := w.mem.host, lines := w.mem.lines
      invBusy := w.mem.invBusy, sysBusy := w.mem.sysBusy, later := w.mem.later }
    cores := [], fe := Fe.reset, sched := Sched.reset, cas := Cas.reset, saf := Saf.reset, nbgs := []
    dbg := Dbg.reset, net := Net.reset, ftb := Ftb.reset
    d2d := { w.d2d with reqs := [], cmds := [], tasks := [] }
    ras := { w.ras with testing := [], retiring := [], reloads := [] } }

/-! ### Fatal errors (R468) -/

/-- The registers that the descriptor tree reads. -/
def treeReg (off : Nat) : Bool :=
  (rSCHED_PART_CFG 0 ≤ off && off < rSCHED_PART_CFG 16) || (rCAS_PART_CFG 0 ≤ off && off < rCAS_PART_CFG 16) ||
    off = rSAF_CFG || off = rNET_TWIN_STATUS

/-- The registers of the host notification rings, by which the message of a fatal error still goes out. -/
def hostRingReg (off : Nat) : Bool := rFE_HN_BASE 0 ≤ off && off < rFE_HN_BASE 64

/-- A fatal error: it is logged and its message sent; every core, engine and port stops, and nothing else is
delivered. The tree, which R28 does not let a fatal error change, stays as it was. A SHUTDOWN that runs ends with no
record (R474). -/
def fatalError (kind src addr : Nat) (w : World) : World :=
  if fld w rRAS_STATUS 0 1 = 1 then w
  else
    let v := endSession w
    let w := { v with
      regs := w.regs.filter (fun r => keptReg r.1 || treeReg r.1 || hostRingReg r.1)
      net := { Net.reset with twin := w.net.twin }
      irq := { w.irq with inbox := [], waiting := [], flight := [] }
      pwr := { w.pwr with runs := w.pwr.runs.filter (fun r => r.op ≠ 5), wasFor := w.pwr.wasFor.filter (fun r => r.op ≠ 5) } }
    let w := if w.pwr.wasFor.isEmpty then { w with pwr := { w.pwr with was := none } } else w
    let w := if w.pwr.runs.isEmpty then fldSet w rPWR_CMD_STATUS 63 1 0 else w
    rasLog kind 3 src none false addr (fldSet (fldSet w rRAS_STATUS 2 2 0) rRAS_STATUS 0 1 1)

/-- A condition of R463 that arises in service: the module is unserviceable, which is fatal. -/
def unserviceable (kind src addr : Nat) (w : World) : World := fatalError kind src addr (fldSet w rRAS_STATUS 1 1 1)

/-- No cluster has a core in service any more (R463): RAS_STATUS says so, and that is fatal (R468). -/
def seeService (w : World) : World :=
  if configured w && fld w rRAS_STATUS 1 1 = 1 then fatalError kindCore 0x001 0 w else w

/-! ### Pages out of service (R466, R472) -/

/-- Takes one page out of a pool: at once if it is free, else when its object is freed. -/
def retireInPool (page : Nat) (p : Pool) : Pool :=
  let i := page - p.base / 65536
  if p.base / 65536 ≤ page && i < p.total then { p with used := sIns p.used i, bad := sIns p.bad i } else p

/-- Retires a 64 KiB page of HBM: it leaves its pool, is counted, logged and entered in the record. More than 4,096 of
one stack are fatal (R463, R468). -/
def retirePage (page : Nat) (w : World) : World :=
  if (retiredPages w).contains page then w
  else
    let pa := 65536 * page
    let s := stackOf w pa
    let w := { w with mem := { w.mem with hbmPools := w.mem.hbmPools.map (fun p => (p.1, retireInPool page p.2)) } }
    let w := rasRefresh (addEntry (recEntry 4 (natLe page 8)) (bump w rRAS_PAGES_RETIRED 1))
    let w := rasLog kindPage 0 (0x030 + s) none false pa w
    if 4096 < fld w (rRAS_HBM s) 32 13 then unserviceable kindHbm (0x030 + s) pa w else w

/-- Accesses to the `n` pages of 64 KiB from a frame on wait no longer. -/
def unhold (frame n : Nat) (w : World) : World :=
  let hold := (List.range n).map (· + frame / 65536)
  { w with mem := { w.mem with held := w.mem.held.filter (fun h => !(hold.contains h)) } }

/-- The oldest reload is over. -/
def reloadDone (w : World) : World :=
  let w := { w with ras := { w.ras with reloads := w.ras.reloads.tail } }
  if w.ras.reloads.isEmpty then fldSet w rRAS_STATUS 2 1 0 else w

/-! ### Loss of power (R439, R489, R495, R496) -/

/-- The registers that stay while P48V does: the fuses', PWR_TRIP_INFO, and the RAS log's status where the log stays. -/
def alwaysRegs (log : Bool) (w : World) : Map W64 :=
  let regs := (w.regs.filter (fun r => r.1 = rPWR_TRIP_INFO || r.1 = rRAS_LIFECYCLE || (log && r.1 = rRAS_LOG_STATUS)))
  (fuseRegs ++ regs).foldl (fun m r => mset m r.1 (if r.1 = rRAS_LIFECYCLE && w.pins.retn then 2 else r.2)) []

/-- Everything outside the always-on domain is lost; the device is in phase POWER_UP. Outside the module nothing
changes. `log`: the always-on domain keeps the RAS log. -/
def powerLost (log : Bool) (w : World) : World :=
  let v := { World.reset with
    now := w.now, freeIdx := w.freeIdx, outs := w.outs
    mem := { Mem.reset with host := w.mem.host }
    log := if log then w.log else []
    regs := alwaysRegs log w
    pwr := { Pwr.reset with pcieDown := some w.now }
    pins := { w.pins with pwrgd := false, tripAt := none } }
  if w.pins.pwrgd then pinOut 0 0 v else v

/-- The PCU or the stage has found a reason to trip (R439): the cause is recorded and its message sent. The 1.8 V rail
goes within 10 µs, which is when time next passes. -/
def trip (cause source : Nat) (w : World) : World :=
  if !w.pins.pwrgd || w.pins.tripAt.isSome then w
  else
    let w := rgSet w rPWR_TRIP_INFO (source % 256 * 256 + cause)
    let w := platformEvent [2, cause, source] (sendMsg 0x0A8 devCtx stOK (0x10 * 2 ^ 56) w)
    { w with pins := { w.pins with tripAt := some w.now } }

/-- The rail is removed and TRIP_N goes low. -/
def railGone (w : World) : World := match w.pins.tripAt with
  | none => w
  | some _ => pinOut 1 0 { powerLost false w with pins := { w.pins with pwrgd := false, tripAt := none, trip := true } }

/-- DESIGN CHOICE: on an empty queue 1 ns passes. FTBCLK runs one cycle (R369), SCLK two, which SCHED_REG_WAIT counts while a
bucket holds a request (R366), and a rail that is to trip goes; everything else that time brings about is a command of its
own. -/
def tick (w : World) : World :=
  railGone (ftbTick { (if w.sched.holding.isEmpty then w else bump w rSCHED_REG_WAIT 2) with now := w.now + 1 })

end Sys2Proof.Machine
end

