-- ==== Sys2Proof/Machine/KernelMem.lean ====
section
/-!
DEFINITION. Classes MEM and ATOM of the kernel instruction set (R138, R139, R147, R148, R151, R165).
-/
namespace Sys2Proof.Machine

/-! ### The MEM layout (R138) -/

/-- The signed offset: 16 bits, or the second word's immediate in the long form. -/
def mOff (i : Iss) : Int := if fLong i then sextInt i.w2 32 else sextInt i.w1 16

/-- Reserved spaces and sizes, an unused index field, an offset field beside the long form's. -/
def memIllegal (i : Iss) : Bool :=
  6 ≤ mSpace i || 7 ≤ mSize i || (fB i ≠ 0 && mSpace i ≠ 1 && mSpace i ≠ 3) || (fLong i && bits i.w1 0 16 ≠ 0)

/-- The address of a lane: modulo 2^64 in global spaces, modulo 2^32 in the others. -/
def memAddr (i : Iss) (g : Group) (l : Nat) : Nat :=
  match mSpace i with
  | 0 => intCode 64 ((gPair g (fA i) l : Int) + mOff i)
  | 1 => intCode 64 ((uPair g (fA i) : Int) + (gRead g (fB i) l).toInt + mOff i)
  | 2 => intCode 32 (((gRead g (fA i) l).toNat : Int) + mOff i)
  | 3 => intCode 32 (((uRead g (fA i)).toNat : Int) + (gRead g (fB i) l).toNat + mOff i)
  | 4 => intCode 64 ((uPair g (fA i) : Int) + mOff i)
  | _ => intCode 32 (((uRead g (fA i)).toNat : Int) + mOff i)

def isSlm (i : Iss) : Bool := mSpace i = 2 || mSpace i = 3

/-- The lanes an access is made for; a uniform one is made once, on behalf of the lowest. -/
def memLanes (uniform : Bool) (i : Iss) : List Nat := if uniform then (lanesOf i.ex).take 1 else lanesOf i.ex

/-- The trap of a MEM instruction at issue: encoding, LCB range, SLM alignment and bounds (R147, R165). -/
def memTrap (uniform : Bool) (bad : Iss → Bool) (i : Iss) (w : World) : Option Nat :=
  let g := groupOf w i.core i.slot
  let l := launchOn w i.core
  let n := sizeBytes (mSize i)
  let addrs := (memLanes uniform i).map (memAddr i g)
  firstTrap (memIllegal i || bad i) false
    (mSpace i = 5 && addrs.any (fun a => 512 < a + n))
    (isSlm i && addrs.any (fun a => a % n ≠ 0))
    (isSlm i && addrs.any (fun a => slmOut l a n))

def memMeaning (uniform : Bool) (bad : Iss → Bool) (eff : Iss → World → World) : Meaning :=
  { uses := fun i _ => memUses uniform i
    trap := memTrap uniform bad
    waits := fun i w => mSpace i ≠ 5 && trackerFull w i.core
    eff := eff }

/-- The requests of an access, with the data of a store. -/
def memReqs (uniform store : Bool) (i : Iss) (g : Group) : List LaneReq :=
  (memLanes uniform i).map (fun l =>
    ⟨l, memAddr i g l, if store then getG g (fD i) (sizeRegs (mSize i)) l % 2 ^ (8 * sizeBytes (mSize i)) else 0, 0⟩)

/-- A load from the launch constant buffer (R175): its value is there at once. -/
def lcbLoad (i : Iss) (l : CoreLaunch) (g : Group) (lane : Nat) : Nat :=
  loadValue (mSize i) (leNat ((l.lcb.drop (memAddr i g lane)).take (sizeBytes (mSize i))))

def ldEff (i : Iss) (w : World) : World :=
  if mSpace i = 5 then
    let l := launchOn w i.core
    updGroup i.core i.slot (fun g =>
      forAll (lanesOf i.ex) (fun lane h => putG (fD i) (sizeRegs (mSize i)) lane (lcbLoad i l g lane) h) g) w
  else
    pushAccess (isSlm i) i .ld (mSpace i = 4) (fD i) (mSize i) (memReqs false false i (groupOf w i.core i.slot)) w

def stEff (i : Iss) (w : World) : World :=
  pushAccess (isSlm i) i .st false (fD i) (mSize i) (memReqs false true i (groupOf w i.core i.slot)) w

def lduEff (i : Iss) (w : World) : World :=
  if mSpace i = 5 then
    let l := launchOn w i.core
    updGroup i.core i.slot (fun g => match leadLane i with
      | some lane => putU (fD i) (sizeRegs (mSize i)) (lcbLoad i l g lane) g
      | none => g) w
  else pushAccess false i .ldUniform true (fD i) (mSize i) (memReqs true false i (groupOf w i.core i.slot)) w

def execLd (a : At) (s : State) := run (issue 3 0 (memMeaning false noBad ldEff) a) s
def execSt (a : At) (s : State) := run (issue 3 1 (memMeaning false (fun i => 4 ≤ mSpace i) stEff) a) s
def execLdu (a : At) (s : State) := run (issue 3 2 (memMeaning true (fun i => mSpace i < 4) lduEff) a) s

/-! ### The ATOM layout (R139) -/

def aOff (i : Iss) : Int := sextInt i.w1 12

def atomAddr (i : Iss) (g : Group) (l : Nat) : Nat :=
  if aSlm i then intCode 32 (((gRead g (fA i) l).toNat : Int) + aOff i)
  else intCode 64 ((gPair g (fA i) l : Int) + aOff i)

def atomTrap (op : Nat) (i : Iss) (w : World) : Option Nat :=
  let g := groupOf w i.core i.slot
  let l := launchOn w i.core
  let n := atomBytes (aType i)
  let addrs := (lanesOf i.ex).map (atomAddr i g)
  firstTrap (!(atomLegal op (aType i)) || (op ≠ 7 && fC i ≠ 0)) false false
    (aSlm i && addrs.any (fun a => a % n ≠ 0)) (aSlm i && addrs.any (fun a => slmOut l a n))

def atomEff (op : Nat) (i : Iss) (w : World) : World :=
  let g := groupOf w i.core i.slot
  let k := if aType i = 3 then 2 else 1
  pushAccess (aSlm i) i (.atom op (aType i)) false (fD i) (if aType i = 3 then 5 else 4)
    ((lanesOf i.ex).map (fun l => ⟨l, atomAddr i g l, getG g (fB i) k l, if op = 7 then getG g (fC i) k l else 0⟩)) w

def atomMeaning (op : Nat) : Meaning :=
  { uses := fun i _ => atomUses op i
    trap := atomTrap op
    waits := fun i w => trackerFull w i.core
    eff := atomEff op }

def execAtomAdd (a : At) (s : State) := run (issue 4 0 (atomMeaning 0) a) s
def execAtomMin (a : At) (s : State) := run (issue 4 1 (atomMeaning 1) a) s
def execAtomMax (a : At) (s : State) := run (issue 4 2 (atomMeaning 2) a) s
def execAtomAnd (a : At) (s : State) := run (issue 4 3 (atomMeaning 3) a) s
def execAtomOr (a : At) (s : State) := run (issue 4 4 (atomMeaning 4) a) s
def execAtomXor (a : At) (s : State) := run (issue 4 5 (atomMeaning 5) a) s
def execAtomExch (a : At) (s : State) := run (issue 4 6 (atomMeaning 6) a) s
def execAtomCas (a : At) (s : State) := run (issue 4 7 (atomMeaning 7) a) s

end Sys2Proof.Machine
end

