-- ==== Sys2Proof/Machine/MemEvents.lean ====
section
/-!
DEFINITION. The steps of a core's memory accesses after issue: the SLM grant, the check of a global access, the
table walk, the line request at its home, the HBM run, and the returns.
-/
namespace Sys2Proof.Machine

/-! ### SLM (R168, R169) -/

/-- The quarter the thread side grants next (R168). -/
def grantQuarter (c : Core) : Option Nat :=
  ((List.range 4).map (fun i => (c.lastGrant + 1 + i) % 4)).find? (fun q => c.slmq.any (fun a => a.slot / 16 = q))

/-- Bytes an SLM access reads and writes on the thread side. -/
def slmTraffic (a : Access) : Nat × Nat :=
  let n := a.reqs.length * accBytes a
  match a.kind with
  | .st => (0, n)
  | .atom _ _ => (n, n)
  | _ => (n, 0)

/-- The grant in the cycle in which its core stopped: the instruction may consume poison too, and does nothing else (R471). -/
def lateGrant (n : Nat) (w : World) : World :=
  match (coreOf w n).trapCycle with
  | none => w
  | some t =>
    if t.time ≠ w.now || t.poison then w
    else match grantQuarter { coreOf w n with slmq := t.slm } with
      | none => w
      | some q => match t.slm.find? (fun a => a.slot / 16 = q) with
        | some a => if slmPoisonRead (coreOf w n) a then corePoison n kindCore false ((a.reqs.map (·.addr)).headD 0) w else w
        | none => w

/-- SLM_GRANT: the thread side grants the next waiting quarter's oldest SLM instruction and performs it. It
waits while the launch-start clear runs (R166). `cycles` is how long some quarter has waited. -/
def slmGrant (n cycles : Nat) (w : World) : World :=
  let c := coreOf w n
  if c.stopped then lateGrant n w
  else if c.clearBusy then w
  else match grantQuarter c with
    | none => w
    | some q =>
      match c.slmq.find? (fun a => a.slot / 16 = q) with
      | none => w
      | some a =>
        let w := bump (bump w (rCM_SLM_REPLAY n) (slmPasses a - 1)) (rCM_SLM_WAIT n) cycles
        let w := bump (bump w (rDBG_SLM_RD n) (slmTraffic a).1) (rDBG_SLM_WR n) (slmTraffic a).2
        let bad := slmPoisonRead c a
        let w := updCore n (fun c =>
          { slmPerform a c with slmq := c.slmq.filter (·.id ≠ a.id), lastGrant := q }) w
        if bad then corePoison n kindCore false ((a.reqs.map (·.addr)).headD 0) w else w

def execSlmGrant (n cycles : Nat) (s : State) := run (slmGrant n cycles) s

/-! ### Checking a global access (R123, R247 to R252) -/

/-- A translation held in a table of leaves. -/
def tlbLookup (t : Map W64) (ctx va : Nat) : Option Leaf :=
  match mget t (pteKey ctx 1 va) with
  | some e => some ⟨e.toNat, 1⟩
  | none => match mget t (pteKey ctx 0 va) with
    | some e => some ⟨e.toNat, 0⟩
    | none => none

def clusterTlb (w : World) (n : Nat) : Map W64 := mgetD w.mem.ctlb (n / 16) []

/-- A translation the core or its cluster caches. -/
def coreTlb (w : World) (n ctx va : Nat) : Option Leaf :=
  match tlbLookup (coreOf w n).tlb ctx va with
  | some l => some l
  | none => tlbLookup (clusterTlb w n) ctx va

/-- What the check of one lane finds. -/
inductive LaneCheck where
  | ok (pa legacy : Nat) (normal : Bool)
  | walks
  | waits
  | traps (kind : Nat) (fault : Option (Nat × Nat))
  deriving DecidableEq, Repr

/-- The check of a lane against a MAPPED leaf (R65, R148, R165, R251). -/
def checkLeaf (a : Access) (addr : Nat) (l : Leaf) : LaneCheck :=
  let legacy := pteLegacy l.pte
  let isAtom := match a.kind with | .atom _ _ => true | _ => false
  let writes := match a.kind with | .ld => false | .ldUniform => false | _ => true
  if 6 ≤ legacy then .traps tFormat none
  else if legacy ≠ 0 then
    if isAtom || a.size ≠ 4 || addr % 4 ≠ 0 then .traps tOperand none
    else if writes && pteWp l.pte then .traps tMemFault (some (2, l.level))
    else .ok (legacyPa l addr) legacy (pteAttr l.pte = 0)
  else if addr % accBytes a ≠ 0 then .traps tMisaligned none
  else if writes && pteWp l.pte then .traps tMemFault (some (2, l.level))
  else if isAtom && pteAttr l.pte ≠ 0 then .traps tMemFault (some (3, l.level))
  else .ok (leafPa l addr) 0 (pteAttr l.pte = 0)

/-- The check of one lane, with the page-in it may ask for. -/
def checkLane (n : Nat) (l : CoreLaunch) (a : Access) (addr : Nat) (w : World) : LaneCheck × World :=
  if 2 ^ 57 ≤ addr then (.traps tMemFault (some (1, 4)), w)
  else match coreTlb w n l.ctx addr with
    | some lf => if w.mem.held.contains (leafPa lf addr / 65536) then (.waits, w) else (checkLeaf a addr lf, w)
    | none =>
      let r := pageState l.ctx addr false (some l.work) w
      match r.1 with
      | .fault c v => (.traps tMemFault (some (c, v)), r.2)
      | .waits => (.waits, r.2)
      | .ready => (.walks, r.2)

/-- The check of every lane in ascending order: the first trap stands, else a wait, else a walk. -/
def checkLanes (n : Nat) (l : CoreLaunch) (a : Access) (w : World) : (LaneCheck × Nat) × Map (Nat × Nat × Bool) × World :=
  a.reqs.foldl (fun (acc : (LaneCheck × Nat) × Map (Nat × Nat × Bool) × World) r =>
    match acc.1.1 with
    | .traps _ _ => acc
    | st =>
      let c := checkLane n l a r.addr acc.2.2
      match c.1 with
      | .ok pa lg nm => (acc.1, mset acc.2.1 r.lane (pa, lg, nm), c.2)
      | .walks => ((if st = .waits then .waits else .walks, acc.1.2), acc.2.1, c.2)
      | .waits => ((.waits, acc.1.2), acc.2.1, c.2)
      | .traps k f => ((.traps k f, r.addr), acc.2.1, c.2)) ((.ok 0 0 false, 0), [], w)

def updAccess (id : Nat) (f : Access → Access) (c : Core) : Core :=
  { c with accs := c.accs.map (fun a => if a.id = id then f a else a) }

/-- The core sends an access: it takes its place in the order R173 keeps, and `lines` are its requests. -/
def sendAccess (n : Nat) (a : Access) (m : Map (Nat × Nat × Bool)) (lines : List Nat) (f : Access → Access) (w : World) : World :=
  updCore n (fun c => { updAccess a.id (fun a => f { a with
    phase := .lines, pas := m.map (fun p => (p.1, p.2.1)), sent := c.sends, todo := lines, asked := lines.length
    legacy := (m.filter (fun p => p.2.2.1 ≠ 0)).map (fun p => (p.1, p.2.2.1)) }) c with sends := c.sends + 1 }) w

/-- A load whose lanes have translated: a lane of an untagged NORMAL page is served from a line in the L1 or the constant
cache, the lines of every other lane are requested (R66, R172). -/
def loadLines (n : Nat) (a : Access) (m : Map (Nat × Nat × Bool)) (w : World) : World :=
  let c := coreOf w n
  let cached := m.filter (fun p => p.2.2.2 && p.2.2.1 = 0)
  let held (ln : Nat) : Option (List Byte) := if a.const then mget c.ccache ln else mget c.l1 ln
  let hits := cached.filterMap (fun p => (held (p.2.1 / 128)).map (fun bs => (p.1, bs)))
  let hitLines := (cached.map (fun p => p.2.1 / 128)).foldl (fun l ln => if (held ln).isSome then sIns l ln else l) []
  let todo := ((m.filter (fun p => (mget hits p.1).isNone)).map (fun p => p.2.1 / 128)).foldl sIns []
  let fills := ((cached.filter (fun p => (mget hits p.1).isNone)).map (fun p => p.2.1 / 128)).foldl sIns []
  let hitBytes := hits.length * accBytes a
  let w := if a.const then w
    else bump (bump (bump w (rCM_L1_HIT n) hitLines.length) (rCM_L1_MISS n) fills.length) (rDBG_L1_HIT n) hitBytes
  sendAccess n a m todo (fun a => { a with cacheable := fills, hits := hits }) w

/-- A store or atomic whose lanes have translated: the L1 is updated or its line dropped (R173, R174), and
every line is requested. -/
def writeLines (n : Nat) (a : Access) (m : Map (Nat × Nat × Bool)) (w : World) : World :=
  let lines := (m.map (fun p => p.2.1 / 128)).foldl sIns []
  let isSt := decide (a.kind = .st)
  let patch (c : Core) : Core := a.reqs.foldl (fun c r => match mget m r.lane with
    | none => c
    | some (pa, lg, _) =>
      let ln := pa / 128
      match (if isSt && lg = 0 then mget c.l1 ln else none) with
      | some bs =>
        let c' := l1Drop ln c
        { c' with l1 := mset c'.l1 ln (patchLine bs pa r.data (sizeBytes a.size)) }
      | none => l1Drop ln c) c
  sendAccess n a m lines (fun a => a) (updCore n patch w)

def isWrite (a : Access) : Bool := match a.kind with
  | .ld => false
  | .ldUniform => false
  | _ => true

/-- An access waits for its check while an earlier store or atomic of the core is unchecked, so that it sees it (R173);
a store or atomic also while an earlier load of its group is, which must not see it. -/
def earlierWrite (c : Core) (a : Access) : Bool :=
  c.accs.any (fun b => b.id < a.id && b.phase ≠ .lines && (isWrite b || (isWrite a && b.slot = a.slot && b.number = a.number)))

/-- An access whose check fails: its launch traps (R123). -/
def accessTrap (n : Nat) (l : CoreLaunch) (a : Access) (kind : Nat) (fault : Option (Nat × Nat)) (addr : Nat) (w : World) :
    World :=
  let w := match fault with
    | some (cause, level) => memFault cause level l.ctx (0x100 + n) addr w
    | none => w
  kernelTrap n a.slot a.mask a.pc kind (updCore n (fun c => { c with accs := c.accs.filter (·.id ≠ a.id) }) w)

/-- The check of another access in the cycle in which its core trapped (R126): it may trap too, and does nothing else. -/
def lateCheck (n id : Nat) (l : CoreLaunch) (w : World) : World :=
  match (coreOf w n).trapCycle with
  | none => w
  | some t => match t.late.find? (·.id = id) with
    | none => w
    | some a =>
      if t.time ≠ w.now || a.phase = .lines then w
      else
        let r := checkLanes n l a w
        match r.1.1 with
        | .traps k f => accessTrap n l a k f r.1.2 (updCore n (fun c => { c with
            trapCycle := some { t with late := t.late.filter (·.id ≠ id) } }) r.2.2)
        | _ => w

/-- MEMORY_ACCESS_CHECK: a global access is translated and checked. It traps, waits, asks for a page, begins a
table walk, or goes on to its lines, when the trackers have room for them (R244). -/
def accessCheck (n id : Nat) (w : World) : World :=
  let c := coreOf w n
  match c.launch, c.accs.find? (·.id = id) with
  | some l, none => lateCheck n id l w
  | some l, some a =>
    if (a.phase ≠ .unchecked && a.phase ≠ .paging) || earlierWrite c a then w
    else
      let r := checkLanes n l a w
      match r.1.1 with
      | .traps k f => accessTrap n l a k f r.1.2 r.2.2
      | .waits => updCore n (updAccess id (fun a => { a with phase := .paging })) r.2.2
      | .walks => updCore n (updAccess id (fun a => { a with phase := .walking })) r.2.2
      | .ok _ _ _ =>
        let w := if isWrite a then writeLines n a r.2.1 r.2.2 else loadLines n a r.2.1 r.2.2
        if trackerOver w n then r.2.2 else w
  | _, _ => w

def execMemoryAccessCheck (n id : Nat) (s : State) := run (accessCheck n id) s

/-- Installs a leaf in a translation cache of `cap` entries. -/
def tlbInstall (cap ctx va : Nat) (l : Leaf) (t : Map W64) : Map W64 :=
  let k := pteKey ctx l.level va
  let t := if cap ≤ t.length && (mget t k).isNone then t.drop 1 else t
  mset t k (BitVec.ofNat 64 l.pte)

/-- TABLE_WALK_COMPLETE: the walks of an access return and their translations are installed (R247, R252). DESIGN CHOICE:
a walk reads every level; the spec names no cache of upper levels. -/
def walkComplete (n id : Nat) (w : World) : World :=
  let c := coreOf w n
  match c.launch, c.accs.find? (·.id = id) with
  | some l, some a =>
    if a.phase ≠ .walking then w
    else
      let w := a.reqs.foldl (fun w r =>
        match coreTlb w n l.ctx r.addr, walk w l.ctx r.addr with
        | none, .ok lf =>
          let w := walkReads l.ctx r.addr w
          if pteKind lf.pte = 1 then
            let w := updCore n (fun c => { c with tlb := tlbInstall 64 l.ctx r.addr lf c.tlb }) w
            { w with mem := { w.mem with
              ctlb := mset w.mem.ctlb (n / 16) (tlbInstall 4096 l.ctx r.addr lf (clusterTlb w n)) } }
          else w
        | _, _ => w) w
      updCore n (updAccess id (fun a => { a with phase := .unchecked })) w
  | _, _ => w

def execTableWalkComplete (n id : Nat) (s : State) := run (walkComplete n id) s

/-! ### The home (R234 to R241) -/

/-- An earlier request of the core to the same home has not arrived yet (R173). -/
def earlierRequest (w : World) (c : Core) (a : Access) (line : Nat) : Bool :=
  c.accs.any (fun b => b.sent < a.sent && b.phase = .lines && b.todo.any (fun t => homeOf w t = homeOf w line))

/-- A load held until the core's stores to its line are acknowledged (R173). -/
def heldByStore (c : Core) (a : Access) (line : Nat) : Bool :=
  (match a.kind with | .ld => true | .ldUniform => true | _ => false) &&
    c.accs.any (fun b => b.sent < a.sent && b.phase = .lines && b.kind = .st && b.pas.any (fun p => p.2 / 128 = line))

/-- A hart's reservation holds off the recall for a write of a core's access to a line (R279); a load waits behind a write
that is held so (R268). -/
def heldByReservation (w : World) (a : Access) (line : Nat) (load : Bool) : Bool :=
  if load then [2 * line, 2 * line + 1].any (laterAt w)
  else (halvesOf line ((laneOf a line).map (·.2))).any (heldBy w none)

/-- A core's request for a line of the chiplet window is sent over Finov (R426); while the site is not ACTIVE it ends
with ERR, which is a memory fault (R432). -/
def chipLineRequest (n : Nat) (a : Access) (line : Nat) (w : World) : World :=
  let pa := 128 * line
  if !(chipActive w) then
    kernelTrap n a.slot a.mask a.pc tMemFault (updCore n (fun c => { c with accs := c.accs.filter (·.id ≠ a.id) }) w)
  else
    let ftz := match (coreOf w n).launch with | some l => l.ftz | none => false
    let w := if a.kind = .st then
        let o := storeOverlay ftz a line
        let mask := o.1.foldl (fun m p => m + 2 ^ (p.1 % 128)) 0
        let bs := (List.range 128).map (fun i => mgetD o.1 (pa + i) 0)
        let w := updCore n (updAccess a.id (fun a => { a with fl := a.fl ||| o.2 })) w
        if o.1.length = 128 then chipRequest (.core n a.id) 2 (chipOff pa) bs w
        else chipRequest (.core n a.id) 3 (chipOff pa) (natLe mask 16 ++ bs) w
      else chipRequest (.core n a.id) 1 (chipOff pa) [] w
    updCore n (updAccess a.id (fun a => { a with todo := a.todo.filter (· ≠ line) })) w

/-- SLICE_LINE_REQUEST: a line request of a core's access arrives at its home and is served as a hit, a miss or
a merge; one of a page that is RELOADING waits (R472). `victim` names the line a fill displaces from a full set. The partition's bucket may hold it (R345). -/
def sliceRequest (n id line victim : Nat) (w : World) : World :=
  let c := coreOf w n
  match c.accs.find? (·.id = id) with
  | none => w
  | some a =>
    let isLd := match a.kind with | .ld => true | .ldUniform => true | _ => false
    if a.phase ≠ .lines || !(a.todo.contains line) || homeBusy w line || w.mem.held.contains (line / 512) || earlierRequest w c a line ||
        heldByStore c a line || heldByReservation w a line isLd then w
    else if !(lineAdmitted w (launchOn w n).part (128 * line)) then holdLine (launchOn w n).part (128 * line) w
    else if inChip (128 * line) then chipLineRequest n a line w
    else
      let hint := if a.slot < 64 then a.slot else 0
      let w := if isLd && !a.const && a.cacheable.contains line then trainStream (0x100 + n) hint line w else w
      let full := a.kind = .st && decide ((storeOverlay false a line).1.length = 128)
      let use : LineUse := if isLd then .read else if full then .whole else .merge
      let w := lineRequest (.core n id) (accClass w a) use line victim (chargeLine (launchOn w n).part (128 * line) w)
      let ftz := match c.launch with | some l => l.ftz | none => false
      let r := serveLine ftz a line w
      updCore n (updAccess id (fun _ => { r.1 with todo := r.1.todo.filter (· ≠ line) })) r.2

def execSliceLineRequest (n id line victim : Nat) (s : State) := run (sliceRequest n id line victim) s

/-- The class a request is served as, and a fill as the best of those that wait for it (R236). -/
def reqClass (r : FillReq) : Nat := if r.aged then 0 else r.cls
def fillClass (f : Fill) : Nat := f.reqs.foldl (fun m r => min m (reqClass r)) 4

/-- HBM_RUN_COMPLETE: the run that holds a waiting line completes, with every waiting fill of its 512-byte
sector (R234). A class-0 run goes first and a prefetch last (R236). -/
def runComplete (line : Nat) (w : World) : World :=
  match w.mem.fills.find? (·.line = line) with
  | none => w
  | some f =>
    let others := w.mem.fills.filter (fun x => homeOf w x.line = homeOf w line && x.line / 4 ≠ line / 4)
    let mine := w.mem.fills.filter (fun x => x.line / 4 = line / 4)
    let cls := mine.foldl (fun m x => min m (fillClass x)) (fillClass f)
    if (cls ≠ 0 && others.any (fun x => fillClass x = 0)) || (cls = 4 && !others.all (fun x => fillClass x = 4)) then w
    else
      mine.foldl (fun w x => installFill x w) w

def execHbmRunComplete (line : Nat) (s : State) := run (runComplete line) s

/-- Has a bulk request waited age_limit SCLK cycles (2 per ns)? -/
def ripe (w : World) (r : FillReq) : Bool :=
  !r.aged && 1 ≤ r.cls && r.cls ≤ 3 && fld w rMEM_PRIO 16 16 ≤ 2 * (w.now - r.since)

/-- AGE_PROMOTE: the bulk requests for a line that have waited age_limit are served as class 0, and counted. -/
def agePromote (line : Nat) (w : World) : World :=
  match w.mem.fills.find? (·.line = line) with
  | none => w
  | some f => updFill line (fun f => { f with reqs := f.reqs.map (fun r => if ripe w r then { r with aged := true } else r) })
      (bump w rMEM_AGE_PROMOTE (f.reqs.filter (ripe w)).length)

def execAgePromote (line : Nat) (s : State) := run (agePromote line) s

/-- SLICE_INVALIDATE_COMPLETE: a slice has invalidated its lines after reset (R240). -/
def execSliceInvalidateComplete (slice : Nat) (s : State) :=
  run (fun w => if slice < 12 then { w with mem := { w.mem with invBusy := setBits w.mem.invBusy slice 1 0 } } else w) s

/-- SYSTEM_CACHE_INVALIDATE_COMPLETE (R246). -/
def execSystemCacheInvalidateComplete (s : State) := run (fun w => { w with mem := { w.mem with sysBusy := false } }) s

/-! ### Returns (R173, R238, R242) -/

/-- Does a fill hold data this access waits for? -/
def fillWaits (w : World) (n id : Nat) : Bool := w.mem.fills.any (fun f => f.reqs.any (fun r => r.user = some (.core n id)))

/-- The value a lane loads, with its flags. -/
def laneLoad (ftz : Bool) (a : Access) (lane : Nat) : Nat × Flags :=
  match mget a.pas lane with
  | none => (0, 0)
  | some pa =>
    let bs := (mget a.hits lane).getD (mgetD a.data (pa / 128) [])
    match mget a.legacy lane with
    | some code => legacyLoad ftz code (fromLine bs pa (legacyBytes code))
    | none => (loadValue a.size (fromLine bs pa (sizeBytes a.size)), 0)

/-- Writes an access's results to its group. -/
def returnAccess (ftz : Bool) (a : Access) (c : Core) : Core :=
  match a.kind with
  | .ld =>
    let vs := a.reqs.map (fun r => (r.lane, laneLoad ftz a r.lane))
    onAccGroup a (fun g => vs.foldl (fun g v => putG a.dst (sizeRegs a.size) v.1 v.2.1 g) g)
      { c with flags := vs.foldl (fun f v => f ||| v.2.2) c.flags }
  | .ldUniform =>
    match a.reqs.head? with
    | some r =>
      let v := laneLoad ftz a r.lane
      onAccGroup a (putU a.dst (sizeRegs a.size) v.1) { c with flags := c.flags ||| v.2 }
    | none => c
  | .atom _ ty =>
    onAccGroup a (fun g => if a.dst = 255 then g
      else forAll a.got (fun p g => putG a.dst (if ty = 3 then 2 else 1) p.1 p.2 g) g)
      { c with flags := c.flags ||| a.fl }
  | .st => { c with flags := c.flags ||| a.fl }

/-- Installs the lines an access filled. -/
def installFills (a : Access) (c : Core) : Core :=
  a.cacheable.foldl (fun c ln => match mget a.data ln with
    | some bs => if a.const then ccInstall ln bs c else l1Install ln bs c
    | none => c) c

/-- Does the access wait for an answer of the chiplet? -/
def chipWaits (w : World) (n id : Nat) : Bool := w.d2d.reqs.any (fun r => r.user = .core n id)

/-- Is an access ready to return: every line served, no fill and no answer outstanding? -/
def accessDone (w : World) (n : Nat) (a : Access) : Bool :=
  a.phase = .lines && a.todo.isEmpty && !(fillWaits w n a.id) && !(chipWaits w n a.id)

/-- Poison that an access returns is consumed (R471). PRESUMED: the kind of a line of the chiplet's is Finov's. -/
def consumeAccess (n : Nat) (a : Access) (w : World) : World :=
  let pa := (a.pas.map (·.2)).headD 0
  corePoison n (if inHost pa then kindLpddr else if inChip pa then kindFinov else kindHbm) true ((a.reqs.map (·.addr)).headD 0) w

/-- The return of an access in the cycle in which its core stopped: it may consume poison too, and does nothing else. -/
def lateReturn (n id : Nat) (w : World) : World :=
  match (coreOf w n).trapCycle with
  | none => w
  | some t => match t.late.find? (·.id = id) with
    | none => w
    | some a => if t.time = w.now && !t.poison && a.poison && accessDone w n a then consumeAccess n a w else w

/-- LOAD_RETURN: the data of a global load or the old values of an atomic return to the core. Poisoned data is
consumed (R471). -/
def loadReturn (n id : Nat) (w : World) : World :=
  let c := coreOf w n
  match c.accs.find? (·.id = id) with
  | none => lateReturn n id w
  | some a =>
    if a.kind = .st || !(accessDone w n a) then w
    else
      let w := if a.const then w else bump w (rDBG_L1_FILL n) (128 * a.cacheable.length)
      let ftz := match c.launch with | some l => l.ftz | none => false
      let fin (c : Core) : Core := { c with accs := c.accs.filter (·.id ≠ id) }
      if a.poison && !c.stopped then consumeAccess n a (updCore n fin w)
      else if c.stopped then lateReturn n id (updCore n (fun c => fin { c with flags := c.flags ||| a.fl }) w)
      else updCore n (fun c => fin (returnAccess ftz a (installFills a c))) w

def execLoadReturn (n id : Nat) (s : State) := run (loadReturn n id) s

/-- WRITE_ACKNOWLEDGE: a global store's acknowledgement returns from its point of coherence (R183). -/
def writeAck (n id : Nat) (w : World) : World :=
  match (coreOf w n).accs.find? (·.id = id) with
  | none => w
  | some a =>
    if a.kind ≠ .st || a.phase ≠ .lines || !a.todo.isEmpty || chipWaits w n id then w
    else updCore n (fun c => returnAccess false a { c with accs := c.accs.filter (·.id ≠ id) }) w

def execWriteAcknowledge (n id : Nat) (s : State) := run (writeAck n id) s

end Sys2Proof.Machine
end

