-- ==== Sys2Proof/Machine/Finov.lean ====
section
/-!
DEFINITION. Finov messages (R421 to R429): flits as they come in, and what each opcode does where it arrives. Link 0 is BD0
to BD1, 1 and 2 lead from the base dies to the IOD, 3 to the chiplet site. A command that is a message's arrival carries the
240-byte bodies of the flits that bring it; it serves the first message of its channel that waits, if that has its opcode.
-/
namespace Sys2Proof.Machine

def updD2d (f : D2d → D2d) (w : World) : World := { w with d2d := f w.d2d }

/-- A hart's exception that is raised and not yet taken (R282). -/
def hartRaise (h cause : Nat) (w : World) : World := updHart h (fun x => { x with trap := some cause }) w

/-- The result of a hart's memory operation, as its instruction receives it: the operation (0 load, 1 store, 2 AMO,
3 LR, 4 SC, 5 others), and 0, or 1 plus the cause of the exception it raises. -/
def hartOut (h op res : Nat) (data : List Byte) (w : World) : World := emit .hart [h, op, res] data w

/-- A store's error that its target reports after it has left the hart (R282). -/
def storeError (h pa : Nat) (w : World) : World :=
  rasLog kindStoreErr 4 (0x0E0 + h) none false pa (bump w rRAS_ACCESS_ERR 1)

/-! ### Isolation (R432) -/

/-- The instruction of a core's mover or array that runs: slot, mask, pc and place in the core's order. -/
def engineAt (c : Core) : Option (Nat × W32 × Nat) :=
  match c.tmRun, c.mx.drainer, c.mx.streams with
  | some e, _, _ => some (e.slot, e.mask, e.pc)
  | none, some e, _ => some (e.slot, e.mask, e.pc)
  | none, none, e :: _ => some (e.slot, e.mask, e.pc)
  | none, none, [] => none

/-- The data of the response to a request that could not be performed. -/
def errData (rsp : Nat) : List Byte := List.replicate (16 * ((opShape rsp).map (·.2)).getD 0) 0

/-- A request of the IOD to the chiplet ends with ERR. -/
def chipErr (r : ChipReq) (w : World) : World :=
  match r.user with
  | .core n id =>
    (match (coreOf w n).accs.find? (·.id = id) with
      | some a => kernelTrap n a.slot a.mask a.pc tMemFault (updCore n (fun c => { c with accs := c.accs.filter (·.id ≠ id) }) w)
      | none => w)
  | .hartLoad h _ _ => hartOut h 0 6 [] (hartRaise h 5 w)
  | .hartPair h _ _ => hartOut h 0 6 [] (hartRaise h 5 w)
  | .hartStore h pa => storeError h pa w
  | .engine (some n) => (match engineAt (coreOf w n) with
      | some x => kernelTrap n x.1 x.2.1 x.2.2 tMemFault (updCore n (fun c => { c with tmRun := none }) w)
      | none => w)
  | .engine none => w
  | .finov l rsp tag addr _ => finovSend l rsp tag addr fvErr (errData rsp) w

/-- The site is isolated for a reason of D2D_CHIP_STATUS. No channel or version is in use then. -/
def isolate (reason : Nat) (w : World) : World :=
  let st := fld w rD2D_CHIP_STATUS 0 2
  if st = 0 || st = 3 then w
  else
    let w := fldSet (fldSet w (rD2D_LINK_STATUS 3) 0 2 3) (rD2D_LINK_STATUS 3) 16 8 0
    let w := fldSet (fldSet w rD2D_CHIP_STATUS 0 2 3) rD2D_CHIP_STATUS 4 4 reason
    let w := closeLink 3 (fldSet (fldSet w rD2D_CHIP_CAP0 0 16 0) rD2D_CHIP_CAP0 16 8 0)
    let reqs := w.d2d.reqs
    let cmds := w.d2d.cmds
    let w := updD2d (fun d => { d with reqs := [], cmds := [], tasks := [], capAt := none }) w
    let w := forAll reqs chipErr w
    let w := forAll cmds (fun c w => endByCause c.work stTimeout 3 w) w
    sendMsg 0x0B0 devCtx stOK reason w

def execChipletIsolate (s : State) := run (fun w => if configured w then isolate 6 w else w) s

/-! ### Errors (R421, R429) -/

/-- A protocol error on a link's channel: logged, and fatal to the package on an internal link. -/
def protocolError (l ch cause : Nat) (w : World) : World :=
  let w := updFlits (fun f => { f with rx := mdel f.rx l }) (recordErr w rD2D_ERR (ch * 256 + l * 64 + cause))
  if l = 3 then isolate 5 (rasLog kindFinov 0 0x0B0 none false 0 w) else fatalError kindFinov (linkUnit l) l w

/-- ADAPTER_RETRY: a flit's retry number `n` (1 to 8), a corrected error of the link; one that still fails after the
eighth takes the link down for retraining, and the chiplet site is isolated (R432, R469). -/
def adapterRetry (l n : Nat) (ok : Bool) (w : World) : World :=
  if !(linkActive w l) || n = 0 || 8 < n then w
  else
    let src := if l = 3 then 0x0B0 else linkUnit l
    let w := rasLog kindFinov 0 src none false l (bump (bump w (rD2D_RETRY l) 1) rRAS_CE_COUNT 1)
    if ok || n < 8 then w
    else
      let w := recordErr w rD2D_ERR (l * 64 + 6)
      if l = 3 then isolate 7 w
      else fldSet (fldSet w (rD2D_LINK_STATUS l) 0 2 1) (rD2D_LINK_STATUS l) 16 8 0

def execAdapterRetry (l n : Nat) (ok : Bool) (s : State) := run (adapterRetry l n ok) s

/-! ### Flits as they come in (R423, R425, R429) -/

/-- The site uses a channel: MGMT always, the others as negotiated (R431). -/
def chipUses (w : World) (ch : Nat) : Bool := ch = 6 || (chipActive w && bit (fld w rD2D_CHIP_CAP0 0 16) ch)

/-- What is wrong with a header slot on a link, as D2D_ERR names it, 0 for nothing: 5 a message beyond the credits its sender
holds, or on a channel not in use. The chiplet's COH_REQ is a protocol error (R431). -/
def arrivalCause (w : World) (l : Nat) (h : List Byte) : Nat :=
  let ch := le h 0 1
  let c := headCause h
  if c ≠ 0 then c
  else if l = 3 && ch = chCohReq then 4
  else if l = 3 && chipActive w && !(chipUses w ch) then 5
  else if mgetD w.flits.may (creditKey l ch false) 0 < 1 || mgetD w.flits.may (creditKey l ch true) 0 < le h 2 1 then 5
  else 0

/-- The messages whose slots have all come on a link join their channels' queues. -/
def takeSlots (l : Nat) : Nat → World → World
  | 0, w => w
  | k + 1, w => match mgetD w.flits.rx l [] with
    | [] => w
    | h :: t =>
      if !(linkActive w l) then w
      else if arrivalCause w l h ≠ 0 then protocolError l (le h 0 1 % 16) (arrivalCause w l h) w
      else match nextMsg (h :: t) with
        | none => w
        | some (m, rest) => takeSlots l k (updFlits (fun f => { f with
            rx := msetList f.rx l rest, may := spend l m f.may
            inq := mset f.inq (chanKey l m.channel) (mgetD f.inq (chanKey l m.channel) [] ++ [m]) }) w)

/-- One flit body comes in: its credits are regained, so that messages which waited for them leave, and its slots follow
those that came before. -/
def takeFlit (l : Nat) (b : List Byte) (w : World) : World :=
  if !(linkActive w l) then w
  else
    let w := bump w (rD2D_FLITS_RX l) 1
    match parseFlit b with
    | none => protocolError l 0 (flitCause b) w
    | some f =>
      let w := bump w (rDBG_D2D_RX l) (16 * f.slots.length)
      let w := forAll f.credits (fun c w => pumpOut l c.channel (updFlits (fun x => { x with
        can := maddTo x.can (creditKey l c.channel c.data) c.count }) w)) w
      let all := mgetD w.flits.rx l [] ++ f.slots
      takeSlots l all.length (updFlits (fun x => { x with rx := msetList x.rx l all }) w)

/-- Flit bodies, 240 bytes each, come in one after the other. -/
def takeFlits (l : Nat) (flits : List Byte) (w : World) : World :=
  iter (flits.length / 240) (fun i w => takeFlit l ((flits.drop (240 * i)).take 240) w) w

/-- The first message of a channel has been served: its credits are owed to its sender (R425). -/
def served (l : Nat) (m : FinovMsg) (w : World) : World :=
  if !(linkActive w l) then w
  else
    let k := chanKey l m.channel
    updFlits (fun f => { f with
      inq := msetList f.inq k (mgetD f.inq k []).tail
      owed := maddTo (maddTo f.owed (creditKey l m.channel false) 1) (creditKey l m.channel true) m.data.length }) w

/-- Flits come in on a link, and the first message of a channel is served if it has the opcode; a message that `f` does not
serve yet stays. Before the site is ACTIVE only MGMT is served on its link. -/
def finovTake (l ch op : Nat) (flits : List Byte) (f : FinovMsg → World → World × Bool) (w : World) : World :=
  if !(linkActive w l) then w
  else
    let w := takeFlits l flits (flitsDue l w)
    if !(linkActive w l) || (l = 3 && ch ≠ chMgmt && !(chipActive w)) then w
    else match mgetD w.flits.inq (chanKey l ch) [] with
      | [] => w
      | m :: _ =>
        if m.opcode ≠ op then w
        else if l = 3 && !(chipUses w ch) then protocolError l ch 5 w
        else
          let r := f m w
          if r.2 then served l m r.1 else r.1

/-- The same for a message that is served at once. -/
def finovRx (l ch op : Nat) (flits : List Byte) (f : FinovMsg → World → World) (w : World) : World :=
  finovTake l ch op flits (fun m w => (f m w, true)) w

/-! ### Requests to a point of coherence (R426, R431) -/

/-- Where a request goes. -/
inductive ReqTarget where
  | home (pa : Nat)
  | waits
  | bad
  deriving DecidableEq, Repr

/-- The address of a request of `n` bytes. On an internal link it is physical. The chiplet's is virtual, in the
context of the command whose tag it carries, and reaches off-loaded pages by page-in. -/
def reqTarget (l : Nat) (m : FinovMsg) (addr n : Nat) (write atomic : Bool) (w : World) : ReqTarget × World :=
  if l < 3 then (if !m.va && (isMain addr || inChip addr) then .home addr else .bad, w)
  else match w.d2d.cmds.find? (·.tag = m.tag) with
    | none => (.bad, w)
    | some c =>
      if !m.va then (.bad, w)
      else
        let r := rangeState c.ctx addr n write (some c.work) w
        match r.1.1 with
        | .waits => (.waits, r.2)
        | .fault _ _ => (.bad, r.2)
        | .ready => match vaRead r.2 c.ctx addr, walk r.2 c.ctx addr with
          | some pa, .ok lf => (if atomic && pteAttr lf.pte ≠ 0 then .bad else .home pa, r.2)
          | _, _ => (.bad, r.2)

/-- Poison a chiplet's request consumes (R471). -/
def chipPoison (tag pa : Nat) (w : World) : World :=
  rasLog (if inHbm pa then kindHbm else kindLpddr) 2 0x0B1 ((w.d2d.cmds.find? (·.tag = tag)).map (·.ctx)) false pa
    (bump w rRAS_POISON_CONSUMED 1)

/-- The unit at which an address has its point of coherence: a stack-cache slice, or the IOD. -/
def homeUnit (w : World) (pa : Nat) : Nat := if inHbm pa then 0x040 + stackOf w pa else 0x026

/-- A response to a request: it returns the request's tag and address. -/
def finovAnswer (src l rsp : Nat) (m : FinovMsg) (status : Nat) (data : List Byte) (w : World) : World :=
  finovSendFrom src (opChannel rsp) l rsp m.tag m.addr status data w

/-- A request that its target cannot perform. -/
def finovRefuse (l rsp : Nat) (m : FinovMsg) (w : World) : World × Bool :=
  (finovAnswer (linkUnit l) l rsp m fvErr (errData rsp) w, true)

/-- A request for the chiplet window that another die has sent: the IOD passes it on as an offset (R431), and its answer
answers it; while the site is not ACTIVE it cannot be performed. -/
def passOn (l rsp : Nat) (m : FinovMsg) (op pa : Nat) (w : World) : World × Bool :=
  if !(chipActive w) then finovRefuse l rsp m w
  else (chipRequest (.finov l rsp m.tag m.addr m.source) op (chipOff pa) m.data.flatten w, true)

/-- RD: the line is read and returned with DATA. -/
def finovRead (l : Nat) (m : FinovMsg) (w : World) : World × Bool :=
  let t := reqTarget l m (m.addr / 128 * 128) 128 false false w
  match t.1 with
  | .waits => (t.2, false)
  | .bad => finovRefuse l 0x10 m t.2
  | .home pa =>
    if inChip pa then passOn l 0x10 m 1 pa t.2
    else
      let r := devRead byControl pa 128 t.2
      let bad := poisoned r.2 pa 128
      (finovAnswer (homeUnit w pa) l 0x10 m (if bad then fvPoison else fvOK) r.1 (if bad && l = 3 then chipPoison m.tag pa r.2 else r.2), true)

def execRd (l : Nat) (flits : List Byte) (s : State) := run (finovTake l chMemReq 0x01 flits (finovRead l)) s

/-- A masked write within one line at its home: copies are recalled, the bytes merged, and a line written whole is no longer
poisoned. -/
def homeMasked (pa mask : Nat) (bs : List Byte) (w : World) : World :=
  let ones := (bitList mask 128).length
  if isMain pa then
    let w := touchLine byControl .merge pa (recallHalves true ([0, 1].filter (fun g => bits mask (64 * g) 64 ≠ 0) |>.map (· + pa / 64)) w)
    let w := countHome pa ones true w
    { w with mem := { w.mem with
      bytes := maskSet w.mem.bytes pa mask bs
      poison := if ones = 128 then w.mem.poison.filter (· ≠ pa / 128) else w.mem.poison } }
  else if inPcie pa then { w with mem := { w.mem with host := maskSet w.mem.host (pa - 0x3000000000000) mask bs } }
  else w

/-- WR and WRP, opcode `op`: bytes of one line are written, and ACK returns; a write that a reservation holds off (R279) stays
until it may. Data with status POISON poisons what it writes. -/
def finovWrite (l op mask : Nat) (bs : List Byte) (m : FinovMsg) (w : World) : World × Bool :=
  let t := reqTarget l m (m.addr / 128 * 128) 128 true false w
  match t.1 with
  | .waits => (t.2, false)
  | .bad => finovRefuse l 0x11 m t.2
  | .home pa =>
    if inChip pa then passOn l 0x11 m op pa t.2
    else if isMain pa && [0, 1].any (fun g => bits mask (64 * g) 64 ≠ 0 && heldBy t.2 none (pa / 64 + g)) then (t.2, false)
    else
      let w := homeMasked pa mask bs t.2
      let w := if m.status = fvPoison && isMain pa && mask ≠ 0 then setPoison pa 1 w else w
      (finovAnswer (homeUnit w pa) l 0x11 m fvOK [] w, true)

def execWr (l : Nat) (flits : List Byte) (s : State) :=
  run (finovTake l chMemReq 0x02 flits (fun m => finovWrite l 2 (2 ^ 128 - 1) m.data.flatten m)) s

def execWrp (l : Nat) (flits : List Byte) (s : State) :=
  run (finovTake l chMemReq 0x03 flits (fun m => finovWrite l 3 (leNat (m.data.headD [])) (m.data.tail.flatten) m)) s

/-- The ftz bit of the launch on the core a source unit names (R151). -/
def ftzOf (w : World) (src : Nat) : Bool :=
  if 0x100 ≤ src && src < 0x200 then (match (coreOf w (src - 0x100)).launch with | some x => x.ftz | none => false) else false

/-- ATOM: an atomic at its home; ATOM_RSP returns the old value. A pairing R148 does not list, or a misaligned
address, cannot be performed. What the data slot holds is the command's operands: its layout is not stated. -/
def finovAtomic (l op ty v cmp : Nat) (m : FinovMsg) (w : World) : World × Bool :=
  let n := atomBytes ty
  let t := if atomLegal op ty && m.addr % n = 0 then reqTarget l m m.addr n true true w else (.bad, w)
  match t.1 with
  | .waits => (t.2, false)
  | .bad => finovRefuse l 0x12 m t.2
  | .home pa =>
    if inChip pa then passOn l 0x12 m 4 pa t.2
    else if !(isMain pa) then finovRefuse l 0x12 m t.2
    else if heldBy t.2 none (pa / 64) then (t.2, false)
    else
      let w := countHome pa n true (countHome pa n false (touchLine byControl .merge pa (recallHalves true [pa / 64] t.2)))
      let old := bytesAt w.mem.bytes pa n
      let nw := atomNew op ty (ftzOf w m.source) old v cmp
      let bad := poisoned w pa n
      let w := { w with mem := { w.mem with bytes := bytesSet w.mem.bytes pa nw.1 n } }
      let w := if 0x100 ≤ m.source && m.source < 0x200 && (mget w.cores (m.source - 0x100)).isSome then
          updCore (m.source - 0x100) (fun c => { c with flags := c.flags ||| nw.2 }) w
        else w
      (finovAnswer (homeUnit w pa) l 0x12 m (if bad then fvPoison else fvOK) (natLe old 16)
        (if bad && l = 3 then chipPoison m.tag pa w else w), true)

def execAtom (l op ty v cmp : Nat) (flits : List Byte) (s : State) :=
  run (finovTake l chMemReq 0x04 flits (finovAtomic l op ty v cmp)) s

/-! ### Responses (R426, R429) -/

/-- The request of the IOD to the chiplet that a response answers ends, and its buffer is free for another (R428). -/
def takeReq (l tag : Nat) (f : ChipReq → World → World) (w : World) : World :=
  if l ≠ 3 then w
  else match w.d2d.reqs.find? (·.tag = tag) with
    | none => w
    | some r => pumpOut 3 chMemReq (f r (updD2d (fun d => { d with reqs := d.reqs.filter (·.tag ≠ tag) }) w))

/-- A hart's load of a line that the chiplet has poisoned (R471). PRESUMED: its kind is Finov's, since the line belongs to
neither memory. -/
def chipLoadPoison (h pa : Nat) (w : World) : World :=
  hartOut h 0 6 [] (hartRaise h 5 (rasLog kindFinov 2 (0x0E0 + h) none false pa (bump w rRAS_POISON_CONSUMED 1)))

/-- DATA: the line reaches the access, the hart or the die that asked for it. On an internal link the request it answers is
part of another command's step. -/
def finovData (l : Nat) (m : FinovMsg) (w : World) : World :=
  let bs := m.data.flatten
  takeReq l m.tag (fun r w =>
    if m.status = fvErr then chipErr r w
    else match r.user with
      | .core n id =>
        updCore n (updAccess id (fun a => { a with
          data := mset a.data ((r.line + 0x4000000000000) / 128) bs
          poison := a.poison || m.status = fvPoison })) w
      | .hartLoad h pa k =>
        if m.status = fvPoison then chipLoadPoison h pa w
        else if k = 16 then
          chipRequest (.hartPair h (pa + 8) ((bs.drop (pa % 128)).take 8)) 1 (chipOff pa / 128 * 128) [] w
        else hartOut h 0 0 ((bs.drop (pa % 128)).take k) w
      | .hartPair h pa low =>
        if m.status = fvPoison then chipLoadPoison h pa w
        else hartOut h 0 0 (low ++ (bs.drop (pa % 128)).take 8) w
      | .finov k rsp tag addr _ => finovSendFrom 0x0B1 (opChannel rsp) k rsp tag addr m.status bs w
      | .engine (some n) =>
        if m.status = fvPoison && (engineAt (coreOf w n)).isSome then corePoison n kindFinov false (r.line + 0x4000000000000) w else w
      | _ => w) w

def execData (l : Nat) (flits : List Byte) (s : State) := run (finovRx l chMemRsp 0x10 flits (finovData l)) s

/-- ACK and ATOM_RSP: the write is applied or the old value returned, or the request could not be performed. Another die's
request is answered. -/
def finovAck (l : Nat) (m : FinovMsg) (w : World) : World :=
  takeReq l m.tag (fun r w =>
    if m.status = fvErr then chipErr r w
    else match r.user with
      | .finov k rsp tag addr _ => finovSendFrom 0x0B1 (opChannel rsp) k rsp tag addr m.status m.data.flatten w
      | _ => w) w

def execAck (l : Nat) (flits : List Byte) (s : State) := run (finovRx l chMemRsp 0x11 flits (finovAck l)) s

/-- ATOM_RSP: of the device only another die's atomic goes to the chiplet; on an internal link it is part of another
command's step. -/
def execAtomRsp (l : Nat) (flits : List Byte) (s : State) := run (finovRx l chMemRsp 0x12 flits (finovAck l)) s

/-! ### Coherence messages (R268) -/

/-- A copy answers a request for a 64-B granule, with its tag, and with its data where it held it M. -/
def cohAnswer (l h line : Nat) (keepS : Bool) (m : FinovMsg) (w : World) : World :=
  match mget (hartOf w h).mLines line with
  | some bs => finovAnswer (0x0E0 + h) l 0x29 m fvOK bs (writeBack h line keepS w)
  | none => finovAnswer (0x0E0 + h) l 0x28 m fvOK [] w

/-- FWD_S: the M holder supplies the data and goes to S. The header names no hart: which copy a message goes to is the
command's operand. -/
def execFwdS (l h : Nat) (flits : List Byte) (s : State) :=
  run (finovRx l chCohReq 0x20 flits (fun m => cohAnswer l h (m.addr / 64) true m)) s

/-- The hart's copy goes to I and its reservation on the granule is lost. -/
def dropCopy (h line : Nat) (w : World) : World :=
  leaveL1 h line (updHart h (fun x => { loseResv line x with sLines := x.sLines.filter (· ≠ line) }) w)

/-- A recall for a write is held while R279 says so. -/
def cohHeld (w : World) (h line : Nat) : Bool := match (hartOf w h).resv with
  | some r => r.granule = line && !r.free && decide (3 * (w.now - r.since) < 64)
  | none => false

/-- A recall for a write: the copy answers and goes to I. -/
def cohRecall (l h : Nat) (m : FinovMsg) (w : World) : World × Bool :=
  let line := m.addr / 64
  if cohHeld w h line then (w, false) else (dropCopy h line (cohAnswer l h line false m w), true)

/-- FWD_I: the M holder supplies the data and goes to I. -/
def execFwdI (l h : Nat) (flits : List Byte) (s : State) := run (finovTake l chCohReq 0x21 flits (cohRecall l h)) s

/-- INV: the copy goes to I; a hart that holds none acknowledges at once. -/
def execInv (l h : Nat) (flits : List Byte) (s : State) := run (finovTake l chCohReq 0x22 flits (cohRecall l h)) s

/-- CACK: the home's round ends; it is part of the command that began it. -/
def execCack (l : Nat) (flits : List Byte) (s : State) := run (finovRx l chCohRsp 0x28 flits (fun _ w => w)) s

/-- CDATA: the written-back half is at its home since the copy answered. -/
def execCdata (l : Nat) (flits : List Byte) (s : State) := run (finovRx l chCohRsp 0x29 flits (fun _ w => w)) s

/-- The interrupt message in a MSG's data slot goes on to the interrupt unit, which gives it its sequence number (R288). -/
def finovMsg (m : FinovMsg) (w : World) : World :=
  let b := m.data.flatten
  let w0 := le b 0 8
  sendMsg (bits w0 24 12) (bits w0 44 20) (bits w0 36 8) (le b 8 8) w

/-- MSG: an interrupt message. -/
def execMsg (l : Nat) (flits : List Byte) (s : State) := run (finovRx l chInt 0x30 flits finovMsg) s

/-- REG_RSP answers a register access; the device sends no such request to the chiplet. -/
def execRegRsp (l : Nat) (dbg : Bool) (flits : List Byte) (s : State) :=
  run (finovRx l (if dbg then chDbg else chMgmt) 0x42 flits (fun _ w => w)) s

end Sys2Proof.Machine
end

