-- ==== Sys2Proof/Machine/Tensor.lean ====
section
/-!
DEFINITION. Tensor descriptors (R46, R48, R141, R142, R165), and reads and writes of their rows with the poison
that travels with the bytes (R470, R471).
-/
namespace Sys2Proof.Machine

/-! ### Descriptors (R141) -/

/-- The 32 bytes of descriptor slot k, as a number. -/
def slotNat (g : Group) (k : Nat) : Nat :=
  (List.range 8).foldl (fun v j => v + (uRead g (8 * k + j)).toNat * 2 ^ (32 * j)) 0

def descOf (g : Group) (k : Nat) : TensorDesc :=
  let x := slotNat g k
  { raw32 := bit x 9, global := bit x 8, fmt := bits x 16 16, rows := bits x 32 32, cols := bits x 64 32,
    rowStride := bits x 96 32, base := bits x 128 64, scaleOff := sextInt (bits x 192 32) 32,
    scaleStride := bits x 224 32 }

/-- Fields of a format word (R46). -/
def fwElem (f : Nat) : Nat := bits f 10 6
def fwBs (f : Nat) : Bool := bit f 9
def fwBlock (f : Nat) : Nat := if bit f 8 then 32 else 16
def fwScale (f : Nat) : ScaleFmt := if bits f 6 2 = 1 then .fs8 else .e8m0

/-- A format word no unit takes (R36, R46). -/
def fwBad (f : Nat) : Bool :=
  10 < fwElem f || bits f 0 6 ≠ 0 || (fwBs f && (fwElem f < 3 || 8 < fwElem f || 2 ≤ bits f 6 2))

/-- The element format of a format word; FP32 stands for a reserved code. -/
def fwFmt (f : Nat) : ElemFmt := (fmtOfCode (fwElem f)).getD .fp32

/-- Bytes of a row, and of its scales. -/
def dRowBytes (d : TensorDesc) : Nat := rowBytes (fwFmt d.fmt) d.cols
def dScaleBytes (d : TensorDesc) : Nat := if fwBs d.fmt then (d.cols + fwBlock d.fmt - 1) / fwBlock d.fmt else 0

def dRowAt (d : TensorDesc) (r : Nat) : Nat := d.base + r * d.rowStride
def dScaleAt (d : TensorDesc) (r : Nat) : Nat := ((d.base : Int) + d.scaleOff + (r * d.scaleStride : Nat)).toNat

/-- The operand conditions of R142; `mtx` adds the alignment matrix instructions ask for, `dest` allows raw32. -/
def descBad (g : Group) (k : Nat) (mtx dest : Bool) : Bool :=
  let x := slotNat g k
  let d := descOf g k
  k = 0 || bits x 0 8 ≠ 1 || bits x 10 6 ≠ 0 ||
  (d.raw32 && (!dest || fwElem d.fmt ≠ 0 || fwBs d.fmt)) ||
  d.rows = 0 || 2 ^ 20 < d.rows || d.cols = 0 || 2 ^ 20 < d.cols || d.rowStride < dRowBytes d ||
  (fwBs d.fmt && d.scaleStride < dScaleBytes d) ||
  (if d.global then decide (2 ^ 57 ≤ d.base) else decide (2 ^ 32 ≤ d.base)) ||
  (mtx && (d.base % 16 ≠ 0 || d.rowStride % 16 ≠ 0 || d.scaleStride % 16 ≠ 0 || d.scaleOff % 16 ≠ 0))

/-- Some byte of an SLM tensor's rows or scales lies outside the launch's bound (R165). -/
def descOut (l : CoreLaunch) (d : TensorDesc) : Bool :=
  if d.global then false
  else
    slmBound l < dRowAt d (d.rows - 1) + dRowBytes d ||
    (fwBs d.fmt && ((d.base : Int) + d.scaleOff < 0 ||
      slmBound l < dScaleAt d (d.rows - 1) + dScaleBytes d))

/-! ### Bytes with their poison (R470) -/

/-- Bytes read, each with its poison mark. -/
abbrev Marked := List (Byte × Bool)

def anyBad (m : Marked) : Bool := m.any (·.2)
def plain (m : Marked) : List Byte := m.map (·.1)

/-- Reads SLM bytes on the bulk side. -/
def readSlm (n a k : Nat) (w : World) : Marked × World :=
  let c := coreOf w n
  ((List.range k).map (fun i => (byteAt c.slm (a + i), c.slmPoison.contains ((a + i) / 4))),
    bump w (rDBG_SLM_RD n) k)

/-- The stream hint of a core's tensor mover (R241). -/
def moverHint : Nat := 64

/-- The lines of a global range train the detectors of a core's mover (R241). -/
def trainMover (n ctx a k : Nat) (w : World) : World :=
  forAll (linesOf a k) (fun va w => match vaRead w ctx (max a va) with
    | some pa => trainStream (0x100 + n) moverHint (pa / 128) w
    | none => w) w

/-- The lines of a global range of a core's launch, each by its physical address where it has one. -/
def rangeLines (w : World) (n a k : Nat) : List Nat :=
  (linesOf a k).filterMap (fun va => vaRead w (launchOn w n).ctx (max a va))

/-- Admits line requests to a partition's buckets one by one, each only while its level is above 0 (R345, R346): how many
are admitted, `k` of them before. -/
def payLines (part : Nat) : List Nat → Nat → World → Nat × World
  | [], k, w => (k, w)
  | pa :: ps, k, w => if lineAdmitted w part pa then payLines part ps (k + 1) (chargeLine part pa w) else (k, holdLine part pa w)

/-- Keeps how many requests of the array's or mover's operation, named by its place in the core's order, are admitted. -/
def setPaid (n before k : Nat) (w : World) : World :=
  let mx (e : MxEntry) : MxEntry := if e.before = before then { e with paid := k } else e
  let tm (e : TmEntry) : TmEntry := if e.before = before then { e with paid := k } else e
  updCore n (fun c => { c with
    mx := { c.mx with streams := c.mx.streams.map mx, drainer := c.mx.drainer.map mx }
    tmq := c.tmq.map tm, tmRun := c.tmRun.map tm }) w

/-- The requests of a core's mover or array for some ranges, `paid` of them admitted before: `go` once all of them are,
until when the operation holds them. -/
def whenPaid (n before paid : Nat) (rs : List (Nat × Nat)) (go : World → World) (w : World) : World :=
  let lines := rs.flatMap (fun r => rangeLines w n r.1 r.2)
  let p := payLines (launchOn w n).part (lines.drop paid) paid w
  if lines.length ≤ p.1 then go (setPaid n before 0 p.2) else setPaid n before p.1 p.2

/-- The requests of writes that had been sent at a stop (R124), charged whatever the level. -/
def chargeRange (n a k : Nat) (w : World) : World :=
  forAll (rangeLines w n a k) (fun pa w => chargeLine (launchOn w n).part pa w) w

/-- Reads a global range at the point of coherence; the mover's reads train its detectors. -/
def readGlobal (mover : Bool) (n ctx a k : Nat) (w : World) : Marked × World :=
  let mark := (List.range k).map (fun i => match vaRead w ctx (a + i) with
    | some pa => poisoned w pa 1
    | none => false)
  let r := vaDevRead byMover ctx a k (if mover then trainMover n ctx a k w else w)
  (r.1.zip mark, claimChip n w.d2d.reqs.length r.2)

/-- Reads bytes of a tensor's space on behalf of a core's mover or array. -/
def readSpace (mover : Bool) (n : Nat) (d : TensorDesc) (a k : Nat) (w : World) : Marked × World :=
  if k = 0 then ([], w)
  else if d.global then readGlobal mover n (launchOn w n).ctx a k w
  else readSlm n a k w

/-- The first k elements of row r of a tensor, then their scale bytes: nothing beyond them is read (R501). -/
def readRowTo (n : Nat) (d : TensorDesc) (r k : Nat) (w : World) : (Marked × Marked) × World :=
  let x := readSpace true n d (dRowAt d r) (rowBytes (fwFmt d.fmt) k) w
  let y := readSpace true n d (dScaleAt d r) (if fwBs d.fmt then (k + fwBlock d.fmt - 1) / fwBlock d.fmt else 0) x.2
  ((x.1, y.1), y.2)

/-- Row r of a tensor, then its scale bytes. -/
def readRow (n : Nat) (d : TensorDesc) (r : Nat) (w : World) : (Marked × Marked) × World := readRowTo n d r d.cols w

/-- A row's bytes with its padding as zeros (R42); a row of KB24 or KB16 is whole bytes and moves raw (R53). -/
def zeroPad (d : TensorDesc) (m : Marked) : Marked :=
  let n := if elemBits (fwFmt d.fmt) = 0 then 8 * m.length else d.cols * elemBits (fwFmt d.fmt)
  m.zipIdx.map (fun x => if 8 * x.2 + 8 ≤ n then x.1
    else (BitVec.ofNat 8 (x.1.1.toNat % 2 ^ (n - 8 * x.2)), x.1.2 && decide (8 * x.2 < n)))

/-- Writes SLM bytes on the bulk side: words written whole lose their mark, words a poisoned byte enters gain it. -/
def writeSlm (n a : Nat) (m : Marked) (w : World) : World :=
  let bad := (m.zipIdx.filter (·.1.2)).map (fun p => (a + p.2) / 4)
  bump (updCore n (fun c =>
    let c := slmClearMarks a m.length { c with slm := listSet c.slm a (plain m) }
    { c with slmPoison := bad.foldl sIns c.slmPoison }) w) (rDBG_SLM_WR n) m.length

/-- Writes a global range at the point of coherence, carrying poison, and drops its lines from the core's L1
(R174, R182); the mover's writes train its detectors. -/
def writeGlobal (mover : Bool) (n ctx a : Nat) (m : Marked) (w : World) : World :=
  let w := claimChip n w.d2d.reqs.length
    (vaDevWrite byMover ctx a (plain m) (if mover then trainMover n ctx a m.length w else w))
  (m.zipIdx).foldl (fun w p => match vaRead w ctx (a + p.2) with
    | some pa =>
      let w := if p.1.2 then poisonWritten pa 1 w else w
      if p.2 = 0 || (a + p.2) % 128 = 0 then updCore n (l1Drop (pa / 128)) w else w
    | none => w) w

def writeSpace (mover : Bool) (n : Nat) (d : TensorDesc) (a : Nat) (m : Marked) (w : World) : World :=
  if m.isEmpty then w
  else if d.global then writeGlobal mover n (launchOn w n).ctx a m w
  else writeSlm n a m w

/-! ### Whether a tensor's rows can be reached -/

/-- The first fault or wait of a list of byte ranges (address, length), with the number of ranges before it. -/
def rangesState (ctx : Nat) (write : Bool) (work : Option Nat) :
    List (Nat × Nat) → Nat → World → ((VaState × Nat × Nat) × World)
  | [], i, w => ((.ready, 0, i), w)
  | r :: t, i, w =>
    let s := rangeState ctx r.1 r.2 write work w
    match s.1.1 with
    | .ready => rangesState ctx write work t (i + 1) s.2
    | x => ((x, s.1.2, i), s.2)

/-- The byte ranges of the rows and scales of a tensor, `k` rows of `nb` bytes; none for an SLM tensor. -/
def tensorRanges (d : TensorDesc) (k nb : Nat) : List (Nat × Nat) :=
  if d.global then
    (List.range k).flatMap (fun r =>
      (dRowAt d r, nb) :: if fwBs d.fmt then [(dScaleAt d r, dScaleBytes d)] else [])
  else []

/-- A range lies in the chiplet window while the site is not ACTIVE: requests for it end with ERR, a memory fault (R432). -/
def chipDown (w : World) (ctx : Nat) (rs : List (Nat × Nat)) : Bool :=
  !(chipActive w) && rs.any (fun r => (vaPages r.1 r.2).any (fun p => match vaRead w ctx (max p r.1) with
    | some pa => inChip pa
    | none => false))

/-- A memory fault of an engine of a core (R124, R126): recorded, and the launch traps with the instruction that
issued the work. -/
def coreFault (n slot : Nat) (mask : W32) (pc cause level addr : Nat) (w : World) : World :=
  kernelTrap n slot mask pc tMemFault (memFault cause level (launchOn w n).ctx (0x100 + n) addr w)

/-- Poison consumed by the matrix array (R471): from SLM, or from a global destination it reads. -/
def mxPoison (n : Nat) (d : TensorDesc) (a : Nat) (w : World) : World :=
  if d.global then
    let pa := (vaRead w (launchOn w n).ctx a).getD 0
    corePoison n (if inHost pa then kindLpddr else kindHbm) true a w
  else corePoison n kindCore false a w

end Sys2Proof.Machine
end

