-- ==== Sys2Proof/Machine/TwinBase.lean ====
section
/-!
DEFINITION. What other units hand to the twin link (R411 to R415): datagrams, journals of FE_QDONE, and digests that
wait for a local record. A twin datagram leaves as a packet on port 15 with its type, its sequence number and its
content; the length of its frame is an open value.
-/
namespace Sys2Proof.Machine

/-- 0 UNPAIRED, 1 PAIRING, 2 PAIRED, 3 DETACHED. -/
def twinState (w : World) : Nat := fld w rNET_TWIN_STATUS 0 2

def paired (w : World) : Bool := twinState w = 2

def updNet (f : Net → Net) (w : World) : World := { w with net := f w.net }

def updTwin (f : Twin → Twin) (w : World) : World := updNet (fun n => { n with twin := f n.twin }) w

/-- The twin port's image role, and its link. -/
def twinPort (w : World) : Bool := portRole w 15 = 2
def twinUp (w : World) : Bool := twinPort w && portUp w 15

/-- The addresses of a packet on the twin fibre: the port's own, the partner's MAC address and the port's (R400, R411). -/
def twinHead (w : World) : List Nat := [portAddr w 15, w.net.twin.mac.getD Config.noAddress, portMac w 15]

/-- Sends a twin datagram: the next sequence number, and the time of the last twin traffic. -/
def sendTwin (typ : Nat) (content : List Byte) (w : World) : World :=
  if twinUp w then
    let seq := w.net.twin.seq
    let w := updTwin (fun t => { t with seq := (t.seq + 1) % 2 ^ 32, lastTx := w.now }) w
    let w := bump (freeUsed w) (rDBG_PORT_TX 15) (freeVal w)
    let h := netUdp w
    emit .packet ([15, typ, seq] ++ twinHead w ++ [h.dst, h.src, h.dscp]) ([1, BitVec.ofNat 8 typ] ++ natLe seq 4 ++ content) w
  else w

/-- A JOURNAL of some queues: the stamp, then (queue, FE_QDONE) pairs (R413). -/
def sendJournal (qs : List Nat) (w : World) : World :=
  let st := stampNow w
  sendTwin 0x12 (natLe (st.1 % 2 ^ 128) 16 ++ qs.flatMap (fun q => natLe q 2 ++ natLe (rg w (rFE_QDONE q)) 8)) st.2

/-- A change of a queue's FE_QDONE is journalled at once (R413: within 2 µs). -/
def journalChange (q : Nat) (w : World) : World := if paired w then sendJournal [q] w else w

/-- A full sweep: 16 datagrams of 64 queues. -/
def journalSweep (w : World) : World :=
  let w := iter 16 (fun i w => sendJournal ((List.range 64).map (· + 64 * i)) w) w
  updTwin (fun t => { t with sweepAt := w.now }) w

/-! ### Digests (R415) -/

/-- The message of a digest's result, and its counter: 0 MATCH, 1 MISMATCH, 2 EXPIRED. -/
def digestMsg (slot result : Nat) (w : World) : World :=
  let r := if result = 0 then rNET_DIGEST_MATCH else if result = 1 then rNET_DIGEST_MISMATCH else rNET_DIGEST_EXPIRED
  sendMsg 0x07F devCtx stOK (3 * 2 ^ 57 + result * 2 ^ 48 + slot) (bump w r 1)

/-- Compares two records: bytes 0 to 75 (R482). -/
def digestResult (a b : List Byte) : Nat := if a.take 76 = b.take 76 then 0 else 1

/-- A received digest is compared with the local record: the result goes to the partner, and both send a message. -/
def digestCompare (slot tag : Nat) (theirs own : List Byte) (w : World) : World :=
  let r := digestResult theirs own
  digestMsg slot r (sendTwin 0x16 (natLe slot 1 ++ natLe tag 8 ++ natLe r 1) w)

/-- A Clove slot has closed: digests received for its slot and tag are compared with its record. -/
def digestClosed (slot tag : Nat) (own : List Byte) (w : World) : World :=
  let hit (d : Digest) : Bool := d.own.isNone && d.slot = slot && d.tag = tag
  let ds := w.net.twin.digests.filter hit
  let w := updTwin (fun t => { t with digests := t.digests.filter (fun d => !(hit d)) }) w
  forAll ds (fun d w => digestCompare slot tag d.bytes own w) w

end Sys2Proof.Machine
end

