-- ==== Sys2Proof/Machine/Clove.lean ====
section
/-!
DEFINITION. Clove tensor watch (R479 to R483): part summaries in FP64, the combined record, and the commands of a
slot.
-/
namespace Sys2Proof.Machine

/-! ### FP64 (R480) -/

def f64Spec : FloatSpec := ⟨11, 52, 1023, true, false⟩

def f64Inf (neg : Bool) : Nat := if neg then 0xFFF0000000000000 else 0x7FF0000000000000

/-- The exact value of an FP64 code. -/
def f64Val (x : Nat) : Val := decodeFloat f64Spec x

/-- An exact value rounded once to FP64, nearest even; overflow is infinity. -/
def rne64 : Val → Nat
  | .nan => 0x7FF8000000000000
  | .inf neg => f64Inf neg
  | .fin neg n d =>
    if n = 0 then signedZero f64Spec neg
    else
      let r := roundMag f64Spec .rne 0 neg n d
      if beyondMax f64Spec r.1 r.2 then f64Inf neg else encodeMag f64Spec r.1 r.2 + b2n neg * 2 ^ 63

/-- The sum of two FP64 values of which neither is a NaN, rounded once. -/
def f64Add (x y : Nat) : Nat :=
  match f64Val x, f64Val y with
  | .inf a, .inf b => if a = b then f64Inf a else 0x7FF8000000000000
  | .inf a, _ => f64Inf a
  | _, .inf b => f64Inf b
  | a, b => rne64 (finAdd a b)

/-- x · x + y rounded once, x finite. -/
def f64Square (x : Val) (y : Nat) : Nat :=
  match x, f64Val y with
  | .fin n a d, .fin m b e => rne64 (finAdd (finMul (.fin n a d) (.fin n a d)) (.fin m b e))
  | _, .inf s => f64Inf s
  | _, _ => 0x7FF8000000000000

/-- An order of FP64 codes that are not NaN, -0 below +0. -/
def f64Order (x : Nat) : Int := if bit x 63 then -((bits x 0 63 : Nat) : Int) - 1 else (bits x 0 63 : Nat)

def f64Min (x y : Nat) : Nat := if f64Order y < f64Order x then y else x
def f64Max (x y : Nat) : Nat := if f64Order x < f64Order y then y else x

/-! ### CRC-32C (R481) -/

/-- One bit of the reflected CRC-32C. -/
def crcBit (c : Nat) : Nat := if c % 2 = 1 then (c / 2) ^^^ 0x82F63B78 else c / 2

def crcByte (c : Nat) (b : Byte) : Nat := iter 8 (fun _ c => crcBit c) (c ^^^ b.toNat)

/-- CRC-32C: initial value and final XOR all ones. -/
def crc32c (bs : List Byte) : Nat := (bs.foldl crcByte 0xFFFFFFFF) ^^^ 0xFFFFFFFF

/-! ### Parts (R480) -/

def blankPart (key fmt : Nat) : ClovePart :=
  { key := key, fmt := fmt, n := 0, nan := 0, inf := 0, mn := f64Inf false, mx := f64Inf true, sum := 0, sq := 0,
    crc := [] }

/-- The value of an element of a descriptor, its block scale included. -/
def cloveValue (fmt code : Nat) (scale : Option Nat) : Val :=
  let v := decodeElem (fwFmt fmt) code
  match scale with
  | none => v
  | some s => match scaleVal (fwScale fmt) s with
    | none => .nan
    | some (n, d) => finMul v (.fin false n d)

/-- A block-scaled or unscaled value: an infinity keeps its sign under a scale. -/
def cloveScaled (fmt code : Nat) (scale : Option Nat) : Val :=
  match decodeElem (fwFmt fmt) code, scale with
  | .inf s, some k => if (scaleVal (fwScale fmt) k).isNone then .nan else .inf s
  | .nan, _ => .nan
  | .inf s, none => .inf s
  | .fin _ _ _, _ => cloveValue fmt code scale

/-- One element taken into a part. -/
def cloveElem (p : ClovePart) (v : Val) : ClovePart :=
  let p := { p with n := p.n + 1 }
  match v with
  | .nan => { p with nan := p.nan + 1 }
  | .inf s => { p with mn := f64Min p.mn (f64Inf s), mx := f64Max p.mx (f64Inf s), inf := p.inf + 1 }
  | v =>
    let x := rne64 v
    { p with mn := f64Min p.mn x, mx := f64Max p.mx x, sum := f64Add p.sum x, sq := f64Square v p.sq }

/-- The bytes of a row that hold its elements (R480), with their padding bits 0 (R42). -/
def cleanRow (fmt cols : Nat) (bs : List Byte) : List Byte :=
  (packRow (fwFmt fmt) ((List.range cols).map (fun j => packedElem (elemBits (fwFmt fmt)) bs j))).take
    ((cols * elemBits (fwFmt fmt) + 7) / 8)

/-- One row taken into a part: its elements, then its CRC bytes. -/
def cloveRow (d : TensorDesc) (data scales : List Byte) (p : ClovePart) : ClovePart :=
  let p := (List.range d.cols).foldl (fun p j =>
    cloveElem p (cloveScaled d.fmt (packedElem (elemBits (fwFmt d.fmt)) data j)
      (if fwBs d.fmt then some (scales.getD (j / fwBlock d.fmt) 0).toNat else none))) p
  { p with crc := p.crc ++ cleanRow d.fmt d.cols data ++ scales }

/-! ### The record (R481, R482) -/

/-- Parts in ascending order of key, equal keys in arrival order. -/
def insPart (p : ClovePart) : List ClovePart → List ClovePart
  | [] => [p]
  | q :: t => if p.key < q.key then p :: q :: t else q :: insPart p t

def sortParts (ps : List ClovePart) : List ClovePart := ps.foldl (fun l p => insPart p l) []

def dupKey : List ClovePart → Bool
  | a :: b :: t => a.key = b.key || dupKey (b :: t)
  | _ => false

/-- Combines the parts; without one the counts and sums are 0. -/
def combine : List ClovePart → ClovePart
  | [] => blankPart 0 0
  | p :: t => t.foldl (fun a q =>
      { a with
        n := a.n + q.n, nan := a.nan + q.nan, inf := a.inf + q.inf, mn := f64Min a.mn q.mn, mx := f64Max a.mx q.mx,
        sum := f64Add a.sum q.sum, sq := f64Add a.sq q.sq, crc := a.crc ++ q.crc }) p

/-- The 96-byte record. -/
def cloveRecord (slot : Nat) (s : CloveSlot) (incomplete : Bool) : List Byte :=
  let ps := sortParts s.parts
  let c := combine ps
  let mixed := ps.any (fun p => p.fmt ≠ c.fmt)
  [1, BitVec.ofNat 8 slot] ++ natLe (b2n incomplete + 4 * b2n (dupKey ps) + 8 * b2n mixed) 1 ++ [0] ++
  natLe c.fmt 2 ++ natLe ps.length 2 ++ natLe s.armTag 8 ++ natLe c.n 8 ++ natLe c.nan 8 ++ natLe c.inf 8 ++
  natLe c.mn 8 ++ natLe c.mx 8 ++ natLe c.sum 8 ++ natLe c.sq 8 ++ natLe (crc32c c.crc) 4 ++ natLe s.ctx 4 ++
  List.replicate 16 0

/-! ### Slots (R479) -/

def blankClove : CloveSlot := { st := 0, ctx := 0, expect := 1, tag := 0, dest := 0, armTag := 0, armDest := 0, parts := [], record := [] }

def cloveOf (w : World) (k : Nat) : CloveSlot := mgetD w.dbg.clove k blankClove

def setClove (k : Nat) (s : CloveSlot) (w : World) : World :=
  { w with dbg := { w.dbg with clove := mset w.dbg.clove k s } }

/-- The context a slot was armed for: a CLOSED slot's stands in its record, for its register may have been written since. -/
def armCtx (s : CloveSlot) : Nat := if s.st = 2 then le s.record 76 4 else s.ctx

/-- Writes the record to the slot's destination, if it has one. -/
def writeRecord (s : CloveSlot) (w : World) : World := if s.armDest = 0 then w else devWrite byControl s.armDest s.record w

/-- Closes a slot: the record is formed, written, and a message sent. -/
def closeSlot (k : Nat) (incomplete : Bool) (w : World) : World :=
  let s := cloveOf w k
  let s := { s with st := 2, record := cloveRecord k s incomplete }
  digestClosed k s.armTag s.record (sendMsg 0x026 s.ctx stOK (5 * 2 ^ 57 + k) (writeRecord s (setClove k s w)))

/-- A part arrives whole; the last one expected closes the slot. -/
def takePart (k : Nat) (p : ClovePart) (w : World) : World :=
  let s := cloveOf w k
  let s := { s with parts := s.parts ++ [p] }
  let w := setClove k s w
  if s.parts.length = s.expect then closeSlot k false w else w

/-- A WATCH of the slot's context after its close (R480): `extra` is set in the record and in its copy. -/
def cloveExtra (k ctx : Nat) (w : World) : World :=
  let s := cloveOf w k
  if s.st = 2 && armCtx s = ctx then
    let s := { s with record := nthSet s.record 2 (s.record.getD 2 0 ||| 2) }
    writeRecord s (setClove k s w)
  else w

/-- DBG_CLOVE_SEL's slot. -/
def cloveSel (w : World) : Nat := fld w rDBG_CLOVE_SEL 0 6

/-- ARM: an IDLE or CLOSED slot becomes ARMED, its parts cleared. -/
def cloveArm (w : World) : World :=
  let k := cloveSel w
  let s := cloveOf w k
  if !(configured w) || s.st = 1 then w else setClove k { s with st := 1, armTag := s.tag, armDest := s.dest, parts := [], record := [] } w

/-- CLOSE: an ARMED slot closes with the parts it holds. -/
def cloveClose (w : World) : World :=
  if configured w && (cloveOf w (cloveSel w)).st = 1 then closeSlot (cloveSel w) true w else w

/-- DISARM: any slot becomes IDLE. -/
def cloveDisarm (w : World) : World :=
  if configured w then
    let k := cloveSel w
    setClove k { cloveOf w k with st := 0, parts := [], record := [] } w
  else w

def execArm (s : State) := run cloveArm s
def execClose (s : State) := run cloveClose s
def execDisarm (s : State) := run cloveDisarm s

/-- A slot whose context is destroyed becomes IDLE without writing. -/
def cloveCtxGone (ctx : Nat) (w : World) : World :=
  { w with dbg := { w.dbg with clove := w.dbg.clove.map (fun (k, s) =>
    if armCtx s = ctx then (k, { s with st := 0, parts := [], record := [] }) else (k, s)) } }

end Sys2Proof.Machine
end

