-- ==== Sys2Proof/Machine/Messages.lean ====
section
/-!
DEFINITION. Interrupt delivery (R15 to R17, R286 to R291, R316): routing, sequence numbers, notification rings,
the pending store, IMSIC files and MSI-X vectors. Ring r is control-complex ring r below 64, host ring r - 64 above.
-/
namespace Sys2Proof.Machine

/-! ### Rings -/

def isHostRing (r : Nat) : Bool := 64 ≤ r

def ringCfg (r : Nat) : Nat := if isHostRing r then rFE_HN_CFG (r - 64) else rCC_NQ_CFG r
def ringBaseReg (r : Nat) : Nat := if isHostRing r then rFE_HN_BASE (r - 64) else rCC_NQ_BASE r
def ringHead (r : Nat) : Nat := if isHostRing r then rFE_HN_HEAD (r - 64) else rCC_NQ_HEAD r
def ringTail (r : Nat) : Nat := if isHostRing r then rFE_HN_TAIL (r - 64) else rCC_NQ_TAIL r
def ringDrop (r : Nat) : Nat := if isHostRing r then rFE_HN_DROP (r - 64) else rCC_NQ_DROP r

def ringOn (w : World) (r : Nat) : Bool := fld w (ringCfg r) 0 1 = 1

def ringSize (w : World) (r : Nat) : Nat := 2 ^ fld w (ringCfg r) 8 4

/-- The ring's base: a physical address, or a PCIe bus address for a host ring. -/
def ringBase (w : World) (r : Nat) : Nat := rg w (ringBaseReg r) / 4096 * 4096

/-- Writes to a ring's memory: at its home, or as a posted write over PCIe. -/
def ringStore (r a : Nat) (bs : List Byte) (w : World) : World :=
  if isHostRing r then { w with mem := { w.mem with host := listSet w.mem.host a bs } } else devWrite byControl a bs w

def updIrq (f : Irq → Irq) (w : World) : World := { w with irq := f w.irq }

/-- Entries written whose tail is not yet written. -/
def ringAhead (w : World) (r : Nat) : Nat := ((mgetD w.irq.flight r []).filter (fun b => !b)).length

/-- Messages written so far, counting those whose tail write is still to come. -/
def ringNext (w : World) (r : Nat) : Nat := rg w (ringTail r) + ringAhead w r

def ringFull (w : World) (r : Nat) : Bool := ringSize w r ≤ ringNext w r - rg w (ringHead r)

/-- Writes a message's entry (R288 step 2). -/
def ringWrite (r w0 w1 : Nat) (w : World) : World :=
  let a := ringBase w r + 64 + 16 * (ringNext w r % ringSize w r)
  let w := ringStore r a (natLe w0 8 ++ natLe w1 8) w
  updIrq (fun i => { i with flight := mset i.flight r (mgetD i.flight r [] ++ [false]) }) w

/-- Offers a message to a ring (R288, R289). -/
def ringOffer (r w0 w1 : Nat) (w : World) : World :=
  if !(ringOn w r) then bumpSat w rCC_IRQ_STATUS 32
  else if ringFull w r || w.irq.waiting.any (·.ring = r) then
    if w.irq.waiting.length < 256 then updIrq (fun i => { i with waiting := i.waiting ++ [⟨r, w0, w1⟩] }) w
    else bumpSat w (ringDrop r) 0
  else ringWrite r w0 w1 w

/-- Delivers one copy of a message: it takes the number of its source unit for the ring (R17). -/
def deliverCopy (m : Msg) (r : Nat) (w : World) : World :=
  let key := 4096 * r + m.src
  let seq := mgetD w.irq.seqs key 0
  let w := updIrq (fun i => { i with seqs := mset i.seqs key ((seq + 1) % 2 ^ 24) }) w
  ringOffer r (m.ctx % 2 ^ 20 * 2 ^ 44 + m.status % 256 * 2 ^ 36 + m.src % 4096 * 2 ^ 24 + seq) (m.cookie % 2 ^ 64) w

/-- The rings a message goes to: its queue's, or CC_ROUTE of its source unit (R287); the host side of a device
notification is host ring 0 (R315). -/
def msgRings (w : World) (m : Msg) : List Nat :=
  match m.dest with
  | .rings cc host => cc.toList ++ host.toList.map (· + 64)
  | .route =>
    let r := rCC_ROUTE (m.src % 512)
    (if fld w r 8 1 = 1 then [fld w r 0 6] else []) ++ (if fld w r 9 1 = 1 then [64] else [])

/-- MESSAGE_DELIVERY: the oldest message of a source unit reaches the interrupt unit. -/
def messageDelivery (src : Nat) (w : World) : World :=
  match w.irq.inbox.find? (·.src = src) with
  | none => w
  | some m =>
    let w := updIrq (fun i => { i with inbox := i.inbox.erase m }) w
    (msgRings w m).foldl (fun w r => deliverCopy m r w) w

def execMessageDelivery (src : Nat) (s : State) := run (messageDelivery src) s

/-- Marks the first entry without a tail as having one. -/
def markTail : List Bool → List Bool
  | [] => []
  | false :: t => true :: t
  | true :: t => true :: markTail t

/-- A ring's write has not reached its home: a reservation holds it (R279). -/
def ringHeld (w : World) (r a n : Nat) : Bool := !(isHostRing r) && laterOver w a n

/-- The place of the oldest entry whose tail is not yet written. -/
def ringEntryAt (w : World) (r : Nat) : Nat := ringBase w r + 64 + 16 * (rg w (ringTail r) % ringSize w r)

/-- RING_ENTRY_ACKNOWLEDGED: the device writes tail + 1 into the header (R288 step 3). -/
def ringEntryAck (r : Nat) (w : World) : World :=
  if ringAhead w r = 0 || ringHeld w r (ringEntryAt w r) 16 then w
  else
    let t := (rg w (ringTail r) + 1) % 2 ^ 64
    let w := updIrq (fun i => { i with flight := mset i.flight r (markTail (mgetD i.flight r [])) }) w
    ringStore r (ringBase w r + 8) (natLe t 8) (rgSet w (ringTail r) t)

def execRingEntryAcknowledged (r : Nat) (s : State) := run (ringEntryAck r) s

/-- The registers of a hart. -/
def csrsOf (w : World) (h : Nat) : HartCsrs := mgetD w.harts.csrs h HartCsrs.reset

/-- The place in mie of an interrupt file: 0 M-level, 1 S-level, 2 to 5 the guest files. DESIGN CHOICE: the guest files'
own enables, which the spec does not name, are taken as set. -/
def fileBit (file : Nat) : Nat := if file = 0 then 11 else if file = 1 then 9 else 12

/-- An interrupt enabled locally ends a hart's wait (R280). -/
def wakeFor (h bit : Nat) (w : World) : World :=
  if bits (csrsOf w h).mie bit 1 = 1 then updHart h (fun x => { x with run := match x.run with | .wrs _ => .running | y => y }) w
  else w

/-- An identity arrives at an interrupt file of a hart (R286) and is pending there. -/
def imsicStore (hart file identity : Nat) (w : World) : World :=
  let key := 8 * hart + file
  wakeFor hart (fileBit file)
    (updIrq (fun i => { i with imsic := mset i.imsic key (sIns (mgetD i.imsic key []) identity) }) w)

/-- RING_TAIL_ACKNOWLEDGED: the ring's identity is stored to its file, or its MSI-X vector sent (R288 step 4, R316). -/
def ringTailAck (r : Nat) (w : World) : World :=
  match mgetD w.irq.flight r [] with
  | true :: rest =>
    if ringHeld w r (ringBase w r + 8) 8 then w else
    let w := updIrq (fun i => { i with flight := mset i.flight r rest }) w
    if isHostRing r then emit .msix [fld w (ringCfg r) 32 8] [] w
    else imsicStore (fld w (ringCfg r) 24 5) (fld w (ringCfg r) 20 3) (fld w (ringCfg r) 32 8) w
  | _ => w

def execRingTailAcknowledged (r : Nat) (s : State) := run (ringTailAck r) s

/-- Writes the messages that wait for a ring, while it has room (R289). -/
def ringDrain (r : Nat) (w : World) : World :=
  iter 256 (fun _ w => match w.irq.waiting.find? (·.ring = r) with
    | some m => if ringOn w r && !(ringFull w r) then
        ringWrite r m.w0 m.w1 (updIrq (fun i => { i with waiting := i.waiting.erase m }) w) else w
    | none => w) w

/-! ### Enable, disable, head (R291, R316) -/

/-- The whole ring lies in HBM or in the host tier. -/
def ringPlaced (w : World) (r : Nat) : Bool :=
  let b := ringBase w r
  let e := b + 64 + 16 * ringSize w r - 1
  (inHbm b && inHbm e) || (inHost b && inHost e)

/-- The RW bits of a ring's CFG beside enable. -/
def ringCfgMask (r : Nat) : Nat := if isHostRing r then 0xFF00000F00 else 0xFF1F700F00

/-- The first check of an enable that fails, in the order 3, 2, 1, and the header's read; a host header is unreadable
while the PCIe link is down, which the command reports. -/
def ringError (r : Nat) (readable : Bool) (w : World) : Nat × World :=
  let c := rg w (ringCfg r)
  let lg := bits c 8 4
  if lg < 6 || (!(isHostRing r) && (bits c 32 8 = 0 || 6 ≤ bits c 20 3)) then (3, w)
  else if (if isHostRing r then !readable else !(ringPlaced w r)) then (2, w)
  else
    let v := if isHostRing r then ([byteAt w.mem.host (ringBase w r)], w) else devRead byControl (ringBase w r) 1 w
    (if v.1.headD 0 = 1 then 0 else 1, v.2)

/-- A write of a ring's CFG with enable = 1: `v` is the value written. A ring already enabled is unchanged. -/
def ringEnable (r v : Nat) (readable : Bool) (w : World) : World :=
  if ringOn w r then w
  else
    let w := rgSet w (ringCfg r) (v &&& ringCfgMask r)
    let e := ringError r readable w
    let w := fldSet e.2 (ringCfg r) 2 2 e.1
    if e.1 ≠ 0 then w
    else
      let w := ringStore r (ringBase w r + 8) (natLe 0 8) w
      let w := rgSet (rgSet (rgSet w (ringTail r) 0) (ringHead r) 0) (ringDrop r) 0
      let w := updIrq (fun i => { i with
        seqs := i.seqs.filter (fun p => p.1 / 4096 ≠ r)
        flight := mset i.flight r [] }) w
      fldSet w (ringCfg r) 0 1 1

/-- A write of a ring's CFG with enable = 0: a ring that is enabled drops and counts its waiting messages, then is
disabled; one that is not stores the other fields. -/
def ringDisable (r v : Nat) (w : World) : World :=
  if ringOn w r then
    let mine := w.irq.waiting.filter (·.ring = r)
    let w := mine.foldl (fun w _ => bumpSat w (ringDrop r) 0) w
    let w := updIrq (fun i => { i with waiting := i.waiting.filter (·.ring ≠ r) }) w
    fldSet w (ringCfg r) 0 1 0
  else rgSet w (ringCfg r) ((v &&& ringCfgMask r) + fld w (ringCfg r) 2 2 * 4)

/-- A write of a ring's head: dropped above tail, or with more than the ring's size outstanding. -/
def ringHeadWrite (r v : Nat) (w : World) : World :=
  let t := rg w (ringTail r)
  if t < v || ringSize w r < t - v then w else ringDrain r (rgSet w (ringHead r) v)

def execRingEnable (n v : Nat) (s : State) := run (fun w => if n < 64 then ringEnable n v true w else w) s
def execRingDisable (n v : Nat) (s : State) := run (fun w => if n < 64 then ringDisable n v w else w) s
def execCcNqHeadWrite (n v : Nat) (s : State) := run (fun w => if n < 64 then ringHeadWrite n (v % 2 ^ 64) w else w) s

def execHnRingEnable (n v : Nat) (readable : Bool) (s : State) :=
  run (fun w => if n < 64 && configured w then ringEnable (n + 64) v readable w else w) s
def execHnRingDisable (n v : Nat) (s : State) :=
  run (fun w => if n < 64 && configured w then ringDisable (n + 64) v w else w) s
def execFeHnHeadWrite (n v : Nat) (s : State) :=
  run (fun w => if n < 64 && configured w then ringHeadWrite (n + 64) (v % 2 ^ 64) w else w) s

end Sys2Proof.Machine
end

