-- ==== Sys2Proof/Machine/Objects.lean ====
section
/-!
DEFINITION. Memory objects (R324 to R328): which object an address lies in, draining and its holders, freeing,
and the confirmation of invalidated translations (R252).
-/
namespace Sys2Proof.Machine

/-! ### Bytes of whole pages -/

/-- The lines of a byte range leave their home's cache. -/
def dropLines (pa n : Nat) (w : World) : World :=
  { w with mem := { w.mem with lines := w.mem.lines.filter (fun l => !(inRange pa n (128 * l.1))) } }

/-- Clears a page to zero (R253): an HBM page by full-line writes through its slice, a host-tier page by full-line writes
to its channels that allocate nothing, at its home. -/
def clearPage (pa n : Nat) (old : World) : World :=
  let w := recallRange pa n old
  let w := if inHbm pa then
      forAll (linesOf pa n) (fun l w => countHome l 128 true (touchLine byCassia .whole l w)) w
    else forAll (linesOf pa n) (fun l w => countBehind (l / 128) true w) (dropLines pa n w)
  holdBack byCassia pa n old (zeroRange pa n w)

/-- Copies a page line by line: bytes and poison of the source, and of its held writes, replace those of the destination. Its requests have the
class of Cassia and model copies (R235; DESIGN CHOICE: those of a swap too). -/
def copyPage (src dst n : Nat) (old : World) : World :=
  let w := recallRange dst n (recallReads src n old)
  let w := forAll (linesOf src n) (fun l w => countHome l 128 false (touchLine byCassia .read l w)) w
  let w := forAll (linesOf dst n) (fun l w => countHome l 128 true (touchLine byCassia .whole l w)) w
  let b := w.mem.bytes.filter (fun p => inRange src n p.1)
  let q := w.mem.poison.filter (fun l => inRange src n (128 * l))
  let held := w.mem.later.filter (fun x => inRange src n x.pa)
  let w := zeroRange dst n w
  let w := { w with mem := { w.mem with
      bytes := held.foldl (fun m x => listSet m (x.pa - src + dst) x.data)
        (b.foldl (fun m p => byteSet m (p.1 - src + dst) p.2) w.mem.bytes)
      poison := q.foldl (fun ls l => sIns ls (l - src / 128 + dst / 128)) w.mem.poison } }
  holdBack byCassia dst n old (forAll (held.filter (·.bad)) (fun x => setPoison (x.pa - src + dst) x.data.length) w)

/-! ### Save records (R356, R474) -/

/-- Bytes of a core's save record. -/
def recordSize : Nat := 1769472

/-- A core's record is written, as whole lines of class 1. What its bytes are is open, since its layout is not an interface. -/
def saveRecord (pa : Nat) (old : World) : World :=
  let w := recallRange pa recordSize old
  let w := forAll (linesOf pa recordSize) (fun l w =>
    countHome l 128 true (lineRequest (.agent byLoad) 1 .whole (l / 128) 0 (awaitHome l w))) w
  let w := zeroRange pa recordSize w
  holdBack byLoad pa recordSize old (freeUsed { w with mem := { w.mem with
    bytes := listSet w.mem.bytes pa (natLe (freeVal w) recordSize) } })

/-- A core's record is read back, as whole lines of class 1: which of its lines are poisoned. -/
def loadRecord (pa : Nat) (w : World) : List Nat × World :=
  let w := recallReads pa recordSize w
  let w := forAll (linesOf pa recordSize) (fun l w =>
    countHome l 128 false (lineRequest (.agent byLoad) 1 .read (l / 128) 0 (awaitHome l w))) w
  ((List.range (recordSize / 128)).filter (fun i => poisoned w (pa + 128 * i) 1), w)

/-- A restored core carries the poison of its record's lines (R474). DESIGN CHOICE: a record holds its parts in the order of
R356's table, its register file by quarter, slot, register and lane; the layout is not an interface. -/
def markLine (regs : Nat) (c : Core) (line : Nat) : Core :=
  let words (first : Nat) : List Nat := (List.range 32).map (· + first)
  if line < 4096 then
    let slot := 16 * (line / 1024) + line % 1024 / max 1 regs
    { c with marks := (words (regMark slot (line % 1024 % max 1 regs) 0)).foldl sIns c.marks }
  else if line < 8192 then { c with slmPoison := (words (32 * (line - 4096))).foldl sIns c.slmPoison }
  else if line < 12288 then { c with marks := (words (accMark 0 (32 * (line - 8192)))).foldl sIns c.marks }
  else { c with marks := sIns c.marks (if line < 13312 then bufMark ((line - 12288) / 512) else ctlMark) }

def markRestored (lines : List Nat) (c : Core) : Core :=
  lines.foldl (markLine (match c.launch with | some l => 8 * ((l.regs + 7) / 8) | none => 1)) c

def pageBytes (big : Bool) : Nat := if big then 2 ^ 21 else 65536

/-! ### Objects -/

def objOf (w : World) (id : Nat) : Option Obj := mget w.mem.objs id

def updObj (id : Nat) (f : Obj → Obj) (w : World) : World :=
  { w with mem := { w.mem with objs := mupd w.mem.objs id f } }

/-- The object of a context that an address lies in. -/
def objAt (w : World) (ctx va : Nat) : Option (Nat × Obj) :=
  w.mem.objs.find? (fun p => p.2.ctx = ctx && inRange p.2.va p.2.len va)

/-- The object of a context whose first address this is. -/
def objFirst (w : World) (ctx va : Nat) : Option (Nat × Obj) :=
  w.mem.objs.find? (fun p => p.2.ctx = ctx && p.2.va = va)

/-- Does a range overlap a mapped range of the context? -/
def overlaps (w : World) (ctx va len : Nat) : Bool :=
  w.mem.objs.any (fun p => p.2.ctx = ctx && decide (va < p.2.va + p.2.len) && decide (p.2.va < va + len))

/-- R327: a range lies, wholly or in part, in an unmapped page, or in an object that is draining for the stamp or
freed. -/
def rangeGone (w : World) (ctx va n stamp : Nat) : Bool :=
  (vaPages va n).any (fun p => match objAt w ctx (max va p) with
    | none => true
    | some (_, o) => o.freeing || (match o.drain with | some d => decide (d < stamp) | none => false))

/-- The page size of an object's leaves. -/
def objPages (o : Obj) : List Nat := pagesOf o.page2m o.va o.len

/-- Creates an object (R324). -/
def newObj (o : Obj) (w : World) : World :=
  { w with mem := { w.mem with objs := mset w.mem.objs w.mem.nextObj o, nextObj := w.mem.nextObj + 1 } }

/-- The object table's entries (R256). -/
def objRoom (w : World) : Bool := w.mem.objs.length < 262144

/-! ### Draining (R325) -/

/-- An enabled queue's ring, as its first address and length. -/
def ringVa (w : World) (q : Nat) : Nat := rg w (rFE_QBASE q) / 4096 % 2 ^ 45 * 4096
def ringLog (w : World) (q : Nat) : Nat := fld w (rFE_QCFG q) 24 4
def ringLen (w : World) (q : Nat) : Nat := 64 + 32 * 2 ^ ringLog w q
def queueCtx (w : World) (q : Nat) : Nat := fld w (rFE_QCFG q) 32 20

/-- Stamps of the entries of a context that have not completed. -/
def openStamps (w : World) (ctx : Nat) : List Nat :=
  w.fe.queues.flatMap (fun p =>
    if queueCtx w p.1 = ctx then p.2.stamps ++ p.2.ents.map (·.stamp) else [])

/-- Is a draining object held, its aliases apart? -/
def heldSelf (w : World) (id : Nat) (o : Obj) : Bool :=
  (openStamps w o.ctx).any (fun s => s ≤ o.drain.getD 0) ||
    w.fe.queues.any (fun p => queueCtx w p.1 = o.ctx && decide (ringVa w p.1 < o.va + o.len) &&
      decide (o.va < ringVa w p.1 + ringLen w p.1)) ||
    w.mem.models.any (fun p => p.2.warm = id)

/-- Aliases of a storage object. -/
def aliasesOf (w : World) (id : Nat) : List (Nat × Obj) := w.mem.objs.filter (fun p => p.2.kind = .aliasOf id)

/-- An object becomes DRAINING (R325), and with it its aliases, which end when it ends (R256). -/
def drainObj (id : Nat) (w : World) : World :=
  match objOf w id with
  | none => w
  | some o =>
    let stamp := match ctxOf w o.ctx with | some c => c.stamp | none => 0
    let mark (o : Obj) : Obj := if o.drain = none then { o with drain := some stamp } else o
    let as := (aliasesOf w id).map (·.1)
    updObj id mark (forAll as (fun a => updObj a mark) w)

/-! ### Models: keys and leaves (R257) -/

def modelKey (part num : Nat) : Nat := 1024 * part + num
def modelOf (w : World) (k : Nat) : Option Model := mget w.mem.models k
def updModel (k : Nat) (f : Model → Model) (w : World) : World :=
  { w with mem := { w.mem with models := mupd w.mem.models k f } }

/-- Objects that map a model. -/
def mappingsOf (w : World) (k : Nat) : List (Nat × Obj) := w.mem.objs.filter (fun p => p.2.kind = .model k)

/-- Are a model's pages of 2 MiB: is its length a multiple of 2 MiB (R257)? -/
def modelBig (m : Model) : Bool := m.len % 2 ^ 21 = 0

/-- The model's hot pages in units of 64 KiB. -/
def hotUnits (m : Model) : Nat := m.frames.length * (if modelBig m then 32 else 1)

/-- Returns a model's hot pages to its partition's pool, and counts them off MEM_HOT_p.used. -/
def dropHot (k : Nat) (w : World) : World :=
  match modelOf w k with
  | none => w
  | some m =>
    let used := fld w (rMEM_HOT m.part) 0 26
    let w := fldSet w (rMEM_HOT m.part) 0 26 (used - hotUnits m)
    let w := freePages false m.part (modelBig m) m.frames w
    updModel k (fun m => { m with frames := [], landed := 0 }) w

/-! ### Freeing (R326) -/

/-- The pages an object owns, as frame, size and tier: those of the leaves of a MAP, and those it keeps besides. -/
def ownedPages (w : World) (o : Obj) : List (Nat × Bool × Bool) :=
  o.kept.map (fun p => (p.2, o.page2m, inHost p.2)) ++
  if o.kind = .map then
    (objPages o).filterMap (fun va =>
      let e := pteOf w o.ctx (lvlOf o.page2m) va
      if pteKind e = 1 || pteKind e = 2 then some (pteFrame e, o.page2m, inHost (pteFrame e)) else none)
  else []

def objKeys (o : Obj) : List Nat := (objPages o).map (pteKey o.ctx (lvlOf o.page2m))

/-- The slots that hold an object's off-loaded pages. -/
def offSlots (w : World) (o : Obj) : List Nat :=
  ((objPages o).filterMap (fun va =>
    let e := pteOf w o.ctx (lvlOf o.page2m) va
    if pteKind e = 3 && slotHolds w o.ctx (lvlOf o.page2m) va e then some (casKey (pteOffPart e) (pteOffSlot e)) else none)).eraseDups

/-- Frees a Cassia slot whatever its state: its host pages return to the off-load carve-out (R205), and the
HBM pages taken for its page-ins to their pool. -/
def casFree (key : Nat) (w : World) : World :=
  match mget w.cas.slots key with
  | none => w
  | some s =>
    let p := mgetD w.cas.pools (key / 65536) blankPool
    let taken := w.cas.pageIns.filter (fun x => x.slot = key)
    let w := forAll taken (fun x w => freePages false (key / 65536) (x.level = 1) x.frame.toList w) w
    { w with cas := { w.cas with
      slots := mdel w.cas.slots key
      pools := mset w.cas.pools (key / 65536) (s.pages.foldl (fun p f => freePage false f p) p)
      pageIns := w.cas.pageIns.filter (fun x => x.slot ≠ key) } }

/-- The partition of a context, for the pages it returns. -/
def ctxPart (w : World) (c : Nat) : Nat := match ctxOf w c with
  | some x => x.part
  | none => 0

/-- Writes INVALID into every entry of an object and its aliases; answers their keys, the pages they owned and the slots
that hold their off-loaded pages. -/
def unmapObj (id : Nat) (w : World) : (List Nat × List (Nat × Bool × Bool) × List Nat) × World :=
  match objOf w id with
  | none => (([], [], []), w)
  | some o =>
    let os := o :: (aliasesOf w id).map (·.2)
    let keys := os.flatMap objKeys
    ((keys, os.flatMap (ownedPages w), os.flatMap (offSlots w)), forAll keys (fun k => setPte k 0) w)

/-- OBJECT_FREE (R326): a DRAINING object without a holder. An alias is freed with its storage object only. -/
def objectFree (id : Nat) (w : World) : World :=
  match objOf w id with
  | none => w
  | some o =>
    if o.drain = none || o.freeing || heldSelf w id o then w
    else match o.kind with
      | .aliasOf _ => w
      | _ =>
        let r := unmapObj id w
        invalidate r.1.1 (.freeObj id r.1.2.1 r.1.2.2) (updObj id (fun o => { o with freeing := true }) r.2)

def execObjectFree (id : Nat) (s : State) := run (objectFree id) s

/-! ### Invalidation confirmed (R252) -/

/-- Removes translations from every TLB. -/
def tlbDrop (keys : List Nat) (w : World) : World :=
  let keep (t : Map W64) : Map W64 := t.filter (fun p => !(keys.contains p.1))
  { w with
    cores := w.cores.map (fun c => (c.1, { c.2 with tlb := keep c.2.tlb }))
    mem := { w.mem with ctlb := w.mem.ctlb.map (fun c => (c.1, keep c.2)), etlb := keep w.mem.etlb } }

/-- A memory command completes: an entry's work, or the command of FE_CTX_CMD, whose status and busy bit
FE_CTX_RESULT shows (R342). -/
def memDone (work : Option Nat) (st : Nat) (w : World) : World :=
  match work with
  | some k => finWork k st w
  | none =>
    let w := fldSet (fldSet w rFE_CTX_RESULT 40 8 st) rFE_CTX_RESULT 63 1 0
    { w with fe := { w.fe with ctxRun := none } }

/-- Is an invalidation of some of these keys still in progress? -/
def invPending (w : World) (keys : List Nat) : Bool := w.mem.inval.any (fun r => r.keys.any (fun k => keys.contains k))

end Sys2Proof.Machine
end

