-- ==== Sys2Proof/Machine/Models.lean ====
section
/-!
DEFINITION. Models (R257 to R259): where their pages lie, acquire and release, promotion and eviction.
-/
namespace Sys2Proof.Machine

/-- The frame of 64 KiB unit `j` among frames of one page size. -/
def unitFrame (big : Bool) (frames : List Nat) (j : Nat) : Nat :=
  if big then nth frames (j / 32) 0 + j % 32 * 65536 else nth frames j 0

/-- The frame of 64 KiB unit `j` of the warm copy (R257), in the page size its object has. -/
def warmUnit (w : World) (m : Model) (j : Nat) : Nat := match objOf w m.warm with
  | some o =>
    let va := o.va + pageBytes o.page2m * (if o.page2m then j / 32 else j)
    (match mget o.kept va with
      | some f => f
      | none => pteFrame (pteOf w o.ctx (lvlOf o.page2m) va)) + (if o.page2m then j % 32 * 65536 else 0)
  | none => 0

/-- The 64 KiB units of one page of a model. -/
def pageUnits (m : Model) : Nat := if modelBig m then 32 else 1

/-- Copies one page of a model unit by unit between its copies; `src` and `dst` answer a unit's frame. -/
def copyModelPage (m : Model) (page : Nat) (src dst : Nat → Nat) (w : World) : World :=
  iter (pageUnits m) (fun i w => copyPage (src (pageUnits m * page + i)) (dst (pageUnits m * page + i)) 65536 w) w

/-- The frame a model's unit is read from: hot once its page has landed (R258). -/
def modelFrame (w : World) (m : Model) (j : Nat) : Nat :=
  let useHot := (m.st = .loading || m.st = .hot) && decide (j / pageUnits m < m.landed)
  if useHot then unitFrame (modelBig m) m.frames j else warmUnit w m j

/-- Writes the leaves of one mapping of a model for the units `lo` to `lo + n - 1`; answers the keys changed. -/
def writeModelLeaves (k lo n : Nat) (o : Obj) (w : World) : List Nat × World :=
  match modelOf w k with
  | none => ([], w)
  | some m =>
    let step := if o.page2m then 32 else 1
    (List.range n).foldl (fun (a : List Nat × World) i =>
      let j := lo + i
      if j % step = 0 && decide (65536 * j < o.len) then
        let va := o.va + 65536 * j
        let lvl := lvlOf o.page2m
        (a.1 ++ [pteKey o.ctx lvl va], setLeaf o.ctx lvl va (leafWord 1 0 true 0 true (modelFrame w m j)) a.2)
      else a) ([], w)

/-- Switches the leaves of every mapping of a model for some units, and starts their invalidation. -/
def switchLeaves (k lo n : Nat) (cont : InvCont) (w : World) : World :=
  let r := (mappingsOf w k).foldl (fun (a : List Nat × World) p =>
    let x := writeModelLeaves k lo n p.2 a.2
    (a.1 ++ x.1, x.2)) ([], w)
  invalidate r.1 cont r.2

/-- Keys of a model's leaves. -/
def modelKeys (w : World) (k : Nat) : List Nat := (mappingsOf w k).flatMap (fun p => objKeys p.2)

/-! ### Promotion and eviction (R258) -/

def evictable (m : Model) : Bool := m.st = .hot && m.use = 0 && m.pins = 0

/-- Inserts by the stamp of the last release, least recent first. -/
def insRelease (x : Nat × Model) : List (Nat × Model) → List (Nat × Model)
  | [] => [x]
  | y :: t => if x.2.release ≤ y.2.release then x :: y :: t else y :: insRelease x t

/-- The evictable models of a partition, least recent release first. -/
def victims (w : World) (part : Nat) : List (Nat × Model) :=
  (w.mem.models.filter (fun p => p.2.part = part && evictable p.2)).foldr insRelease []

/-- Would the model's pages fit once these models are evicted? -/
def fitsAfter (w : World) (m : Model) (vs : List (Nat × Model)) : Bool :=
  let freed := (vs.map (fun v => hotUnits v.2)).sum
  let pool := vs.foldl (fun p v => v.2.frames.foldl (fun p f => freePage (modelBig v.2) f p) p) (hbmPool w m.part)
  let big := modelBig m
  decide (fld w (rMEM_HOT m.part) 0 26 - freed + m.len / 65536 ≤ fld w (rMEM_HOT m.part) 32 26) &&
    (allocN big (m.len / pageBytes big) pool).isSome

/-- The shortest run of victims whose eviction meets the need. -/
def needed (w : World) (m : Model) : Option (List (Nat × Model)) :=
  let vs := victims w m.part
  ((List.range (vs.length + 1)).map vs.take).find? (fitsAfter w m)

/-- Starts an eviction: every leaf goes back to the warm frames. -/
def evict (k : Nat) (w : World) : World :=
  let w := updModel k (fun m => { m with st := .evicting }) w
  match modelOf w k with
  | some m => switchLeaves k 0 (m.len / 65536) .nothing w
  | none => w

/-- Starts the copy: hot pages are taken from the pool and charged to the hot budget. -/
def load (k : Nat) (m : Model) (w : World) : World :=
  let big := modelBig m
  match allocN big (m.len / pageBytes big) (hbmPool w m.part) with
  | none => w
  | some (fs, pool) =>
    let used := fld w (rMEM_HOT m.part) 0 26
    let w := fldSet (setPool false m.part pool w) (rMEM_HOT m.part) 0 26 (used + m.len / 65536)
    updModel k (fun m => { m with st := .loading, frames := fs, landed := 0, again := false }) w

/-- Promotion of a WARM model; poison of its warm copy is carried (R471). A failed promotion leaves it WARM and advances MEM_MODEL_MISS. -/
def promote (k : Nat) (w : World) : World :=
  match modelOf w k with
  | none => w
  | some m =>
    if m.st ≠ .warm then w
    else match needed w m with
      | none => bump (updModel k (fun m => { m with again := false }) w) rMEM_MODEL_MISS 1
      | some [] => load k m w
      | some vs => updModel k (fun m => { m with again := true }) (forAll vs (fun v => evict v.1) w)

/-- Is a model of the partition EVICTING? -/
def evictingIn (w : World) (part : Nat) : Bool := w.mem.models.any (fun p => p.2.part = part && p.2.st = .evicting)

/-- Promotions that waited for evictions of their partition go on once none is under way. -/
def promoteWaiting (part : Nat) (w : World) : World :=
  if evictingIn w part then w
  else forAll ((w.mem.models.filter (fun p => p.2.part = part && p.2.again && p.2.st = .warm)).map (·.1)) promote w

/-- An acquire or MODEL_HOT asks for the hot copy (R258, R259). A promotion that waits for its victims' evictions goes on
waiting. -/
def askHot (k : Nat) (w : World) : World :=
  match modelOf w k with
  | none => w
  | some m => match m.st with
    | .warm => if m.again && evictingIn w m.part then w else promote k w
    | .evicting => updModel k (fun m => { m with again := true }) w
    | _ => w

def acquireModel (k : Nat) (w : World) : World := askHot k (updModel k (fun m => { m with use := m.use + 1 }) w)

def releaseModel (k : Nat) (w : World) : World :=
  let n := (w.mem.releases + 1) % 2 ^ 64
  updModel k (fun m => { m with use := m.use - 1, release := n }) { w with mem := { w.mem with releases := n } }

/-- PROMOTION_PAGE_LANDED: the next page of a LOADING model has been copied. It waits while the partition's
host-tier bucket admits nothing. MODEL_HOT completes once the last page's switch is confirmed (R252). -/
def pageLanded (k : Nat) (w : World) : World :=
  match modelOf w k with
  | none => w
  | some m =>
    if m.st ≠ .loading || m.frames.length ≤ m.landed then w
    else if !(admits w 1 m.part) then holdReq 1 m.part w
    else
      let last := m.landed + 1 = m.frames.length
      let w := charge 1 m.part (pageBytes (modelBig m))
        (copyModelPage m m.landed (warmUnit w m) (unitFrame (modelBig m) m.frames) w)
      let w := updModel k (fun m => { m with landed := m.landed + 1, st := if last then .hot else m.st }) w
      switchLeaves k (pageUnits m * m.landed) (pageUnits m) (if last then .modelHot k else .nothing) w

def execPromotionPageLanded (k : Nat) (s : State) := run (pageLanded k) s

/-- EVICTION_COMPLETE: once the switched leaves are confirmed the hot pages return, and a promotion that waited
for room goes on. -/
def evictionComplete (k : Nat) (w : World) : World :=
  match modelOf w k with
  | none => w
  | some m =>
    if m.st ≠ .evicting || invPending w (modelKeys w k) then w
    else
      promoteWaiting m.part (updModel k (fun m => { m with st := .warm }) (dropHot k w))

def execEvictionComplete (k : Nat) (s : State) := run (evictionComplete k) s

/-! ### The end of models and objects (R257, R326), and what follows an invalidation (R252) -/

/-- A model ends with its last mapping (R257): its hot pages return and its warm copy is held no longer. MODEL_HOT
commands that wait for it complete; the spec does not say with which status, so it is left open. A promotion that waited
for its eviction goes on. -/
def endModel (k : Nat) (w : World) : World :=
  if (mappingsOf w k).isEmpty then
    match modelOf w k with
    | none => w
    | some m =>
      let w := dropHot k w
      let w := { w with mem := { w.mem with models := mdel w.mem.models k } }
      let w := forAll m.waiters (fun x w => memDone x (freeVal w % 10) (freeUsed w)) w
      if m.st = .evicting then promoteWaiting m.part w else w
  else w

/-- The last step of freeing: pages return, Cassia frees the slots that hold its off-loaded pages, the object and its aliases leave the table. -/
def finishFree (id : Nat) (pages : List (Nat × Bool × Bool)) (slots : List Nat) (w : World) : World :=
  match objOf w id with
  | none => w
  | some o =>
    let w := forAll pages (fun p w => freePages p.2.2 o.part p.2.1 [p.1] w) w
    let w := { w with sched := { w.sched with moved := w.sched.moved.map (fun m =>
      (m.1, m.2.filter (fun x => !((objKeys o).contains x.key)))) } }
    let w := forAll slots casFree w
    let gone := id :: (aliasesOf w id).map (·.1)
    let w := bump w rFE_OBJ_FREED gone.length
    let w := { w with mem := { w.mem with objs := w.mem.objs.filter (fun p => !(gone.contains p.1)) } }
    match o.kind with
    | .model k => endModel k w
    | _ => w

end Sys2Proof.Machine
end

