-- ==== Sys2Proof/Machine/MemCmd.lean ====
section
/-!
DEFINITION. Memory commands (R254 to R258): MAP, UNMAP, ALIAS and the model commands, from a queue or from
FE_CTX_CMD. Each command takes the key of the work it executes.
-/
namespace Sys2Proof.Machine

/-! ### The command structure (R254, R255) -/

/-- A memory command in execution: its work (`none` for MEMCMD), context, partition, stamp and bytes. -/
structure MemJob where
  work : Option Nat
  ctx : Nat
  part : Nat
  stamp : Nat
  nowait : Bool
  cmd : List Byte

def MemJob.flags (j : MemJob) : Nat := le j.cmd 2 1
def MemJob.va (j : MemJob) : Nat := le j.cmd 8 8
def MemJob.len (j : MemJob) : Nat := le j.cmd 16 8
def MemJob.src (j : MemJob) : Nat := le j.cmd 24 8
def MemJob.num (j : MemJob) : Nat := le j.cmd 4 2
def MemJob.key (j : MemJob) : Nat := modelKey j.part j.num

/-- The header's version or op is not one the device supports. -/
def jobBad (j : MemJob) : Bool :=
  le j.cmd 0 1 ≠ 1 || le j.cmd 1 1 = 0 || decide (8 < le j.cmd 1 1)

/-- A field of R254 that the op does not use, or a reserved one, is not 0. -/
def jobUnused (flags legacy model va len src : Bool) (j : MemJob) : Bool :=
  (if flags then bits j.flags 6 2 ≠ 0 else j.flags ≠ 0) ||
  (if legacy then decide (8 ≤ le j.cmd 3 1) else le j.cmd 3 1 ≠ 0) ||
  (if model then decide (1024 ≤ j.num) else j.num ≠ 0) || le j.cmd 6 2 ≠ 0 ||
  (if va then decide (2 ^ 57 ≤ j.va) else j.va ≠ 0) || (!len && j.len ≠ 0) || (!src && j.src ≠ 0) ||
  le j.cmd 32 32 ≠ 0

/-- A range that is not whole pages, is empty, or leaves the 57-bit space. -/
def rangeBad (page va len : Nat) : Bool := va % page ≠ 0 || len % page ≠ 0 || len = 0 || decide (2 ^ 57 < va + len)

/-- A job's answer: done with a status, or `none` where it is held and is tried again. -/
def jobDone (j : MemJob) (st : Nat) (w : World) : Option World := some (memDone j.work st w)

/-! ### MAP (R256) -/

/-- Takes the pages and an entry of the object table, or says that they are short. -/
def mapTake (r : MapRun) (w : World) : Option (MapRun × World) :=
  let inFlight := (w.mem.maps.filter (fun m => !(m.frames.isEmpty))).length
  if 262144 ≤ w.mem.objs.length + inFlight then none
  else match allocN r.page2m (r.len / pageBytes r.page2m) (poolOf w r.host r.part) with
    | none => none
    | some (fs, pool) => some ({ r with frames := fs, dirty := fs }, setPool r.host r.part pool w)

def addMap (r : MapRun) (w : World) : World := { w with mem := { w.mem with maps := w.mem.maps ++ [r] } }

/-- MAP (R253, R255). DESIGN CHOICE: the range of a MAP that still waits for pages or for their clearing counts as mapped for
another MAP's overlap check, and not for an ALIAS's or MODEL_REG's (R255 says only mapped range). -/
def mapJob (j : MemJob) (w : World) : Option World :=
  let big := bit j.flags 1
  if jobUnused true false false true true false j || rangeBad (pageBytes big) j.va j.len ||
      decide (2 ≤ bits j.flags 4 2) || overlaps w j.ctx j.va j.len ||
      w.mem.maps.any (fun m => m.ctx = j.ctx && decide (j.va < m.va + m.len) && decide (m.va < j.va + j.len)) then
    jobDone j stVersion w
  else
    let r : MapRun :=
      { work := j.work, ctx := j.ctx, part := j.part, va := j.va, len := j.len, host := bit j.flags 2, page2m := big,
        attr := bits j.flags 4 2, wp := bit j.flags 3, frames := [], dirty := [] }
    match mapTake r w with
    | some (r, w) => some (addMap r w)
    | none => if j.nowait || bit j.flags 0 then jobDone j stTimeout w else some (addMap r w)

/-- The pages of a MAP are clear: its leaves are written and its object exists. -/
def mapFinish (r : MapRun) (w : World) : World :=
  let vas := pagesOf r.page2m r.va r.len
  let lvl := lvlOf r.page2m
  let w := forAll (vas.zip r.frames) (fun p w => setLeaf r.ctx lvl p.1 (leafWord 1 r.attr r.wp 0 false p.2) w) w
  let w := newObj { ctx := r.ctx, part := r.part, va := r.va, len := r.len, kind := .map, host := r.host, page2m := r.page2m,
                    attr := r.attr, wp := r.wp, drain := none, freeing := false, kept := [] } w
  invalidate (vas.map (pteKey r.ctx lvl)) (.finish r.work stOK) w

/-- PAGE_CLEAR_COMPLETE (R253): one page of a MAP is zero. -/
def pageCleared (frame : Nat) (w : World) : World :=
  match w.mem.maps.find? (fun m => m.dirty.contains frame) with
  | none => w
  | some r =>
    let w := clearPage frame (pageBytes r.page2m) w
    let r' := { r with dirty := r.dirty.filter (· ≠ frame) }
    let others := w.mem.maps.filter (fun m => !(m.dirty.contains frame))
    if r'.dirty.isEmpty then mapFinish r' { w with mem := { w.mem with maps := others } }
    else
      let ms := w.mem.maps.map (fun m => if m.dirty.contains frame then r' else m)
      { w with mem := { w.mem with maps := ms } }

def execPageClearComplete (frame : Nat) (s : State) := run (pageCleared frame) s

/-- MAP_RESUME (R256): the MAP that has waited longest for its partition's pool takes what it needs. -/
def mapResume (k : Nat) (w : World) : World :=
  match w.mem.maps.find? (fun m => m.work = some k && m.frames.isEmpty) with
  | none => w
  | some r =>
    match w.mem.maps.find? (fun m => m.frames.isEmpty && m.part = r.part && m.host = r.host) with
    | none => w
    | some first =>
      if first.work ≠ some k then w
      else match mapTake r w with
        | none => w
        | some (r', w) =>
          let ms := w.mem.maps.map (fun m => if m.work = some k then r' else m)
          { w with mem := { w.mem with maps := ms } }

def execMapResume (k : Nat) (s : State) := run (mapResume k) s

/-! ### UNMAP and ALIAS -/

/-- UNMAP (R325): the LIVE object whose first address is va becomes DRAINING. -/
def unmapJob (j : MemJob) (w : World) : Option World :=
  if jobUnused false false false true false false j then jobDone j stVersion w
  else match objFirst w j.ctx j.va with
    | some (id, o) => if o.drain = none then jobDone j stOK (drainObj id w) else jobDone j stVersion w
    | none => jobDone j stVersion w

/-- Bytes of an element of a legacy format (R64). -/
def aliasBytes (code : Nat) : Nat := if code = 3 || code = 4 then 2 else 1

/-- R255: does src_va name an object that is draining for the stamp, or none? -/
def srcGone (w : World) (j : MemJob) : Bool := match objFirst w j.ctx j.src with
  | none => true
  | some (_, o) => o.freeing || (match o.drain with | some d => decide (d < j.stamp) | none => false)

/-- The leaf of a logical page of an alias: 64 KiB of FP32 elements on 16 × s KiB of its storage, whose attribute and
protection it takes (DESIGN CHOICE: ALIAS names neither). A page of a model is named in the warm copy, which stays where
it is. -/
def aliasLeaf (w : World) (o : Obj) (s code i : Nat) : Option Nat :=
  let off := 16384 * s * i
  let e := pteOf w o.ctx 0 (o.va + off / 65536 * 65536)
  let frame := match o.kind with
    | .model k => (match modelOf w k with | some m => warmUnit w m (off / 65536) | none => 0)
    | _ => pteFrame e
  if pteKind e = 1 then some (leafWord 1 (pteAttr e) (pteWp e) code false (frame + off % 65536)) else none

/-- The object whose end ends an alias: its storage object, or that of the alias it lies on. -/
def aliasRoot (id : Nat) (o : Obj) : Nat := match o.kind with
  | .aliasOf r => r
  | _ => id

/-- ALIAS (R250, R256). It waits while a page of its storage object is leaving or off-loaded. -/
def aliasJob (j : MemJob) (w : World) : Option World :=
  let code := le j.cmd 3 1
  let s := aliasBytes code
  let bad := jobUnused false true false true true true j || rangeBad 65536 j.va j.len ||
    overlaps w j.ctx j.va j.len || code = 0 || code = 6 || code = 7
  let storage := objFirst w j.ctx j.src
  let short := match storage with
    | some (_, o) => o.page2m || decide (o.len < j.len * s / 4)
    | none => false
  if srcGone w j then jobDone j stObjGone w
  else if bad || short then jobDone j stVersion w
  else match storage with
    | none => jobDone j stObjGone w
    | some (id, o) =>
      let vas := pagesOf false j.va j.len
      let leaves := vas.zipIdx.map (fun p => aliasLeaf w o s code p.2)
      if leaves.any (·.isNone) || !(objRoom w) then none
      else
        let w := forAll (vas.zip leaves) (fun p w => setLeaf j.ctx 0 p.1 (p.2.getD 0) w) w
        let w := newObj { ctx := j.ctx, part := j.part, va := j.va, len := j.len, kind := .aliasOf (aliasRoot id o), host := o.host,
                          page2m := false, attr := o.attr, wp := o.wp, drain := none, freeing := false, kept := [] } w
        some (invalidate (vas.map (pteKey j.ctx 0)) (.finish j.work stOK) w)

/-! ### Models -/

/-- Maps a registered model into the issuing context, by leaves of 2 MiB where the model's pages are. DESIGN CHOICE: where
the address or the warm copy's own pages allow no leaf of 2 MiB, the leaves are of 64 KiB. -/
def mapModel (j : MemJob) (w : World) : Option World :=
  match modelOf w j.key with
  | none => none
  | some m =>
    let big := modelBig m && j.va % 2 ^ 21 = 0 && (match objOf w m.warm with | some o => o.page2m | none => false)
    let o : Obj := { ctx := j.ctx, part := j.part, va := j.va, len := j.len, kind := .model j.key, host := false, page2m := big,
                     attr := 0, wp := true, drain := none, freeing := false, kept := [] }
    let r := writeModelLeaves j.key 0 (j.len / 65536) o w
    some (invalidate r.1 (.finish j.work stOK) (newObj o r.2))

def modelRegJob (j : MemJob) (w : World) : Option World :=
  let bad := jobUnused false false true true true true j || rangeBad 65536 j.va j.len || overlaps w j.ctx j.va j.len
  match modelOf w j.key with
  | some m =>
    if srcGone w j then jobDone j stObjGone w
    else if bad || m.len ≠ j.len then jobDone j stVersion w
    else if m.bad && m.st = .warm then jobDone j stPoison w
    else if !(objRoom w) then none
    else mapModel j w
  | none =>
    let warm := objFirst w j.ctx j.src
    let short := match warm with
      | some (_, o) => o.kind ≠ .map || !o.host || o.attr ≠ 0 || decide (o.len < j.len)
      | none => false
    if srcGone w j then jobDone j stObjGone w
    else if bad || short || decide (1024 ≤ w.mem.models.length) then jobDone j stVersion w
    else if !(objRoom w) then none
    else match warm with
      | none => jobDone j stObjGone w
      | some (id, _) =>
        let m : Model := { part := j.part, num := j.num, len := j.len, st := .warm, warm := id, use := 0, pins := 0,
                           release := 0, frames := [], landed := 0, again := false, waiters := [], bad := false }
        mapModel j { w with mem := { w.mem with models := mset w.mem.models j.key m } }

def modelDeregJob (j : MemJob) (w : World) : Option World :=
  if jobUnused false false true true false false j then jobDone j stVersion w
  else match objFirst w j.ctx j.va with
    | some (id, o) =>
      if o.kind = .model j.key && o.drain = none then jobDone j stOK (drainObj id w) else jobDone j stVersion w
    | none => jobDone j stVersion w

/-- MODEL_PIN, MODEL_UNPIN and MODEL_HOT name a registered model of the partition. -/
def modelJob (f : Nat → World → Option World) (j : MemJob) (w : World) : Option World :=
  if jobUnused false false true false false false j || (modelOf w j.key).isNone then jobDone j stVersion w
  else f j.key w

def modelPinJob (j : MemJob) (w : World) : Option World :=
  modelJob (fun k w => jobDone j stOK (updModel k (fun m => { m with pins := m.pins + 1 }) w)) j w

def modelUnpinJob (j : MemJob) (w : World) : Option World :=
  modelJob (fun k w => jobDone j stOK (updModel k (fun m => { m with pins := m.pins - 1 }) w)) j w

/-- MODEL_HOT starts promotion and completes when the model is HOT. -/
def modelHotJob (j : MemJob) (w : World) : Option World :=
  modelJob (fun k w => match modelOf w k with
    | some m =>
      if m.st = .hot then jobDone j stOK w
      else some (askHot k (updModel k (fun m => { m with waiters := m.waiters ++ [j.work] }) w))
    | none => none) j w

/-! ### The commands -/

/-- The job of a released memory command that may start: commands start in release order (R254). -/
def memJobOf (w : World) (k : Nat) : Option MemJob :=
  match getWork w k with
  | none => none
  | some x =>
    let earlier := w.fe.works.any (fun p =>
      p.2.kind = 4 && p.2.fin = none && !p.2.begun && decide (p.2.order < x.order))
    if x.kind ≠ 4 || x.fin ≠ none || x.begun || earlier then none
    else some { work := some k, ctx := x.ctx, part := x.part, stamp := x.stamp, nowait := false, cmd := x.cmd }

/-- Runs a released memory command of one op. A structure whose version or op the device does not support ends with
VERSION_MISMATCH (R255). -/
def memCmd (op : Nat) (f : MemJob → World → Option World) (k : Nat) (w : World) : World :=
  match memJobOf w k with
  | none => w
  | some j =>
    if jobBad j then updWork k (fun x => { x with begun := true }) (memDone j.work stVersion w)
    else if le j.cmd 1 1 ≠ op then w
    else match f j w with
      | none => w
      | some w => updWork k (fun x => { x with begun := true }) w

/-- The effect of a memory command by its op. -/
def memOp (op : Nat) : MemJob → World → Option World := match op with
  | 1 => mapJob
  | 2 => unmapJob
  | 3 => aliasJob
  | 4 => modelRegJob
  | 5 => modelDeregJob
  | 6 => modelPinJob
  | 7 => modelUnpinJob
  | _ => modelHotJob

def execMap (k : Nat) (s : State) := run (memCmd 1 mapJob k) s
def execUnmap (k : Nat) (s : State) := run (memCmd 2 unmapJob k) s
def execAlias (k : Nat) (s : State) := run (memCmd 3 aliasJob k) s
def execModelReg (k : Nat) (s : State) := run (memCmd 4 modelRegJob k) s
def execModelDereg (k : Nat) (s : State) := run (memCmd 5 modelDeregJob k) s
def execModelPin (k : Nat) (s : State) := run (memCmd 6 modelPinJob k) s
def execModelUnpin (k : Nat) (s : State) := run (memCmd 7 modelUnpinJob k) s
def execModelHot (k : Nat) (s : State) := run (memCmd 8 modelHotJob k) s

/-- Runs a memory command of FE_CTX_CMD (R342), with nowait forced. -/
def memDirect (ctx part stamp : Nat) (cmd : List Byte) (w : World) : World :=
  let j : MemJob := { work := none, ctx := ctx, part := part, stamp := stamp, nowait := true, cmd := cmd }
  if jobBad j then memDone none stVersion w
  else (memOp (le cmd 1 1) j w).getD (memDone none stTimeout w)

end Sys2Proof.Machine
end

