-- ==== Sys2Proof/Machine/FrontEnd.lean ====
section
/-!
DEFINITION. The front end's queues (R292 to R302): enable, doorbell, fetch, slots, release and completion of
entries, time limits, WAIT and NOP, and the end of a queue (R333). A released entry or graph node is named by its
work's key, 8192 · queue, plus 1 + node for a node.
-/
namespace Sys2Proof.Machine

/-! ### Queues -/

def queueOf (w : World) (q : Nat) : Option Queue := mget w.fe.queues q

def updQueue (q : Nat) (f : Queue → Queue) (w : World) : World :=
  { w with fe := { w.fe with queues := mupd w.fe.queues q f } }

/-- The next number of the front end's order of events. -/
def nextOrder (w : World) : Nat × World := (w.fe.orders, { w with fe := { w.fe with orders := w.fe.orders + 1 } })

/-- The sequence number of entry `t` (R297). -/
def seqOf (w : World) (q t : Nat) : Nat := (rg w (rFE_QSEQ q) + t) % 2 ^ 64

/-- (s64)(a − b) ≥ 0. -/
def serialGe (a b : Nat) : Bool := decide ((a + 2 ^ 64 - b % 2 ^ 64) % 2 ^ 64 < 2 ^ 63)

def queueDone (w : World) (q : Nat) : Nat := rg w (rFE_QDONE q)

def queuePrio (w : World) (q : Nat) : Nat := fld w (rFE_QCFG q) 20 4

/-- Entries accepted and not completed. -/
def openEntries (x : Queue) : Nat := x.door - x.done

/-- The source unit of a queue's messages (R315). -/
def queueUnit (x : Queue) : Nat := 0x090 + (match x.slot with
  | some s => s / 4
  | none => match x.lastSlot with
    | some s => s / 4
    | none => 0)

/-- The rings of a queue's messages (R315). -/
def queueDest (w : World) (q : Nat) : MsgDest :=
  let c := rFE_QCFG q
  .rings (if fld w c 16 1 = 1 then some (fld w c 0 6) else none) (if fld w c 17 1 = 1 then some (fld w c 8 6) else none)

/-- The context of a queue is, or was when its destroy began, LOST. -/
def ctxDead (w : World) (c : Nat) : Bool := match ctxOf w c with
  | some x => x.cause ≠ 0
  | none => true

/-! ### Entries (R295, R296) -/

def entKind (e : Entry) : Nat := bits e.w0 8 8
def entVersion (e : Entry) : Nat := bits e.w0 0 8
def entNotify (e : Entry) : Bool := bit e.w0 16

/-- A field of the entry breaks R295 or R296. -/
def entBad (e : Entry) : Bool :=
  let k := entKind e
  entVersion e ≠ 1 || decide (9 < k) || bits e.w0 17 47 ≠ 0 ||
  (match k with
    | 0 => e.w1 ≠ 0 || e.w3 ≠ 0
    | 5 => if bit e.w3 16 then bits e.w3 17 47 ≠ 0 else bits e.w3 10 6 ≠ 0 || bits e.w3 17 47 ≠ 0
    | 6 => e.w1 ≠ 0 || bits e.w3 11 5 ≠ 0 || bits e.w3 32 32 ≠ 0
    | _ => e.w3 ≠ 0)

/-- Bytes of the command structure of a kind. -/
def cmdBytes (kind : Nat) : Nat := if kind = 3 then 128 else 64

/-- Kinds whose entry names a command structure that is read at release (R301). -/
def namesCmd (kind : Nat) : Bool := kind = 2 || kind = 3 || kind = 4 || kind = 7 || kind = 8 || kind = 9

/-- The command structure of an entry lies in an unmapped page or in an object that is draining for it or freed (R301). -/
def cmdGone (w : World) (c kind : Nat) (e : Entry) : Bool := 2 ^ 57 ≤ e.w1 || rangeGone w c e.w1 (cmdBytes kind) e.stamp

/-- An executor that holds as many released commands as it can take (R199, R213). -/
def executorFull (w : World) (kind : Nat) : Bool :=
  if kind = 2 then decide (64 ≤ (w.fe.works.filter (fun p => p.2.kind = 2 && p.2.fin = none)).length)
  else if kind = 3 then decide (64 ≤ (w.fe.works.filter (fun p => p.2.kind = 3 && p.2.fin = none)).length)
  else false

/-- Adds a released work (R298, R313): its epoch, its time limit from now, and its place in the order. -/
def addWork (q : Nat) (node : Option Nat) (kind ctx stamp : Nat) (cmd : List Byte) (e : Entry) (w : World) : World :=
  let o := nextOrder w
  let x : Work :=
    { q := q, node := node, kind := kind, ctx := ctx, part := ctxPart w ctx, stamp := stamp,
      epoch := fld w rFE_EPOCH 0 32, since := w.now,
      limit := if kind = 1 then 0 else fld w (rFE_QLIM q) 0 32 * 1000,
      order := o.1, cmd := cmd, begun := false, stop := none, fin := none, notify := entNotify e, cookie := e.w2,
      arg0 := e.w1, arg1 := e.w3 }
  { o.2 with fe := { o.2.fe with works := mset o.2.fe.works (workKey q node) x } }

/-! ### Completion (R298, R315, R329, R330) -/

/-- Sends and ends the subscriptions to an entry, in handle order (R330). -/
def sendSubs (q seq st unit : Nat) (w : World) : World :=
  let hit (s : Sub) : Bool := s.q = q && s.seq = seq
  let subs := w.fe.subs.filter (fun p => hit p.2)
  let w := forAll subs (fun p w =>
    bump (sendTo (.rings p.2.cc p.2.host) unit p.2.ctx st p.2.cookie w) rFE_SUB_SENT 1) w
  { w with fe := { w.fe with subs := w.fe.subs.filter (fun p => !(hit p.2)) } }

/-- The KILL of a context ends when every entry it stopped has completed (R335). -/
def killCheck (w : World) : World := match w.fe.ctxRun with
  | some (.kill c) =>
    if w.fe.works.any (fun p => p.2.ctx = c) then w
    else fldSet { w with fe := { w.fe with ctxRun := none } } rFE_CTX_RESULT 63 1 0
  | _ => w

/-- Completes the oldest entry of a queue with a status: FE_QDONE, then its message, then its subscriptions. -/
def completeHead (q st : Nat) (notify : Bool) (cookie : Nat) (w : World) : World :=
  match queueOf w q with
  | none => w
  | some x =>
    let seq := seqOf w q x.done
    let w := updQueue q (fun x => { x with done := x.done + 1, ents := x.ents.drop 1 }) w
    let w := journalChange q (rgSet w (rFE_QDONE q) seq)
    let w := bump (fldSet w (rFE_QSTAT q) 56 8 st) rFE_ENTRIES 1
    let w := { w with fe := { w.fe with works := mdel w.fe.works (workKey q none) } }
    let w := if notify then sendTo (queueDest w q) (queueUnit x) (queueCtx w q) st cookie w else w
    killCheck (sendSubs q seq st (queueUnit x) w)

/-- The status a work completes with: a cause it incurred stays (R12); an abort in a lost context is the loss
(R13, R333). -/
def finalStatus (w : World) (x : Work) (st : Nat) : Nat :=
  match x.stop with
  | some s => if isCause s then s else if st = stAborted && ctxDead w x.ctx then stCtxLost else st
  | none => if st = stAborted && ctxDead w x.ctx then stCtxLost else st

/-! ### Enable, disable and doorbells (R293, R294, R317) -/

/-- May a ring page lie here (R293)? -/
def ringPageOk (w : World) (ctx va : Nat) : Bool :=
  match walk w ctx va with
  | .error _ => false
  | .ok l =>
    let pa := leafPa l va
    (pteAttr l.pte = 0 && pteLegacy l.pte = 0 && (isMain pa || pteKind l.pte = 3)) || (pteAttr l.pte = 2 && inPcie pa)

def ringMapped (w : World) (q : Nat) : Bool :=
  (vaPages (ringVa w q) (ringLen w q)).all (ringPageOk w (queueCtx w q))

/-- The result of an enable before the header's read (R317): 3 or 2 as FE_QCTL_q.error names them, 0 where both checks
pass. -/
def enableError (w : World) (q : Nat) : Nat :=
  let lg := ringLog w q
  if lg < 6 || 15 < lg then 3
  else if !(ctxLive w (queueCtx w q)) || !(ringMapped w q) then 2
  else 0

/-- The read of a ring's header, a device request (R269): error 1 for another version. -/
def headerError (q : Nat) (w : World) : Nat × World :=
  let r := vaDevRead byControl (queueCtx w q) (ringVa w q) 1 w
  (b2n (r.1.headD 0 ≠ 1), r.2)

/-- Does the enable of a queue wait for the page of its header? -/
def setEnabling (q : Nat) (waits : Bool) (w : World) : World :=
  { w with fe := { w.fe with enabling := if waits then sIns w.fe.enabling q else w.fe.enabling.filter (· ≠ q) } }

/-- QUEUE_ENABLE: the write of 1 to FE_QCTL_q.enable. The header's read waits while its page is away; the enable goes on
when ENTRY_FETCH reports the read of the ring (DESIGN CHOICE: the rows name no other event for it). -/
def queueEnable (q : Nat) (w : World) : World :=
  if !(configured w) || 1024 ≤ q || (queueOf w q).isSome then w
  else
    let err := enableError w q
    let r := rangeState (queueCtx w q) (ringVa w q) 64 true none w
    if err = 0 && r.1.1 = .waits then setEnabling q true r.2
    else
      let h := if err = 0 then headerError q r.2 else (err, w)
      let err := h.1
      let w := setEnabling q false h.2
      let w := fldSet w (rFE_QCTL q) 2 2 err
      if err ≠ 0 then w
      else
        let w := fldSet w (rFE_QCTL q) 0 1 1
        let w := vaDevWrite byControl (queueCtx w q) (ringVa w q + 8) (natLe 0 8) w
        let w := journalChange q (rgSet w (rFE_QDONE q) ((rg w (rFE_QSEQ q) + 2 ^ 64 - 1) % 2 ^ 64))
        let x : Queue := { door := 0, head := 0, done := 0, stamps := [], ents := [], slot := none, lastSlot := none,
                           destroying := false, launched := [], ready := 0, taken := 0 }
        { w with fe := { w.fe with queues := mset w.fe.queues q x } }

def execQueueEnable (q : Nat) (s : State) := run (queueEnable q) s

/-- A queue leaves the table: its enable bit clears, it holds no slot, and what was preloaded of it is
discarded (R307). -/
def dropQueue (q : Nat) (w : World) : World :=
  let w := fldSet w (rFE_QCTL q) 0 1 0
  let w := bump w rFE_PRELOAD_MISS (w.fe.preloads.filter (fun p => p.2.work / 8192 = q)).length
  { w with fe := { w.fe with
    queues := mdel w.fe.queues q
    preloads := w.fe.preloads.filter (fun p => p.2.work / 8192 ≠ q) } }

/-- QUEUE_DISABLE: the write of 0, dropped while the queue holds uncompleted entries. -/
def queueDisable (q : Nat) (w : World) : World :=
  match queueOf w q with
  | none => setEnabling q false w
  | some x => if openEntries x ≠ 0 || x.destroying then w else dropQueue q w

def execQueueDisable (q : Nat) (s : State) := run (queueDisable q) s

/-- A dropped doorbell write (R294). -/
def doorbellDrop (q : Nat) (w : World) : World := bump (fldSet w (rFE_QSTAT q) 0 1 1) rFE_DB_DROP 1

/-- DOORBELL: a write of v; `whole` says it was an aligned 64-bit store. -/
def doorbell (q v : Nat) (whole : Bool) (w : World) : World :=
  if !(configured w) || 1024 ≤ q then w
  else match queueOf w q with
    | none => doorbellDrop q w
    | some x =>
      let dying := match ctxOf w (queueCtx w q) with
        | some c => c.st = .destroying
        | none => true
      if !whole || x.destroying || dying then doorbellDrop q w
      else if v = x.door then w
      else if v < x.door || x.head + 2 ^ ringLog w q < v then doorbellDrop q w
      else
        let n := v - x.door
        let base := match ctxOf w (queueCtx w q) with | some c => c.stamp | none => 0
        let w := setCtx w (queueCtx w q) (fun c => { c with stamp := c.stamp + n })
        let o := nextOrder w
        updQueue q (fun x => { x with
          door := v
          stamps := x.stamps ++ (List.range n).map (fun i => base + 1 + i)
          ready := if openEntries x = 0 then o.1 else x.ready }) o.2

def execDoorbell (q v : Nat) (whole : Bool) (s : State) := run (doorbell q v whole) s

/-! ### Fetch (R293) -/

/-- The virtual address of entry number `t`. -/
def entryVa (w : World) (q t : Nat) : Nat := ringVa w q + 64 + 32 * (t % 2 ^ ringLog w q)

/-- An entry from its 32 bytes. -/
def entryOf (b : List Byte) (stamp : Nat) : Entry := ⟨le b 0 8, le b 8 8, le b 16 8, le b 24 8, stamp⟩

/-- ENTRY_FETCH: a batch of `n` entries returns, and head is written. A queue whose enable waits reads its header. -/
def entryFetch (q n : Nat) (w : World) : World :=
  match queueOf w q with
  | none => if w.fe.enabling.contains q then queueEnable q w else w
  | some x =>
    let c := queueCtx w q
    if n = 0 || 8 < n || x.destroying || x.stamps.length < n then w
    else
      let r := (List.range n).foldl (fun (a : Bool × World) i =>
        let s := rangeState c (entryVa w q (x.head + i)) 32 false none a.2
        (a.1 && s.1.1 = .ready, s.2)) (true, w)
      if !r.1 then r.2
      else
        let e := (List.range n).foldl (fun (a : List Entry × World) i =>
          let b := vaDevRead byControl c (entryVa w q (x.head + i)) 32 a.2
          (a.1 ++ [entryOf b.1 (nth x.stamps i 0)], b.2)) ([], r.2)
        let w := updQueue q (fun x => { x with
          head := x.head + n, stamps := x.stamps.drop n, ents := x.ents ++ e.1 }) e.2
        vaDevWrite byControl c (ringVa w q + 8) (natLe (x.head + n) 8) w

def execEntryFetch (q n : Nat) (s : State) := run (entryFetch q n) s

/-! ### Slots (R302, R350) -/

/-- Is the queue READY: accepted entries that have not completed, and no slot? -/
def wantsSlot (x : Queue) : Bool := openEntries x ≠ 0 && x.slot = none && !x.destroying

/-- R302's rank: higher priority first, then the one that became READY first. -/
def slotBefore (w : World) (a b : Nat × Queue) : Bool :=
  decide (queuePrio w b.1 < queuePrio w a.1) ||
    (queuePrio w a.1 = queuePrio w b.1 && decide (a.2.ready < b.2.ready))

/-- The queue's current entry is released, or held back because its executor is full (R299): it keeps its slot. -/
def entryUnderWay (w : World) (q : Nat) (x : Queue) : Bool :=
  (getWork w (workKey q none)).isSome || (match x.ents with
    | e :: _ => executorFull w (entKind e)
    | [] => false)

/-- R350's order among queues that may give up their slot: those without uncompleted entries, then lower priority,
then mapped longest. -/
def victimBefore (w : World) (a b : Nat × Queue) : Bool :=
  let ia := openEntries a.2 = 0
  let ib := openEntries b.2 = 0
  (ia && !ib) || (ia = ib && (decide (queuePrio w a.1 < queuePrio w b.1) ||
    (queuePrio w a.1 = queuePrio w b.1 && decide (a.2.taken < b.2.taken))))

/-- SLOT_MAP: firmware maps a READY queue into a slot that is free, or that R350 takes back for it. -/
def slotMap (q slot : Nat) (w : World) : World :=
  match queueOf w q with
  | none => w
  | some x =>
    let mapped := w.fe.queues.filter (fun p => p.2.slot ≠ none)
    let waiting := w.fe.queues.filter (fun p => wantsSlot p.2)
    let free := 32 - mapped.length
    let first := waiting.all (fun p => p.1 = q || !(slotBefore w p (q, x)))
    let take (w : World) : World :=
      let o := nextOrder w
      bump (updQueue q (fun x => { x with slot := some slot, lastSlot := some slot, taken := o.1 }) o.2) rFE_SLOT_MAPS 1
    if 32 ≤ slot || !(wantsSlot x) || (free < waiting.length && !first) then w
    else match mapped.find? (fun p => p.2.slot = some slot) with
      | none => take w
      | some (v, y) =>
        let may (p : Nat × Queue) : Bool :=
          !p.2.destroying && !(entryUnderWay w p.1 p.2) &&
            (openEntries p.2 = 0 || decide (queuePrio w p.1 ≤ queuePrio w q))
        if free ≠ 0 || !(may (v, y)) || mapped.any (fun p => may p && victimBefore w p (v, y)) then w
        else
          let o := nextOrder w
          take (updQueue v (fun y => { y with slot := none, ready := o.1 }) o.2)

def execSlotMap (q slot : Nat) (s : State) := run (slotMap q slot) s

/-! ### Release (R298, R301) -/

/-- A structure that cannot be read for its entry (R301). A rejected CASSIA or SAFFRON entry is counted. -/
def structGone (q kind : Nat) (e : Entry) (w : World) : World :=
  let w := if kind = 2 then bump w rCAS_REJECT 1 else if kind = 3 then bump w rSAF_REJECT 1 else w
  completeHead q stObjGone (entNotify e) e.w2 w

/-- A mode-0 WAIT that names a queue that is not enabled, or one of another partition (R300). -/
def waitBad (w : World) (q : Nat) (e : Entry) : Bool :=
  let t := bits e.w3 0 10
  !(bit e.w3 16) && t ≠ q && ((queueOf w t).isNone ||
    ctxPart w (queueCtx w t) ≠ ctxPart w (queueCtx w q))

/-! ### NOP and WAIT (R296, R300) -/

/-- A work of one kind that is under way. -/
def workRuns (w : World) (k kind : Nat) : Option Work := match getWork w k with
  | some x => if x.kind = kind && x.fin = none then some x else none
  | none => none

/-- ENTRY_NOP: completes at once. -/
def entryNop (k : Nat) (w : World) : World := match workRuns w k 0 with
  | some _ => finWork k stOK w
  | none => w

def execEntryNop (k : Nat) (s : State) := run (entryNop k) s

/-- The key a mode-1 WAIT names: frame, line and sub-line tick. -/
def waitKey (x : Work) : Nat :=
  bits x.arg0 0 48 * 2 ^ 32 + bits x.arg0 48 16 * 2 ^ 16 + bits x.arg1 0 16

/-- Has the condition of a WAIT come true (R300)? While the FTB does not run, frame time is (0, 0, 0). -/
def waitMet (w : World) (x : Work) : Bool :=
  if bit x.arg1 16 then waitKey x = 0 || reachedKey w (waitKey x)
  else
    let t := bits x.arg1 0 10
    t = x.q || serialGe (queueDone w t) x.arg0

/-- WAIT: completes when its condition holds. -/
def waitEntry (k : Nat) (w : World) : World := match workRuns w k 5 with
  | some x => if waitMet w x then finWork k stOK w else w
  | none => w

def execWait (k : Nat) (s : State) := run (waitEntry k) s

/-- WAIT_FRAME_TIME_REACHED: the front end's replica reaches the key of a mode-1 WAIT. -/
def waitFrame (k : Nat) (w : World) : World := match workRuns w k 5 with
  | some x => if bit x.arg1 16 && waitMet w x then finWork k stOK w else w
  | none => w

def execWaitFrameTimeReached (k : Nat) (s : State) := run (waitFrame k) s

/-! ### Time limits (R299) -/

/-- FE_LAUNCH_ERR records the first failure (R304). -/
def launchErr (cause ctx q : Nat) (w : World) : World :=
  recordErr w rFE_LAUNCH_ERR (cause * 2 ^ 56 + ctx * 2 ^ 32 + q)

/-- ENTRY_TIMEOUT: an entry or node of a LIVE context has run past its limit: it is stopped, ends with TIMEOUT and
its context is lost with cause 3. A MAP that still waits for pages has mapped nothing (R256). -/
def entryTimeout (k : Nat) (w : World) : World :=
  match getWork w k with
  | none => w
  | some x =>
    if x.limit = 0 || w.now < x.since + x.limit || x.fin ≠ none || x.stop ≠ none || !(ctxLive w x.ctx) then w
    else
      let w := if x.kind = 1 then launchErr 4 x.ctx x.q w else w
      let waits := w.mem.maps.any (fun m => m.work = some k && m.frames.isEmpty)
      let w := if waits then
          finWork k stTimeout { w with mem := { w.mem with
            maps := w.mem.maps.filter (fun m => m.work ≠ some k) } }
        else w
      loseCtxBy k stTimeout 3 w

def execEntryTimeout (k : Nat) (s : State) := run (entryTimeout k) s

/-! ### The end of a queue (R333) -/

/-- QUEUE_DESTROY: the first write of 1 to FE_QCTL_q.destroy closes the queue and stops its released work. -/
def queueDestroy (q : Nat) (w : World) : World :=
  match queueOf w q with
  | none => w
  | some x =>
    if x.destroying then w
    else
      let w := updQueue q (fun x => { x with destroying := true }) w
      let st := if ctxDead w (queueCtx w q) then stCtxLost else stAborted
      forAll ((w.fe.works.filter (fun p => p.2.q = q)).map (·.1)) (stopWork st) w

def execQueueDestroy (q : Nat) (s : State) := run (queueDestroy q) s

/-- Completes every accepted entry that is left, in sequence order. An entry not yet read is read here, for its
notify flag and its cookie (R332). -/
def completeRest (q st : Nat) : Nat → World → World
  | 0, w => w
  | n + 1, w => match queueOf w q with
    | none => w
    | some x =>
      if openEntries x = 0 then w
      else match x.ents with
        | e :: _ => completeRest q st n (completeHead q st (entNotify e) e.w2 w)
        | [] =>
          let b := vaDevRead byControl (queueCtx w q) (entryVa w q x.done) 32 w
          let e := entryOf b.1 0
          completeRest q st n (completeHead q st (entNotify e) e.w2
            (updQueue q (fun x => { x with stamps := x.stamps.drop 1, head := x.head + 1 }) b.2))

/-- Asks for the ring's pages of the accepted entries that have not been read: does one still wait for its page-in? -/
def ringAwaits (q : Nat) (x : Queue) (w : World) : Bool × World :=
  (List.range (openEntries x - x.ents.length)).foldl (fun (a : Bool × World) i =>
    let r := rangeState (queueCtx w q) (entryVa w q (x.head + i)) 32 false none a.2
    (a.1 || r.1.1 = .waits, r.2)) (false, w)

/-- DESTROY_QUIESCED: no engine holds work of the queue; its entries complete, once those not yet read can be read (R332),
and it is disabled. WAITs on it complete (R300). -/
def destroyQuiesced (q : Nat) (w : World) : World :=
  match queueOf w q with
  | none => w
  | some x =>
    let r := ringAwaits q x w
    if !x.destroying || w.fe.works.any (fun p => p.2.q = q) then w
    else if r.1 then r.2
    else
      let w := r.2
      let st := if ctxDead w (queueCtx w q) then stCtxLost else stAborted
      let w := dropQueue q (completeRest q st (openEntries x) w)
      forAll ((w.fe.works.filter (fun p =>
        p.2.kind = 5 && p.2.fin = none && !(bit p.2.arg1 16) && bits p.2.arg1 0 10 = q)).map (·.1))
        (fun k w => finWork k stOK w) w

def execDestroyQuiesced (q : Nat) (s : State) := runFe (destroyQuiesced q) s

end Sys2Proof.Machine
end

