-- ==== Sys2Proof/Machine/Launch.lean ====
section
/-!
DEFINITION. Launches (R303 to R308, R108 to R112): the partition's cores, the descriptor and its checks, preload,
placement of groups, and what starts and ends a launch on its cores.
-/
namespace Sys2Proof.Machine

/-! ### The descriptor (R303, R304) -/

def dFlags (d : List Byte) : Nat := le d 1 1
def dMode (d : List Byte) : Nat := le d 2 1
def dGroups (d : List Byte) : Nat := le d 4 4
def dRegs (d : List Byte) : Nat := le d 8 2
def dSlm (d : List Byte) : Nat := le d 10 2
def dEntry (d : List Byte) : Nat := le d 16 8
def dCb (d : List Byte) : Nat := le d 24 8
def dLimit (d : List Byte) : Nat := le d 40 4
def dStep (d : List Byte) : Nat := le d 48 8

/-- R304's VERSION_MISMATCH: version, reserved fields, ranges and alignment. `ownCb`: a node's constant buffer
replaces cb_addr (R309). -/
def shapeBad (d : List Byte) : Bool := dRegs d = 0 || decide (255 < dRegs d) || decide (512 < dSlm d)

def sizesBad (d : List Byte) : Bool := dGroups d = 0 || decide (2 ^ 24 < dGroups d) || shapeBad d

def launchBad (ownCb : Bool) (d : List Byte) : Bool :=
  le d 0 1 ≠ 1 || decide (2 ≤ dFlags d) || decide (2 ≤ dMode d) || le d 3 1 ≠ 0 || le d 12 4 ≠ 0 || le d 44 4 ≠ 0 ||
  le d 56 8 ≠ 0 || sizesBad d || dEntry d % 8 ≠ 0 || (!ownCb && dCb d % 64 ≠ 0)

/-- What reading a launch's structures gives: a page is not here yet, a failure with its status, or the descriptor
followed by the constant buffer. -/
inductive LaunchRead where
  | waits
  | fail (status : Nat)
  | ok (cmd : List Byte)

/-- Reads a range for the front end. -/
inductive FeRead where
  | waits
  | gone
  | bytes (b : List Byte)

def feRead (ctx va n stamp : Nat) (w : World) : FeRead × World :=
  if 2 ^ 57 < va + n || rangeGone w ctx va n stamp then (.gone, w)
  else
    let r := rangeState ctx va n false none w
    match r.1.1 with
    | .waits => (.waits, r.2)
    | .fault _ _ => (.gone, r.2)
    | .ready =>
      let b := vaDevRead byControl ctx va n r.2
      (.bytes b.1, b.2)

/-- A cooperative launch whose groups exceed the partition's capacity (R127). The fields of a descriptor of another version,
or with registers or SLM out of range, give no capacity. -/
def coopTooLarge (w : World) (part : Nat) (d : List Byte) : Bool :=
  le d 0 1 = 1 && !(shapeBad d) && bit (dFlags d) 0 && decide ((partCores w part).length * groupsPerCore (dRegs d) (dSlm d) < dGroups d)

/-- Checks a descriptor with its constant buffer, given or read from cb_addr, and its code's first 4 KiB (R304). The first
status in R13's order is `big`, that of a launch too large to be cooperative, where it is CONTEXT_LOST. -/
def checkLaunch (ctx part stamp big : Nat) (misplaced : Bool) (d : List Byte) (cb : Option (List Byte)) (w : World) :
    LaunchRead × World :=
  let coop := coopTooLarge w part d
  let bad := misplaced || launchBad cb.isSome d || coop
  let gone := 2 ^ 57 < dEntry d + 4096 || rangeGone w ctx (dEntry d) 4096 stamp
  let r : FeRead × World := match cb with
    | some b => (.bytes b, w)
    | none => feRead ctx (dCb d) 512 stamp w
  if coop && big = stCtxLost then (.fail big, w)
  else match r.1 with
  | .waits => (.waits, r.2)
  | .gone => (.fail (if le d 0 1 ≠ 1 then stVersion else stObjGone), r.2)
  | .bytes b =>
    if gone && le d 0 1 = 1 then (.fail stObjGone, r.2)
    else if bad then (.fail stVersion, r.2)
    else (.ok (d ++ b), r.2)

/-- Reads and checks the launch whose descriptor lies at an address. -/
def readLaunch (ctx part stamp big va : Nat) (w : World) : LaunchRead × World :=
  let r := feRead ctx va 64 stamp w
  match r.1 with
  | .waits => (.waits, r.2)
  | .gone => (.fail stObjGone, r.2)
  | .bytes d => checkLaunch ctx part stamp big (va % 64 ≠ 0) d none r.2

/-! ### Preload (R307) -/

/-- The first 4 KiB of code, as words by address: device reads, line by line (R269). What is not in memory, or holds poison,
is left to the fetch that meets it. -/
def codeWords (ctx entry : Nat) (w : World) : Map W64 × World :=
  (linesOf entry 4096).foldl (fun a line =>
    let va := max line entry
    let n := min (line + 128) (entry + 4096) - va
    match vaRead a.2 ctx va with
    | none => a
    | some pa =>
      let r := devRead byControl pa n a.2
      if poisoned r.2 pa n then (a.1, r.2)
      else (a.1 ++ (List.range (n / 8)).map (fun k => (va + 8 * k, BitVec.ofNat 64 (leNat ((r.1.drop (8 * k)).take 8)))), r.2))
    ([], w)

/-- Replaces a partition's preload; one that is discarded is counted (R307). -/
def setPreload (p : Nat) (x : Preload) (w : World) : World :=
  let w := match mget w.fe.preloads p with
    | some y => if y.work = x.work && y.num = x.num then w else bump w rFE_PRELOAD_MISS 1
    | none => w
  { w with fe := { w.fe with preloads := mset w.fe.preloads p x } }

def dropPreload (p : Nat) (w : World) : World := { w with fe := { w.fe with preloads := mdel w.fe.preloads p } }

/-- The entry number of a work's launch. -/
def workNum (w : World) (k : Nat) : Nat := match queueOf w (k / 8192) with
  | some x => x.done
  | none => 0

/-- PRELOAD_COMPLETE: every read of a partition's preload has returned. -/
def preloadComplete (p : Nat) (w : World) : World :=
  { w with fe := { w.fe with preloads := mupd w.fe.preloads p (fun x => { x with ready := true }) } }

def execPreloadComplete (p : Nat) (s : State) := run (preloadComplete p) s

/-! ### Groups on cores (R111, R112, R305) -/

/-- The quarter with the fewest groups, the lowest on a tie, and its lowest free slot. -/
def placeSlot (c : Core) : Option Nat :=
  let count (q : Nat) : Nat := (c.groups.filter (fun p => p.1 / 16 = q)).length
  let q := (List.range 4).foldl (fun b q => if count q < count b then q else b) 0
  ((List.range 16).find? (fun s => (mget c.groups (16 * q + s)).isNone)).map (· + 16 * q)

/-- A group's state at its first instruction (R112). -/
def newGroup (number groups rank slot entry : Nat) : Group :=
  { number := number
    g := (List.range 31).map (fun i => (i + 1, BitVec.ofNat 32 (i + 1)))
    u := [(0, BitVec.ofNat 32 number), (1, BitVec.ofNat 32 groups), (2, BitVec.ofNat 32 rank), (3, BitVec.ofNat 32 slot)]
    p := []
    threads := List.replicate 32 { pc := entry, st := .active }
    paths := [] }

/-- Has the core room for one more group of its launch? -/
def coreRoom (c : Core) : Bool := match c.launch with
  | some l => decide (c.groups.length < groupsPerCore l.regs l.slmKib)
  | none => false

/-- Places the launch's next group on a core. -/
def placeGroup (p n : Nat) (w : World) : World :=
  match mget w.fe.launches p, (coreOf w n).launch with
  | some l, some cl =>
    let c := coreOf w n
    if l.groups ≤ l.placed || !(coreRoom c) then w
    else match placeSlot c with
      | none => w
      | some slot =>
        let g := newGroup l.placed l.groups cl.rank slot l.entry
        updLaunch p (fun l => { l with placed := l.placed + 1 })
          (setCore n (unmark (fun k => k / 8192 = slot)
            { c with groups := mset c.groups slot g, gated := c.gated.filter (· ≠ slot / 16) }) w)
  | _, _ => w

/-- The first wave: one group per core and round, until every core is full or none is left. -/
def firstWave (p : Nat) (cores : List Nat) (w : World) : World :=
  iter 64 (fun _ w => forAll cores (placeGroup p) w) w

/-- The core that freed a slot first; of those that did at one time, the lowest (R305). -/
def nextFreed (l : Launch) : Option (Nat × Nat) :=
  l.freed.foldl (fun b f => match b with
    | none => some f
    | some g => if f.1 < g.1 || (f.1 = g.1 && f.2 < g.2) then some f else b) none

/-- GROUP_PLACE: a later group goes to the core that next frees a slot. -/
def groupPlace (p n : Nat) (w : World) : World :=
  match mget w.fe.launches p with
  | none => w
  | some l => match nextFreed l with
    | none => w
    | some f =>
      if f.2 ≠ n || l.stop ≠ none || w.sched.preempt.contains p then w
      else placeGroup p n (updLaunch p (fun l => { l with freed := l.freed.erase f }) w)

def execGroupPlace (p n : Nat) (s : State) := run (groupPlace p n) s

/-! ### Start and end on the cores (R306, R308) -/

/-- The state a core has at a launch's first instruction: its shadow set installed, the clears begun (R92, R166),
semaphores 0 (R380), caches invalid (R135, R172, R175). Its translations and its place in time stay. -/
def startedCore (c : Core) (l : CoreLaunch) (code : Map W64) (epoch : Nat) : Core :=
  { Core.reset with
    launch := some l, clearBusy := true, lastSlot := c.lastSlot, lastGrant := c.lastGrant, nextId := c.nextId
    slm := c.slm, slmPoison := c.slmPoison
    mx := { Matrix.reset with acc := c.mx.acc }
    icache := code, tlb := c.tlb, ftSeen := c.ftSeen, epoch := epoch }

/-- A core whose launch has left keeps its semaphores, which its registers show until the next launch starts (R380), and of what
no launch can read nothing. -/
def idleCore (c : Core) : Core :=
  { Core.reset with
    sems := c.sems, lastSlot := c.lastSlot, lastGrant := c.lastGrant, nextId := c.nextId, tlb := c.tlb, ftSeen := c.ftSeen
    epoch := c.epoch }

/-- Starts a launch on every core of its partition (R308): the first wave is placed and the barrier counts are
taken from it (R386). -/
def startLaunch (p k ctx : Nat) (cmd : List Byte) (code : Map W64) (w : World) : World :=
  let cores := partCores w p
  let epoch := fld w rFE_EPOCH 0 32
  let coop := bit (dFlags cmd) 0
  let limit := fld w (rCAS_PAGEIN_LIMIT p) 0 32
  let seed := BitVec.ofNat 64 (le cmd 32 8)
  let lcb := (cmd.drop 64).take 512
  let l : Launch :=
    { work := k, ctx := ctx, coop := coop, groups := dGroups cmd, regs := dRegs cmd, slmKib := dSlm cmd, placed := 0,
      cores := cores, shrunk := decide (cores.length < fld w (rSCHED_PART_CFG p) 32 9), stop := none, barCores := [],
      bars := [], barMsgs := [], barRels := [], halted := [], freed := [], pageIns := 0, pageLimit := limit,
      started := w.now, epoch := epoch, lcb := lcb, entry := dEntry cmd, ftz := bit (dMode cmd) 0, seed := seed }
  let w := { w with fe := { w.fe with launches := mset w.fe.launches p l } }
  let w := forAll cores.zipIdx (fun x w => updCore x.1 (fun c => startedCore c
    { work := k, ctx := ctx, part := p, rank := x.2, groups := dGroups cmd, regs := dRegs cmd, slmKib := dSlm cmd,
      entry := dEntry cmd, ftz := bit (dMode cmd) 0, seed := seed, coop := coop, lcb := lcb } code epoch) w) w
  let w := firstWave p cores w
  let held := cores.filter (fun n => !((coreOf w n).groups.isEmpty))
  let w := updLaunch p (fun l => { l with barCores := held }) w
  let w := forAll held (fun n w => updCore n (fun c => { c with expect := c.groups.length }) w) w
  bump (dropPreload p w) rFE_LAUNCHES 1

/-- Is a core drained (R306): no group, matrix queue and mover idle, every access complete? -/
def coreDrained (c : Core) : Bool :=
  c.groups.isEmpty && c.accs.isEmpty && c.slmq.isEmpty && c.mx.queue.isEmpty && c.mx.loader.isNone &&
    c.mx.streams.isEmpty && c.mx.drainer.isNone && c.tmq.isEmpty && c.tmRun.isNone

/-- Takes a launch off its cores; the flags they raised go into the context's word (R55). -/
def endLaunch (p : Nat) (l : Launch) (w : World) : World :=
  let flags := l.cores.foldl (fun f n => f ||| (coreOf w n).flags) (0 : Flags)
  let w := orCtxFlags l.ctx flags w
  let w := nbgAbandon p l.work w
  let w := forAll l.cores (fun n w => updCore n idleCore w) w
  retireWaiting l.cores { w with
    fe := { w.fe with launches := mdel w.fe.launches p }
    sched := { w.sched with preempt := w.sched.preempt.filter (· ≠ p) } }

end Sys2Proof.Machine
end

