-- ==== Sys2Proof/Machine/Graphs.lean ====
section
/-!
DEFINITION. Stored graphs (R309 to R312): node records, versions, the GRAPH_OP commands, and which nodes of a run
are released.
-/
namespace Sys2Proof.Machine

/-! ### Node records (R309) -/

def ndEntry (r : List Byte) : Entry := entryOf (r.take 32) 0
def ndPreds (r : List Byte) : List Nat := (List.range (le r 32 1)).map (fun i => le r (34 + 2 * i) 2)
def ndBody (r : List Byte) : List Byte := (r.drop 64).take 128
def ndCb (r : List Byte) : List Byte := (r.drop 192).take 512
def ndIndex (r : List Byte) : Nat := le r 704 2

def zeroBytes (b : List Byte) : Bool := b.all (· = 0)

/-- Bytes of the structure a node's body holds. -/
def bodyBytes (kind : Nat) : Nat := if kind = 0 || kind = 5 then 0 else if kind = 3 then 128 else 64

/-- Does a node record at index `i` satisfy R309, its `index` field apart? -/
def nodeOk (i : Nat) (r : List Byte) : Bool :=
  let e := ndEntry r
  let k := entKind e
  !(entBad e) && k ≠ 6 && k ≠ 7 && decide (le r 32 1 ≤ 8) && le r 33 1 = 0 &&
    (ndPreds r).all (fun p => decide (p < i)) && zeroBytes ((r.drop (34 + 2 * le r 32 1)).take (64 - 34 - 2 * le r 32 1)) &&
    zeroBytes ((ndBody r).drop (bodyBytes k)) && (k = 1 || zeroBytes (ndCb r)) && zeroBytes (r.drop 706)

/-! ### The store (R310) -/

def graphOf (w : World) (g : Nat) : Option Graph := mget w.fe.graphs g

def setFe (f : Fe → Fe) (w : World) : World := { w with fe := f w.fe }

/-- Versions of a graph that runs use. -/
def runVersions (w : World) (g : Nat) : List Nat := (w.fe.runs.filter (fun p => p.2.graph = g)).map (·.2.version)

/-- Drops versions that are no longer live, graphs that have ended, and nodes no version holds (R310, R312). -/
def graphSweep (w : World) : World :=
  let gs := w.fe.graphs.map (fun p => (p.1, { p.2 with
    versions := p.2.versions.filter (fun v =>
      (!p.2.destroyed && v.1 = p.2.latest) || (runVersions w p.1).contains v.1) }))
  let gs := gs.filter (fun p => !(p.2.destroyed && p.2.versions.isEmpty))
  let held := gs.flatMap (fun p => p.2.versions.flatMap (·.2))
  setFe (fun f => { f with graphs := gs, nodes := f.nodes.filter (fun n => held.contains n.1) }) w

/-- Free indices of the store. -/
def freeNodes (w : World) (n : Nat) : List Nat :=
  ((List.range (w.fe.nodes.length + n)).filter (fun i => (mget w.fe.nodes i).isNone)).take n

/-- Stores node records; answers their indices. -/
def storeNodes (rs : List (List Byte)) (w : World) : List Nat × World :=
  let ix := freeNodes w rs.length
  (ix, forAll (ix.zip rs) (fun p w => setFe (fun f => { f with nodes := mset f.nodes p.1 p.2 }) w) w)

def storeRoom (w : World) (n : Nat) : Bool := decide (w.fe.nodes.length + n ≤ fld w rFE_CAP 32 16)

/-- Splits bytes into node records. -/
def nodeList (n : Nat) (b : List Byte) : List (List Byte) := (List.range n).map (fun i => (b.drop (768 * i)).take 768)

def gNum (c : List Byte) : Nat := le c 2 2
def gBase (c : List Byte) : Nat := le c 4 2
def gCount (c : List Byte) : Nat := le c 6 2
def gSrc (c : List Byte) : Nat := le c 8 8

/-- A structure of another version, or of a reserved op (R310): none of its other fields has a meaning. -/
def gOther (c : List Byte) : Bool := le c 0 1 ≠ 1 || le c 1 1 = 0 || decide (3 < le c 1 1)

/-- The fields that every op checks (R310): the graph's number, and the bytes reserved. -/
def gFieldBad (c : List Byte) : Bool := decide (2048 ≤ gNum c) || le c 16 48 ≠ 0

/-- The count of a CREATE or PATCH, or another of its fields, breaks R310. -/
def gSizeBad (c : List Byte) : Bool := gFieldBad c || gCount c = 0 || decide (4096 < gCount c)

/-- An earlier released GRAPH_OP of the same graph has not ended: they take effect in release order (R312). -/
def graphBehind (w : World) (x : Work) : Bool :=
  w.fe.works.any (fun y => y.2.kind = 7 && y.2.fin = none && gNum y.2.cmd = gNum x.cmd && decide (y.2.order < x.order))

/-- Runs a released GRAPH_OP of one op. A command the table refuses ends with VERSION_MISMATCH. -/
def graphOp (op : Nat) (f : Work → World → World) (k : Nat) (w : World) : World :=
  match workRuns w k 7 with
  | none => w
  | some x =>
    if x.stop ≠ none then finStopped k w
    else if graphBehind w x then w
    else if gOther x.cmd then finWork k stVersion w
    else if le x.cmd 1 1 ≠ op then w
    else f x w

/-- A command that R310 refuses and whose source holds `n` bytes ends: OBJECT_GONE comes before VERSION_MISMATCH (R13). -/
def graphRefuse (k n : Nat) (x : Work) (w : World) : World :=
  finWork k (if 2 ^ 57 < gSrc x.cmd + n || rangeGone w x.ctx (gSrc x.cmd) n x.stamp then stObjGone else stVersion) w

/-- GRAPH_CREATE. -/
def graphCreate (k : Nat) (x : Work) (w : World) : World :=
  let c := x.cmd
  let n := gCount c
  if gSizeBad c then graphRefuse k (64 + 768 * n) x w
  else
    let r := feRead x.ctx (gSrc c) (64 + 768 * n) x.stamp w
    match r.1 with
    | .waits => r.2
    | .gone => finWork k stObjGone r.2
    | .bytes b =>
      let rs := nodeList n (b.drop 64)
      let ok := le b 0 1 = 1 && zeroBytes ((b.take 64).drop 1) && (graphOf r.2 (gNum c)).isNone && storeRoom r.2 n &&
        rs.zipIdx.all (fun p => nodeOk p.2 p.1 && ndIndex p.1 = 0)
      if !ok then finWork k stVersion r.2
      else
        let s := storeNodes rs r.2
        let g : Graph := { ctx := x.ctx, destroyed := false, latest := 1, versions := [(1, s.1)] }
        finWork k stOK (setFe (fun f => { f with graphs := mset f.graphs (gNum c) g }) s.2)

def execGraphCreate (k : Nat) (s : State) := run (graphOp 1 (graphCreate k) k) s

/-- The graph a PATCH or DESTROY names: it exists and belongs to the context. -/
def ownGraph (w : World) (x : Work) : Option Graph := match graphOf w (gNum x.cmd) with
  | some g => if g.ctx = x.ctx && !g.destroyed then some g else none
  | none => none

/-- GRAPH_PATCH: version latest + 1 with the supplied records in place of the nodes they name. -/
def graphPatch (k : Nat) (x : Work) (w : World) : World :=
  let c := x.cmd
  let n := gCount c
  if gSizeBad c then graphRefuse k (768 * n) x w
  else
    let r := feRead x.ctx (gSrc c) (768 * n) x.stamp w
    match r.1 with
    | .waits => r.2
    | .gone => finWork k stObjGone r.2
    | .bytes b => match ownGraph r.2 x with
      | none => finWork k stVersion r.2
      | some g =>
        let rs := nodeList n b
        let old := mgetD g.versions g.latest []
        let used := (g.versions.filter (fun v => (runVersions r.2 (gNum c)).contains v.1)).length
        let ok := gBase c = g.latest && decide (used < 16) && storeRoom r.2 n &&
          rs.all (fun p => nodeOk (ndIndex p) p && decide (ndIndex p < old.length))
        if !ok then finWork k stVersion r.2
        else
          let s := storeNodes rs r.2
          let v := if g.latest = 0xFFFE then 1 else g.latest + 1
          let new := (s.1.zip rs).foldl (fun l p => nthSet l (ndIndex p.2) p.1) old
          let g := { g with latest := v, versions := mset g.versions v new }
          finWork k stOK (graphSweep (setFe (fun f => { f with graphs := mset f.graphs (gNum c) g }) s.2))

def execGraphPatch (k : Nat) (s : State) := run (graphOp 2 (graphPatch k) k) s

/-- GRAPH_DESTROY ends a graph; runs in flight keep their versions. -/
def graphDestroy (k : Nat) (x : Work) (w : World) : World :=
  match (if gFieldBad x.cmd then none else ownGraph w x) with
  | none => finWork k stVersion w
  | some g =>
    finWork k stOK (graphSweep (setFe (fun f =>
      { f with graphs := mset f.graphs (gNum x.cmd) { g with destroyed := true } }) w))

def execGraphDestroy (k : Nat) (s : State) := run (graphOp 3 (graphDestroy k) k) s

/-! ### Runs (R311) -/

def runOf (w : World) (k : Nat) : Option GraphRun := mget w.fe.runs k

def updRun (k : Nat) (f : GraphRun → GraphRun) (w : World) : World := setFe (fun x => { x with runs := mupd x.runs k f }) w

/-- The node records of a graph's version. -/
def versionNodes (w : World) (g v : Nat) : List (List Byte) := match graphOf w g with
  | some x => (mgetD x.versions v []).map (fun i => mgetD w.fe.nodes i [])
  | none => []

def isDone : NodeSt → Bool
  | .done _ => true
  | _ => false

/-- A node whose predecessors have all completed. -/
def nodeReady (run : GraphRun) (r : List Byte) : Bool := (ndPreds r).all (fun p => isDone (nth run.nodes p .waiting))

/-- Launch nodes of the run that are released and not done, by index. -/
def launchesOut (run : GraphRun) (rs : List (List Byte)) : List Nat :=
  ((run.nodes.zip rs).zipIdx.filter (fun p => p.1.1 = .released && entKind (ndEntry p.1.2) = 1)).map (·.2)

/-- Releases one node of the run of queue `q` if it is ready, as R311 allows: a launch node only while none of the
run is under way but one of a higher index that has not started, any other at once. -/
def releaseNode (q i : Nat) (r : List Byte) (w : World) : World :=
  let k := workKey q none
  match runOf w k, getWork w k with
  | some run, some x =>
    let e := ndEntry r
    let kind := entKind e
    let rs := versionNodes w run.graph run.version
    if nth run.nodes i .waiting ≠ .waiting || !(nodeReady run r) || executorFull w kind ||
        (kind = 1 && (launchesOut run rs).any (fun j => decide (j < i) || launchBegun w (workKey q (some j)))) then w
    else
      let cmd := if kind = 1 then (ndBody r).take 64 ++ ndCb r else (ndBody r).take (bodyBytes kind)
      let w := addWork q (some i) kind x.ctx x.stamp cmd e w
      let w := updRun k (fun u => { u with nodes := nthSet u.nodes i .released }) w
      if kind = 5 && waitBad w q e then finWork (workKey q (some i)) stVersion w else w
  | _, _ => w

/-- An abandoned step whose fallback has not started: its nodes are never released (R364). -/
def stepHalted (w : World) (k : Nat) : Bool := match mget w.sched.steps k with
  | some s => s.abandoned && !s.fallback
  | none => false

/-- Releases every ready node of a run under way, lowest index first, unless the run is being stopped. -/
def releaseNodes (q : Nat) (w : World) : World :=
  let k := workKey q none
  match runOf w k, getWork w k with
  | some run, some x =>
    if !x.begun || x.stop ≠ none || x.fin ≠ none || stepHalted w k then w
    else forAll (versionNodes w run.graph run.version).zipIdx (fun p w => releaseNode q p.2 p.1 w) w
  | _, _ => w

/-- Does some node of the run stay released and not done? -/
def nodesOut (w : World) (q : Nat) : Bool := w.fe.works.any (fun p => p.2.q = q && p.2.node ≠ none)

/-- The first of the statuses of a run's nodes (R311). -/
def runStatus (run : GraphRun) : Nat :=
  run.nodes.foldl (fun st n => match n with | .done x => firstStatus st x | _ => st) stOK

/-- Completes the nodes a stopped run has never released: with CONTEXT_LOST where its context is lost, whatever the run
itself ends with (R12, R322), else with the status it is stopped with. -/
def abandonNodes (q st : Nat) (w : World) : World :=
  let k := workKey q none
  let st := if ctxDead w (queueCtx w q) then stCtxLost else st
  match runOf w k, queueOf w q with
  | some run, some x =>
    let rs := versionNodes w run.graph run.version
    let w := forAll ((run.nodes.zip rs).filter (fun p => p.1 = .waiting)) (fun p w =>
      let e := ndEntry p.2
      if entNotify e then sendTo (queueDest w q) (queueUnit x) (queueCtx w q) st e.w2 w else w) w
    updRun k (fun u => { u with nodes := u.nodes.map (fun n => if n = .waiting then .done st else n) }) w
  | _, _ => w

end Sys2Proof.Machine
end

