-- ==== Sys2Proof/Machine/Steps.lean ====
section
/-!
DEFINITION. Batch steps (R358 to R362): the step record, its checks, and the results written into it. A step is
named by the key of its entry's work.
-/
namespace Sys2Proof.Machine

def stepOf (w : World) (k : Nat) : Option Step := mget w.sched.steps k

def setSched (f : Sched → Sched) (w : World) : World := { w with sched := f w.sched }

def updStep (k : Nat) (f : Step → Step) (w : World) : World :=
  setSched (fun s => { s with steps := mupd s.steps k f }) w

/-- The step that a launch's work belongs to. -/
def stepOfWork (w : World) (k : Nat) : Option Step := stepOf w (entryKey k)

/-! ### The record (R359) -/

def srFlags (r : List Byte) : Nat := le r 1 1
def srModel (r : List Byte) : Nat := le r 2 2
def srFbModel (r : List Byte) : Nat := le r 4 2
def srFbGraph (r : List Byte) : Nat := le r 6 2
def srFbDesc (r : List Byte) : Nat := le r 8 8
def srRelease (r : List Byte) : Nat := le r 16 10
def srDecision (r : List Byte) : Nat := le r 26 10
def srDeadline (r : List Byte) : Nat := le r 36 10
def srEst (r : List Byte) : Nat := le r 48 4
def srMark (r : List Byte) : Nat := le r 56 8

/-- A model field: valid, and its number. -/
def modelField (part f : Nat) : List Nat := if bit f 15 then [modelKey part (bits f 0 10)] else []

/-- R360's VERSION_MISMATCH, the fallback's own checks apart. -/
def recordBad (addr : Nat) (r : List Byte) : Bool :=
  le r 0 1 ≠ 1 || decide (4 ≤ srFlags r) || bits (srModel r) 10 5 ≠ 0 || bits (srFbModel r) 10 5 ≠ 0 ||
  decide (2048 ≤ srFbGraph r) || le r 46 2 ≠ 0 || le r 52 4 ≠ 0 || !(zeroBytes (r.drop 64)) ||
  (bit (srFlags r) 1 && srFbDesc r ≠ 0) || addr % 64 ≠ 0 || srMark r % 32 ≠ 0 ||
  decide (srDecision r < srRelease r) || decide (srDeadline r ≤ srDecision r) ||
  (bit (srFlags r) 0 && (srEst r = 0 || !(bit (srFbModel r) 15) || (!(bit (srFlags r) 1) && srFbDesc r = 0)))

/-- What the check of a step gives. -/
inductive StepRead where
  | waits
  | fail (status : Nat)
  | ok (s : Step)

/-- The step addresses of a graph version's launch nodes, lowest index first. -/
def nodeSteps (rs : List (List Byte)) : List Nat :=
  (rs.filter (fun r => entKind (ndEntry r) = 1)).map (fun r => dStep (ndBody r))

/-- Does a fallback graph pass R311 and R360 now? -/
def fbGraphOk (w : World) (ctx g : Nat) : Bool := match graphOf w g with
  | some x => !x.destroyed && x.ctx = ctx && (nodeSteps (versionNodes w g x.latest)).all (· = 0)
  | none => false

/-- The step a record that passed every check describes. -/
def stepFrom (ctx part stamp addr total : Nat) (r fb : List Byte) : Step :=
  { part := part, ctx := ctx, stamp := stamp, record := addr, mark := srMark r, decide := bit (srFlags r) 0
    fbGraph := if bit (srFlags r) 1 then some (bits (srFbGraph r) 0 11) else none
    fbCmd := fb, models := modelField part (srModel r) ++ modelField part (srFbModel r)
    model := srModel r, fbModel := srFbModel r, release := srRelease r, decision := srDecision r
    deadline := srDeadline r, est := srEst r, total := total, finished := 0, started := none, released := false
    decided := false, abandoned := false, fallback := false, predicted := 0, status := stOK }

/-- Reads and checks a step's record, its mark and its fallback (R360). The first status in R13's order decides. -/
def readStep (ctx part stamp addr total : Nat) (w : World) : StepRead × World :=
  let rd := feRead ctx addr 128 stamp w
  match rd.1 with
  | .waits => (.waits, rd.2)
  | .gone => (.fail stObjGone, rd.2)
  | .bytes r =>
    let w := rd.2
    let mark := srMark r
    let markGone := mark ≠ 0 && (decide (2 ^ 57 < mark + 32) || rangeGone w ctx mark 32 stamp)
    let fb : LaunchRead × World :=
      if le r 0 1 = 1 && !(bit (srFlags r) 1) && srFbDesc r ≠ 0 then readLaunch ctx part stamp stVersion (srFbDesc r) w
      else (.ok [], w)
    let graphBad := bit (srFlags r) 1 && !(fbGraphOk w ctx (bits (srFbGraph r) 0 11))
    match fb.1 with
    | .waits => (.waits, fb.2)
    | .fail st => (.fail (if st = stObjGone || markGone then stObjGone else stVersion), fb.2)
    | .ok cmd =>
      if markGone then (.fail stObjGone, fb.2)
      else if recordBad addr r || graphBad || (!cmd.isEmpty && dStep cmd ≠ 0) then (.fail stVersion, fb.2)
      else (.ok (stepFrom ctx part stamp addr total r cmd), fb.2)

/-- A step that passed its checks is known to the scheduler. -/
def addStep (k : Nat) (s : Step) (w : World) : World := setSched (fun x => { x with steps := mset x.steps k s }) w

/-! ### Results (R361, R362) -/

/-- The record's bytes 64 to 103. -/
def recordBytes (s : Step) (status endKey : Nat) : List Byte :=
  let late := decide (s.deadline ≤ endKey)
  let outcome := 1 + 2 * b2n s.decided + 4 * b2n s.abandoned + 8 * b2n late
  natLe outcome 1 ++ natLe status 1 ++ natLe (if s.abandoned then s.fbModel else s.model) 2 ++ natLe 0 2 ++
    natLe (s.started.getD 0) 10 ++ natLe endKey 10 ++ natLe 0 6 ++ natLe s.predicted 8

/-- The output mark. -/
def markBytes (s : Step) (status endKey : Nat) : List Byte :=
  natLe 1 1 ++ natLe status 1 ++ natLe (if s.abandoned then s.fbModel else s.model) 2 ++ natLe 0 4 ++
    natLe endKey 10 ++ natLe s.deadline 10 ++ natLe 0 4

/-- Can the results be written now? A page that is leaving or off-loaded is waited for. -/
def resultsReady (s : Step) (w : World) : Bool × World :=
  let a := rangeState s.ctx s.record 128 true none w
  let b : (VaState × Nat) × World :=
    if s.mark = 0 then ((.ready, 0), a.2) else rangeState s.ctx s.mark 32 true none a.2
  (a.1.1 ≠ .waits && b.1.1 ≠ .waits, b.2)

/-- A step's entry completes with a status: its end is stamped, its results written, its models released, and the
partition is no longer held (R349, R258). `ran` says that nothing has stopped the entry: the fallback of an abandoned step that
has started has then completed (MER_LATE_FALLBACK). -/
def finishStep (k status : Nat) (ran : Bool) (w : World) : World :=
  match stepOf w k with
  | none => w
  | some s =>
    let e := stampNow w
    let w := vaDevWrite byControl s.ctx (s.record + 64) (recordBytes s status e.1) e.2
    let w := if s.mark = 0 then w else vaDevWrite byControl s.ctx s.mark (markBytes s status e.1) w
    let w := bump w rMER_STEPS 1
    let w := if e.1 < s.deadline then w else if !s.abandoned then bump w rMER_LATE 1
      else if s.fallback && ran then bump w rMER_LATE_FALLBACK 1 else w
    let w := if s.released then forAll s.models releaseModel w else w
    setSched (fun x => { x with steps := mdel x.steps k, hold := x.hold.filter (fun h => h.2 ≠ k) }) w

end Sys2Proof.Machine
end

