-- ==== Sys2Proof/Machine/Sched.lean ====
section
/-!
DEFINITION. The scheduler of each partition (R347 to R357): candidates and their rank, pre-emption, save and
restore, residency and swaps.
-/
namespace Sys2Proof.Machine

/-! ### Candidates (R347, R348) -/

/-- A candidate for a partition, by its work's key. -/
structure Cand where
  key : Nat
  ctx : Nat
  q : Nat
  saved : Bool
  /-- A saved launch of an older epoch. -/
  old : Bool
  fallback : Bool
  step : Bool
  deadline : Nat
  order : Nat
  deriving DecidableEq, Repr

def savedOf (w : World) (p : Nat) : List Saved := mgetD w.sched.saved p []

/-- Is serial number `a` older than `b` (R313)? -/
def epochOlder (a b : Nat) : Bool := decide (2 ^ 31 ≤ (a + 2 ^ 32 - b % 2 ^ 32) % 2 ^ 32)

def candOf (w : World) (k : Nat) (x : Work) (saved old fallback : Bool) : Cand :=
  let s := stepOfWork w k
  { key := k, ctx := x.ctx, q := x.q, saved := saved, old := old, fallback := fallback, step := s.isSome
    deadline := (s.map (·.deadline)).getD 0, order := x.order }

/-- Has the step of a launch been released, and may the launch still start (R360, R364)? -/
def stepAllows (w : World) (k : Nat) (x : Work) : Bool := match stepOfWork w k with
  | none => true
  | some s => s.released && (!s.abandoned || (x.node.isSome && s.fallback))

/-- Launch nodes of a run start one at a time, lowest index first (R311): another has started, or a lower one is ready. -/
def nodeHeld (w : World) (k : Nat) (x : Work) : Bool :=
  x.node.isSome && w.fe.works.any (fun y => y.1 ≠ k && y.2.q = x.q && y.2.node.isSome && y.2.kind = 1 && y.2.fin = none &&
    (launchBegun w y.1 || decide (y.1 < k)))

/-- A checked launch that waits for the partition. -/
def launchWaits (w : World) (p k : Nat) (x : Work) : Bool :=
  x.kind = 1 && x.begun && x.fin = none && x.stop = none && x.part = p && (launchOf w k).isNone &&
    !((savedOf w p).any (fun s => s.launch.work = k)) && stepAllows w k x && !(nodeHeld w k x) &&
    (match queueOf w x.q with | some q => q.slot.isSome | none => false)

/-- Does the step run a launch now? -/
def stepRuns (w : World) (k : Nat) : Bool := w.fe.launches.any (fun p => entryKey p.2.work = k)

/-- A step whose fallback is to start next (R364): a launch, or a graph, which GRAPH_RUN starts. -/
def fallbackWaits (w : World) (p k : Nat) (s : Step) : Bool :=
  s.part = p && s.abandoned && !s.fallback && (!s.fbCmd.isEmpty || s.fbGraph.isSome) && !(stepRuns w k) && (match getWork w k with
    | some x => x.stop = none && x.fin = none
    | none => false)

/-- Every candidate of a partition, whatever the residency of its context. -/
def allCands (w : World) (p : Nat) : List Cand :=
  let now := fld w rFE_EPOCH 0 32
  (savedOf w p).filterMap (fun s => (getWork w s.launch.work).map (fun x =>
      candOf w s.launch.work x true (epochOlder s.launch.epoch now) false)) ++
    (w.fe.works.filter (fun x => launchWaits w p x.1 x.2)).map (fun x => candOf w x.1 x.2 false false false) ++
    (w.sched.steps.filter (fun s => fallbackWaits w p s.1 s.2)).filterMap (fun s => (getWork w s.1).map (fun x =>
      candOf w s.1 x false false true))

def residencyOf (w : World) (c : Nat) : Residency := mgetD w.sched.residency c .resident

/-- The candidates of resident contexts. -/
def cands (w : World) (p : Nat) : List Cand := (allCands w p).filter (fun c => residencyOf w c.ctx = .resident)

/-- How far away the turn of a context is (R348). -/
def turnDist (w : World) (p ctx : Nat) : Nat := match mget w.sched.turn p with
  | none => ctx
  | some t =>
    if ctx = t then
      if mgetD w.sched.turnHeld p 0 < 1000 * fld w (rSCHED_PART_POL p) 0 20 then 0 else 2 ^ 20
    else (ctx + 2 ^ 20 - t) % 2 ^ 20

/-- The rank of a candidate (R348), as numbers compared in order: less goes first. -/
def rank (w : World) (p : Nat) (c : Cand) : List Nat :=
  let prio := 15 - queuePrio w c.q
  [b2n !c.fallback, b2n !c.old, b2n !c.step] ++
    (if c.step then [prio, c.deadline, c.q] else [prio, turnDist w p c.ctx, b2n !c.saved, c.order, c.q])

def lexLt : List Nat → List Nat → Bool
  | [], [] => false
  | [], _ :: _ => true
  | _ :: _, [] => false
  | a :: s, b :: t => decide (a < b) || (a = b && lexLt s t)

/-- The scheduler's choice. A step that holds the partition lets no other launch start (R349). -/
def choose (w : World) (p : Nat) : Option Cand :=
  let mine := (cands w p).filter (fun c => match mget w.sched.hold p with
    | none => true
    | some h => entryKey c.key = h)
  mine.foldl (fun b c => match b with
    | none => some c
    | some d => if lexLt (rank w p c) (rank w p d) then some c else b) none

/-! ### Residency (R351, R352) -/

/-- Contexts of a partition. -/
def partCtxs (w : World) (p : Nat) : List Nat := (w.fe.ctxs.filter (fun c => c.2.part = p)).map (·.1)

/-- Contexts that take a resident place. -/
def placesTaken (w : World) (p : Nat) : Nat := ((partCtxs w p).filter (fun c => residencyOf w c ≠ .swapped)).length

def residentMax (w : World) (p : Nat) : Nat := fld w (rSCHED_PART_POL p) 40 8

/-- Is a context runnable: has it a candidate? -/
def runnable (w : World) (p c : Nat) : Bool := (allCands w p).any (fun x => x.ctx = c)

/-- The priority of a context: the highest of its enabled queues. -/
def ctxPrio (w : World) (c : Nat) : Nat :=
  (w.fe.queues.filter (fun q => queueCtx w q.1 = c)).foldl (fun m q => max m (queuePrio w q.1)) 0

/-- The runnable SWAPPED context of highest priority, the lowest number on a tie. -/
def swapInNext (w : World) (p : Nat) : Option Nat :=
  ((partCtxs w p).filter (fun c => residencyOf w c = .swapped && runnable w p c)).foldl (fun b c => match b with
    | none => some c
    | some d => if ctxPrio w d < ctxPrio w c then some c else b) none

/-- The victim of a swap-out: a blocked resident context without a released entry, of the lowest priority, and among
equals the one that ran least recently. -/
def swapVictim (w : World) (p : Nat) : Option Nat :=
  let ok (c : Nat) : Bool := residencyOf w c = .resident && !(runnable w p c) && !(w.fe.works.any (fun x => x.2.ctx = c))
  ((partCtxs w p).filter ok).foldl (fun b c => match b with
    | none => some c
    | some d => if lexLt [ctxPrio w c, mgetD w.sched.lastRan c 0] [ctxPrio w d, mgetD w.sched.lastRan d 0] then some c
      else b) none

def setResidency (c : Nat) (r : Residency) (w : World) : World :=
  setSched (fun s => { s with residency := mset s.residency c r }) w

/-- A page that swap-out moves: its leaf's key, its frame, and whether it is of 2 MiB. -/
structure SwapPage where
  key : Nat
  frame : Nat
  big : Bool

/-- The pages swap-out moves (R353): those of the context's MAP objects that lie in HBM. -/
def swapPages (w : World) (ctx : Nat) : List SwapPage :=
  (w.mem.objs.filter (fun o => o.2.ctx = ctx && o.2.kind = .map)).flatMap (fun o =>
    (objPages o.2).filterMap (fun va =>
      let e := pteOf w ctx (lvlOf o.2.page2m) va
      if pteKind e = 1 && inHbm (pteFrame e) then
        some ⟨pteKey ctx (lvlOf o.2.page2m) va, pteFrame e, o.2.page2m⟩ else none))

/-- Takes one page for each size in a list, or none at all. -/
def allocList : List Bool → Pool → Option (List Nat × Pool)
  | [], p => some ([], p)
  | b :: t, p => match allocPage b p with
    | none => none
    | some (f, p) => (allocList t p).map (fun r => (f :: r.1, r.2))

/-- Starts the swap-out of a victim. Without the host pages nothing is moved (R353). -/
def startSwapOut (p c : Nat) (w : World) : World :=
  if (allocList ((swapPages w c).map (·.big)) (hostPool w p)).isSome then setResidency c .swappingOut w
  else bump w rSCHED_SWAP_FAIL 1

def swapBusy (w : World) (p : Nat) : Bool :=
  (partCtxs w p).any (fun c => residencyOf w c = .swappingOut || residencyOf w c = .swappingIn)

/-- The scheduler adjusts residency (R352), unless a swap of the partition is under way. -/
def adjustResidency (p : Nat) (w : World) : World :=
  if swapBusy w p then w
  else match swapInNext w p with
    | none => w
    | some c =>
      if placesTaken w p < residentMax w p then setResidency c .swappingIn w
      else if (partCtxs w p).any (fun c => residencyOf w c = .resident && runnable w p c) then w
      else match swapVictim w p with
        | some v => startSwapOut p v w
        | none => bump w rSCHED_SWAP_FAIL 1

/-! ### Pre-emption (R354) -/

/-- Save slots of a partition (R356). -/
def saveSlots (w : World) (p : Nat) : Nat := fld w (rSCHED_SAVE p) 0 8

/-- Pre-emption of the running launch is requested: its gated quarters ungate (R383). -/
def requestPreempt (p : Nat) (l : Launch) (w : World) : World :=
  forAll l.cores (fun n => updCore n (fun c => { c with gated := [] }))
    (setSched (fun s => { s with preempt := sIns s.preempt p }) w)

/-- Requests pre-emption of the running launch where R354 asks for it. -/
def considerPreempt (p : Nat) (w : World) : World :=
  match mget w.fe.launches p with
  | none => w
  | some l =>
    let cs := cands w p
    let prio := queuePrio w (l.work / 8192)
    let ranLong := decide (l.started + 1000 * fld w (rSCHED_PART_POL p) 20 20 ≤ w.now)
    if l.stop ≠ none || (stepOfWork w l.work).isSome || w.sched.preempt.contains p ||
        decide (saveSlots w p ≤ (savedOf w p).length) then w
    else if cs.any (·.step) || (ranLong && cs.any (fun c => decide (prio < queuePrio w c.q))) then
      requestPreempt p l w
    else w

/-- What the scheduler looks at when something becomes runnable or a launch ends. -/
def reschedule (p : Nat) (w : World) : World := considerPreempt p (adjustResidency p w)

/-! ### Start (R308) -/

/-- Is a PREFETCH (R197) still incomplete that names this launch as the one that needs it? -/
def prefetchFor (q seq : Nat) (x : Work) : Bool :=
  x.kind = 2 && x.fin = none && le x.cmd 1 1 = 2 && bit (le x.cmd 2 1) 0 && bits (le x.cmd 24 2) 0 10 = q &&
    le x.cmd 32 8 = seq

/-- Counts once each PREFETCH that is late for a launch that starts (R204). -/
def countLate (q seq : Nat) (w : World) : World :=
  forAll ((w.fe.works.filter (fun x => prefetchFor q seq x.2 && !(w.cas.late.contains x.1))).map (·.1)) (fun k w =>
    bump { w with cas := { w.cas with late := sIns w.cas.late k } } rCAS_LATE 1) w

/-- nb_seq names an entry's launch, or the lowest-index launch node of a run (R311). -/
def isNeededBy (w : World) (k : Nat) : Bool :=
  k = entryKey k || (match runOf w (entryKey k) with
    | some r => ((versionNodes w r.graph r.version).findIdx? (fun n => entKind (ndEntry n) = 1)) = some (k - entryKey k - 1)
    | none => false)

/-- A context whose launch starts has run last: it keeps its turn, or begins one (R348). -/
def takeTurn (p ctx : Nat) (w : World) : World :=
  let keep := mget w.sched.turn p = some ctx &&
    decide (mgetD w.sched.turnHeld p 0 < 1000 * fld w (rSCHED_PART_POL p) 0 20)
  if keep then w
  else setSched (fun s => { s with turn := mset s.turn p ctx, turnHeld := mset s.turnHeld p 0 }) w

/-- A launch leaves the partition, which its context has held while it ran. -/
def holdTurn (p : Nat) (l : Launch) (w : World) : World :=
  setSched (fun s => { s with turnHeld := mset s.turnHeld p (mgetD s.turnHeld p 0 + (w.now - l.started)) }) w

def noteRun (ctx : Nat) (w : World) : World :=
  let o := nextOrder w
  setSched (fun s => { s with lastRan := mset s.lastRan ctx o.1 }) o.2

/-- The command a candidate starts: its own, or its step's fallback. -/
def candCmd (w : World) (c : Cand) : List Byte :=
  if c.fallback then ((stepOf w c.key).map (·.fbCmd)).getD [] else ((getWork w c.key).map (·.cmd)).getD []

/-- A launch of a step has completed (R363). -/
def stepLaunchDone (k : Nat) (w : World) : World :=
  updStep (entryKey k) (fun s => if s.abandoned then s else { s with finished := s.finished + 1 }) w

/-- A launch fails a check (R304): it runs on no core; one too large to be cooperative loses its context with
cause 5. FE_LAUNCH_ERR's cause 5 names a node. -/
def launchFail (k st : Nat) (x : Work) (w : World) : World :=
  let cause := if x.node.isSome then 5 else if st = stCtxLost then 1 else if st = stVersion then 2 else 3
  let w := finWork k st (launchErr cause x.ctx x.q (stepLaunchDone k w))
  if st = stCtxLost then loseCtx x.ctx 5 w else w

/-- LAUNCH_START: the start command of the scheduler's choice, once its preload is complete. -/
def launchStart (p : Nat) (w : World) : World :=
  if (mget w.fe.launches p).isSome || !(partDefined w p) then w
  else match choose w p, mget w.fe.preloads p with
    | some c, some pre =>
      let cmd := candCmd w c
      if c.saved || !(epochReady w p) || pre.work ≠ c.key || pre.num ≠ workNum w c.key || pre.cmd ≠ cmd || !pre.ready then w
      else if coopTooLarge w p cmd then (match getWork w c.key with
        | some x => launchFail c.key stCtxLost x w
        | none => w)
      else
        let w := noteRun c.ctx (takeTurn p c.ctx w)
        let w := if c.step then setSched (fun s => { s with hold := mset s.hold p (entryKey c.key) }) w else w
        let w := if c.fallback then
            let w := updStep c.key (fun s => { s with fallback := true }) w
            updWork c.key (fun x => { x with since := w.now, limit := 1000 * dLimit cmd }) w
          else w
        let w := if isNeededBy w c.key && !c.fallback then
            let seq := match queueOf w c.q with | some x => seqOf w c.q x.done | none => 0
            updQueue c.q (fun x => { x with launched := sIns x.launched seq }) (countLate c.q seq w) else w
        startLaunch p c.key c.ctx cmd pre.code w
    | _, _ => w

def execLaunchStart (p : Nat) (s : State) := runFe (launchStart p) s

/-! ### Completion of a launch (R306, R124) -/

/-- LAUNCH_COMPLETE: every core of the launch has drained, or has stopped. A launch of an abandoned step that is not
its fallback leaves its entry to the fallback (R364). -/
def launchComplete (p : Nat) (w : World) : World :=
  match mget w.fe.launches p with
  | none => w
  | some l =>
    let drained := l.placed = l.groups && l.cores.all (fun n => coreDrained (coreOf w n))
    let halted := l.cores.all (fun n => l.halted.contains n)
    if !(match l.stop with | some _ => halted | none => drained) then w
    else
      let own := l.stop.getD (if l.shrunk then stCapacity else stOK)
      let s := stepOfWork w l.work
      let given := match s with | some s => s.abandoned && !s.fallback | none => false
      let st := match s with | some s => if s.fallback && !given then firstStatus own stFallback else own | none => own
      let w := endLaunch p l (holdTurn p l w)
      let w := stepLaunchDone l.work w
      let w := if given && own = stFallback && l.work = entryKey l.work then w else finWork l.work st w
      reschedule p w

def execLaunchComplete (p : Nat) (s : State) := runFe (fun w => seeService (launchComplete p w)) s

/-! ### Save and restore (R355 to R357) -/

/-- Has a core let its matrix queue, its mover and every access finish? -/
def coreQuiet (c : Core) : Bool := coreDrained { c with groups := [] }

/-- The lowest save slot of a partition that no saved launch has taken. -/
def freeSaveSlot (w : World) (p : Nat) : Nat :=
  ((List.range (saveSlots w p)).find? (fun i => !((savedOf w p).any (·.slot = i)))).getD 0

/-- The physical address of the record of a launch's core number `i` in a save slot (R356). DESIGN CHOICE: slots, and the
cores' records in them, lie one after the other; their layout is not an interface. -/
def recordPa (w : World) (p slot i : Nat) : Nat :=
  fld w (rSCHED_SAVE p) 12 40 * 4096 + (slot * fld w (rSCHED_PART_CFG p) 32 9 + i) * recordSize

/-- LAUNCH_SAVED: every core of a launch being pre-empted has written its record, as whole lines of class 1 (R356). What
the record's bytes are is open, since its layout is not an interface; what it holds is `Saved.cores`. A launch that has
drained completes instead. -/
def launchSaved (p : Nat) (w : World) : World :=
  match mget w.fe.launches p with
  | none => w
  | some l =>
    let quiet := l.cores.all (fun n => coreQuiet (coreOf w n))
    let drained := l.placed = l.groups && l.cores.all (fun n => coreDrained (coreOf w n))
    if !(w.sched.preempt.contains p) || l.stop ≠ none || !quiet || drained then w
    else
      let slot := freeSaveSlot w p
      let cores := l.cores.map (fun n => (n, { coreOf w n with tlb := [], l1 := [], ccache := [], icache := [], gated := [] }))
      let w := forAll l.cores.zipIdx (fun x => saveRecord (recordPa w p slot x.2)) w
      let w := forAll l.cores (fun n w => updCore n idleCore w) (holdTurn p l w)
      let w := { w with fe := { w.fe with launches := mdel w.fe.launches p } }
      let w := setSched (fun s => { s with
        preempt := s.preempt.filter (· ≠ p)
        saved := mset s.saved p (mgetD s.saved p [] ++ [{ launch := l, cores := cores, lost := false, slot := slot }]) }) w
      reschedule p (retireWaiting l.cores (bump w rSCHED_PREEMPTS 1))

def execLaunchSaved (p : Nat) (s : State) := run (fun w => seeService (launchSaved p w)) s

/-- A core takes its saved record back; its caches start invalid, its translations are its own. -/
def restoredCore (now old : Core) : Core :=
  { old with tlb := now.tlb, ftSeen := now.ftSeen, nextId := max now.nextId old.nextId }

/-- RESTORE_COMPLETE: the saved launch the scheduler has chosen runs on. If one of its cores has been retired since, or
is out of service, its context is lost instead, with the flags it had raised (R55). -/
def restoreComplete (p : Nat) (w : World) : World :=
  if (mget w.fe.launches p).isSome then w
  else match choose w p with
    | none => w
    | some c => match (savedOf w p).find? (fun s => c.saved && s.launch.work = c.key) with
      | none => w
      | some s =>
        let w := setSched (fun x => { x with
          saved := mset x.saved p ((mgetD x.saved p []).filter (fun y => y.launch.work ≠ c.key)) }) w
        if s.lost || s.launch.cores.any (fun n => !(coreServes w n)) then
          loseCtx c.ctx 1 (finWork c.key stCtxLost (orCtxFlags c.ctx (coresFlags s.cores) w))
        else
          let w := forAll s.cores.zipIdx (fun x w =>
            let r := loadRecord (recordPa w p s.slot x.2) w
            updCore x.1.1 (fun now => markRestored r.1 (restoredCore now x.1.2)) r.2) w
          let l := { s.launch with started := w.now }
          let w := { w with fe := { w.fe with launches := mset w.fe.launches p l } }
          let w := nbgRestored p c.key (noteRun c.ctx (takeTurn p c.ctx w))
          bump w rSCHED_RESTORES 1

def execRestoreComplete (p : Nat) (s : State) := runFe (restoreComplete p) s

/-! ### Swaps (R353) -/

/-- Leaves of ALIAS objects on a page that moves follow it; answers their keys. -/
def aliasFollow (ctx old new n : Nat) (w : World) : List Nat × World :=
  (w.mem.objs.filter (fun o => o.2.ctx = ctx && (match o.2.kind with | .aliasOf _ => true | _ => false))).foldl
    (fun a o => (objKeys o.2).foldl (fun (a : List Nat × World) k =>
      let e := (mgetD a.2.mem.pte k 0).toNat
      if pteKind e = 1 && inRange old n (pteFrame e) then (a.1 ++ [k], setPte k (e - pteFrame e + (pteFrame e - old + new)) a.2)
      else a) a) ([], w)

/-- Moves one page and switches its leaf and those of its aliases; answers the keys changed. -/
def movePage (ctx key old new n : Nat) (w : World) : List Nat × World :=
  let w := copyPage old new n w
  let e := (mgetD w.mem.pte key 0).toNat
  let r := aliasFollow ctx old new n (setPte key (e - old + new) w)
  (key :: r.1, r.2)

/-- Moves pages (key, old frame, new frame, 2 MiB) and returns the old ones once the switch is confirmed. -/
def moveAll (ctx part : Nat) (host : Bool) (ms : List (Nat × Nat × Nat × Bool)) (w : World) : World :=
  let r := ms.foldl (fun (a : List Nat × World) m =>
    let x := movePage ctx m.1 m.2.1 m.2.2.1 (pageBytes m.2.2.2) a.2
    (a.1 ++ x.1, x.2)) ([], w)
  invalidate r.1 (.freePages part host (ms.map (fun m => (m.2.1, m.2.2.2)))) r.2

/-- SWAP_OUT_COMPLETE: the context's pages have moved to the host tier. -/
def swapOutComplete (c : Nat) (w : World) : World :=
  let p := ctxPart w c
  if residencyOf w c ≠ .swappingOut then w
  else if !(admits w 1 p) then holdReq 1 p w
  else
    let ps := swapPages w c
    match allocList (ps.map (·.big)) (hostPool w p) with
    | none => bump (setResidency c .resident w) rSCHED_SWAP_FAIL 1
    | some (fs, pool) =>
      let w := charge 1 p ((ps.map (fun x => pageBytes x.big)).sum) (setPool true p pool w)
      let w := moveAll c p false ((ps.zip fs).map (fun x => (x.1.key, x.1.frame, x.2, x.1.big))) w
      let moved := (ps.zip fs).map (fun x => { key := x.1.key, hbm := x.1.frame, host := x.2 : Moved })
      let w := setSched (fun s => { s with moved := mset s.moved c moved }) w
      adjustResidency p (bump (setResidency c .swapped w) rSCHED_SWAP_OUT 1)

def execSwapOutComplete (ctx : Nat) (s : State) := run (swapOutComplete ctx) s

/-- The pages of a swapped context that still lie where swap-out put them. -/
def movedPages (w : World) (c : Nat) : List SwapPage :=
  (mgetD w.sched.moved c []).filterMap (fun m =>
    let e := (mgetD w.mem.pte m.key 0).toNat
    if pteKind e = 1 && pteFrame e = m.host then some ⟨m.key, m.host, m.key / 2 ^ 41 % 8 = 1⟩ else none)

/-- SWAP_IN_COMPLETE: the moved pages are back in HBM. When the pool is short, a further victim is swapped out
first; without one the context stays SWAPPED. -/
def swapInComplete (c : Nat) (w : World) : World :=
  let p := ctxPart w c
  if residencyOf w c ≠ .swappingIn then w
  else if !(admits w 1 p) then holdReq 1 p w
  else
    let ps := movedPages w c
    match allocList (ps.map (·.big)) (hbmPool w p) with
    | none =>
      if (partCtxs w p).any (fun c => residencyOf w c = .swappingOut) then w
      else match swapVictim w p with
        | some v =>
          if (allocList ((swapPages w v).map (·.big)) (hostPool w p)).isSome then setResidency v .swappingOut w
          else bump (setResidency c .swapped w) rSCHED_SWAP_FAIL 1
        | none => bump (setResidency c .swapped w) rSCHED_SWAP_FAIL 1
    | some (fs, pool) =>
      let w := charge 1 p ((ps.map (fun x => pageBytes x.big)).sum) (setPool false p pool w)
      let w := moveAll c p true ((ps.zip fs).map (fun x => (x.1.key, x.1.frame, x.2, x.1.big))) w
      let w := setSched (fun s => { s with moved := mdel s.moved c }) w
      reschedule p (bump (setResidency c .resident w) rSCHED_SWAP_IN 1)

def execSwapInComplete (ctx : Nat) (s : State) := run (swapInComplete ctx) s

/-! ### Batch steps and Meridian (R360, R363, R364) -/

/-- STEP_RELEASE: frame time reaches a step's release; the models it names are acquired and it is a candidate. -/
def stepRelease (k : Nat) (w : World) : World :=
  match stepOf w k, getWork w k with
  | some s, some x =>
    if s.released || x.stop ≠ none || x.fin ≠ none || !(s.release = 0 || reachedKey w s.release) then w
    else
      let known := s.models.filter (fun m => (modelOf w m).isSome)
      let w := updStep k (fun s => { s with released := true, models := known }) (forAll known acquireModel w)
      reschedule s.part w
  | _, _ => w

def execStepRelease (k : Nat) (s : State) := runFe (stepRelease k) s

/-- Meridian's prediction (R363). -/
def predict (w : World) (s : Step) : Nat :=
  (ftbTicks w w.ftb.acc + (s.est * (s.total - s.finished) + s.total - 1) / s.total) % 2 ^ 64

/-- Abandons a step (R364): its launch stops, its nodes stop or never start, and one message says so. -/
def abandonStep (k : Nat) (w : World) : World :=
  match stepOf w k with
  | none => w
  | some s =>
    let w := bump (updStep k (fun s => { s with abandoned := true }) w) rMER_FALLBACKS 1
    let nodes := (w.fe.works.filter (fun x => x.2.node.isSome && workKey x.2.q none = k)).map (·.1)
    let w := match mget w.fe.launches s.part with
      | some l =>
        if l.work = k then updLaunch s.part (fun l => { l with stop := some (mergeStop l.stop stFallback) }) w else w
      | none => w
    let w := updWork k (fun x => { x with fin := if x.stop = none then none else x.fin }) (forAll nodes (stopWork stFallback) w)
    sendMsg 0x0A0 s.ctx stFallback (2 ^ 57 + s.record % 2 ^ 57) w

/-- MERIDIAN_EVALUATION: the decision tick of a step with decide = 1 whose entry the front end has reached and whose end is not
stamped, while Meridian is enabled; a step stopped before its release is evaluated too. -/
def meridianEvaluate (k : Nat) (w : World) : World :=
  match stepOf w k, getWork w k with
  | some s, some _ =>
    if !s.decide || s.decided || fld w rMER_CTL 0 1 = 0 || !(reachedKey w s.decision) then w
    else
      let pred := predict w s
      let w := bump (updStep k (fun s => { s with decided := true, predicted := pred }) w) rMER_DECISIONS 1
      if linOfKey w s.deadline % 2 ^ 64 ≤ pred then abandonStep k w else w
  | _, _ => w

def execMeridianEvaluation (k : Nat) (s : State) := run (meridianEvaluate k) s

end Sys2Proof.Machine
end

