-- ==== Sys2Proof/Machine/Runs.lean ====
section
/-!
DEFINITION. LAUNCH, GRAPH_RUN and the completion of entries and nodes (R298, R304, R311, R358 to R364).
-/
namespace Sys2Proof.Machine

/-! ### Preload (R307) -/

/-- The launch that a queue will reach next: the first LAUNCH of its read entries behind the current one, if that is
released, with only launches and NOPs before it. Answers its entry number and its entry. -/
def nextLaunch (released : Bool) (x : Queue) : Option (Nat × Entry) :=
  let rec go (t : Nat) (first : Bool) : List Entry → Option (Nat × Entry)
    | [] => none
    | e :: es =>
      if entKind e = 1 && !first then some (t, e)
      else if entKind e = 1 || entKind e = 0 then go (t + 1) false es
      else none
  go x.done released x.ents

/-- A launch that is no candidate yet and may start next: as a candidate, with its entry number, its entry, and a node's
descriptor and constant buffer. -/
structure Ahead where
  cand : Cand
  num : Nat
  entry : Entry
  cmd : List Byte
  deriving DecidableEq, Repr

/-- Its rank is that of a launch released now. -/
def aheadCand (w : World) (k ctx : Nat) : Cand :=
  let s := stepOfWork w k
  { key := k, ctx := ctx, q := k / 8192, saved := false, old := false, fallback := false, step := s.isSome
    deadline := (s.map (·.deadline)).getD 0, order := w.fe.orders }

/-- Is this the work of a launch that the partition runs? -/
def runsNow (w : World) (p k : Nat) : Bool := (mget w.fe.launches p).any (fun l => l.work = k)

/-- The next launch of a queue that holds a slot, while its current entry is a NOP or a launch that runs. -/
def aheadEntry (w : World) (p q : Nat) (y : Queue) : Option Ahead :=
  let ctx := queueCtx w q
  let k := workKey q none
  if ctxPart w ctx ≠ p || !(ctxLive w ctx) || y.destroying || y.slot.isNone then none
  else
    let r := match getWork w k with
      | none => nextLaunch false y
      | some x => if x.kind = 0 || runsNow w p k then nextLaunch true y else none
    match r with
    | none => none
    | some (t, e) =>
      if entBad e then none else some ⟨{ aheadCand w k ctx with step := false, deadline := 0 }, t, e, []⟩

/-- The lowest-index launch node of a run that is ready, or will be when the nodes under way are done (R311). -/
def nextNode (run : GraphRun) (rs : List (List Byte)) : Option (Nat × List Byte) :=
  let left := ((run.nodes.zip rs).zipIdx.filter (fun p => p.1.1 = .waiting && entKind (ndEntry p.1.2) = 1)).map
    (fun p => (p.2, p.1.2))
  match left.find? (fun p => nodeReady run p.2) with
  | some p => some p
  | none => left.find? (fun p => (ndPreds p.2).all (fun i => nth run.nodes i .waiting ≠ .waiting))

/-- The next launch node of a run, while no launch node of it waits for the partition. -/
def aheadNode (w : World) (p k : Nat) (run : GraphRun) : Option Ahead :=
  match getWork w k with
  | none => none
  | some x =>
    let q := k / 8192
    let rs := versionNodes w run.graph run.version
    if x.part ≠ p || !x.begun || x.stop ≠ none || x.fin ≠ none || stepHalted w k ||
        (launchesOut run rs).any (fun i => !(runsNow w p (workKey q (some i)))) then none
    else (nextNode run rs).map (fun r =>
      ⟨aheadCand w (workKey q (some r.1)) x.ctx, workNum w k, ndEntry r.2, (ndBody r.2).take 64 ++ ndCb r.2⟩)

/-- The launch that the scheduler will start next on a partition, as far as it can be known: its choice, or, while a
launch runs or there is no candidate, a launch ahead that outranks it. DESIGN CHOICE: R307 does not say how far the
scheduler looks ahead. -/
def nextStart (w : World) (p : Nat) : Option (Cand × Option Ahead) :=
  let now := (choose w p).map (fun c => (c, (none : Option Ahead)))
  if (mget w.fe.launches p).isNone && now.isSome then now
  else
    let as := w.fe.queues.filterMap (fun q => aheadEntry w p q.1 q.2) ++
      w.fe.runs.filterMap (fun r => aheadNode w p r.1 r.2)
    let may (a : Ahead) : Bool := residencyOf w a.cand.ctx = .resident && (match mget w.sched.hold p with
      | none => true
      | some h => entryKey a.cand.key = h)
    (as.filter may).foldl (fun b a => match b with
      | none => some (a.cand, some a)
      | some d => if lexLt (rank w p a.cand) (rank w p d.1) then some (a.cand, some a) else b) now

/-- Preloads a launch whose descriptor and constant buffer have been read. -/
def preloadCmd (p k num ctx : Nat) (cmd : List Byte) (w : World) : World :=
  let r := codeWords ctx (dEntry cmd) w
  setPreload p { work := k, num := num, cmd := cmd, code := r.1, ready := false } r.2

/-- PRELOAD: the front end reads the launch `k` that the scheduler will start next on a partition into the shadow sets of
its cores. A launch that fails its checks is not preloaded. -/
def preload (p k : Nat) (w : World) : World :=
  match nextStart w p with
  | none => w
  | some (c, a) =>
    if c.key ≠ k || c.saved then w
    else match a with
      | none => if (candCmd w c).isEmpty then w else preloadCmd p k (workNum w k) c.ctx (candCmd w c) w
      | some a =>
        let r := if a.cmd.isEmpty then readLaunch c.ctx p a.entry.stamp stCtxLost a.entry.w1 w else (.ok a.cmd, w)
        match r.1 with
        | .ok cmd => preloadCmd p k a.num c.ctx cmd r.2
        | _ => r.2

def execPreload (p k : Nat) (s : State) := run (preload p k) s

/-! ### LAUNCH (R304, R360) -/

/-- A launch that passed its checks is a candidate; its time limit runs from its release (R299). -/
def beginLaunch (k : Nat) (x : Work) (cmd : List Byte) (w : World) : World :=
  reschedule x.part (updWork k (fun x => { x with cmd := cmd, begun := true, limit := 1000 * dLimit cmd }) w)

/-- The descriptor and constant buffer of a released launch: those of its node, those of its preload, or those that
arg0 names. -/
def launchCmd (k : Nat) (x : Work) (w : World) : LaunchRead × World :=
  let check (cmd : List Byte) := checkLaunch x.ctx x.part x.stamp stCtxLost false (cmd.take 64) (some (cmd.drop 64)) w
  if x.node.isSome then check x.cmd
  else match mget w.fe.preloads x.part with
    | some pre =>
      if pre.work = k && pre.num = workNum w k && pre.ready then check pre.cmd
      else readLaunch x.ctx x.part x.stamp stCtxLost x.arg0 w
    | none => readLaunch x.ctx x.part x.stamp stCtxLost x.arg0 w

/-- LAUNCH: a released launch is checked, with its step record if it has one. -/
def launchEntry (k : Nat) (w : World) : World :=
  match workRuns w k 1 with
  | none => w
  | some x =>
    if x.begun || x.stop ≠ none then w
    else
      let r := launchCmd k x w
      match r.1 with
      | .waits => r.2
      | .fail st => launchFail k st x r.2
      | .ok cmd =>
        if x.node = none && dStep cmd ≠ 0 then
          let s := readStep x.ctx x.part x.stamp (dStep cmd) 1 r.2
          match s.1 with
          | .waits => s.2
          | .fail st => finWork k st s.2
          | .ok s' => beginLaunch k x cmd (addStep k s' s.2)
        else beginLaunch k x cmd r.2

def execLaunch (k : Nat) (s : State) := runFe (launchEntry k) s

/-! ### GRAPH_RUN (R311, R358, R364) -/

/-- Binds a run to a version. -/
def bindRun (k g v : Nat) (w : World) : World :=
  let nodes := List.replicate (versionNodes w g v).length NodeSt.waiting
  let r : GraphRun := { graph := g, version := v, nodes := nodes }
  setFe (fun f => { f with runs := mset f.runs k r }) w

/-- The version a GRAPH_RUN names: 0xFFFF is the latest. -/
def runVersion (x : Work) (g : Graph) : Nat := if bits x.arg1 16 16 = 0xFFFF then g.latest else bits x.arg1 16 16

/-- A GRAPH_RUN binds its version when it is released (R311). -/
def graphBind (k : Nat) (w : World) : World :=
  match getWork w k with
  | none => w
  | some x =>
    let g := bits x.arg1 0 11
    match graphOf w g with
    | none => finWork k stObjGone w
    | some gr =>
      let v := runVersion x gr
      if gr.destroyed || gr.ctx ≠ x.ctx then finWork k stObjGone w
      else if (mget gr.versions v).isNone then finWork k stVersion w
      else bindRun k g v w

/-- A run has passed its checks: its ready nodes are released. -/
def beginRun (k q : Nat) (w : World) : World := releaseNodes q (updWork k (fun x => { x with begun := true }) w)

/-- Starts a bound run; it is a batch step where its lowest-index launch node has a record (R358). -/
def graphStart (k : Nat) (x : Work) (r : GraphRun) (w : World) : World :=
  let steps := nodeSteps (versionNodes w r.graph r.version)
  if !((steps.drop 1).all (· = 0)) then finWork k stVersion w
  else if steps.headD 0 = 0 then beginRun k x.q w
  else
    let s := readStep x.ctx x.part x.stamp (steps.headD 0) steps.length w
    match s.1 with
    | .waits => s.2
    | .fail st => finWork k st s.2
    | .ok s' => beginRun k x.q (addStep k s' s.2)

/-- The status of what a step's entry has run so far. -/
def runSoFar (w : World) (k : Nat) : Nat := match runOf w k with
  | some r => runStatus r
  | none => stOK

/-- Starts the fallback graph of an abandoned step at its latest version, once the step's own nodes have stopped and
it is the scheduler's choice for the free partition. -/
def graphFallback (k g : Nat) (s : Step) (x : Work) (w : World) : World :=
  if (mget w.fe.launches s.part).isSome || (choose w s.part).map (·.key) ≠ some k || nodesOut w x.q then w
  else
    let st := firstStatus s.status (runSoFar w k)
    let w := updStep k (fun s => { s with fallback := true, status := st }) w
    if fbGraphOk w s.ctx g then
      let w := setSched (fun c => { c with hold := mset c.hold s.part k }) w
      beginRun k x.q (bindRun k g (match graphOf w g with | some y => y.latest | none => 0) w)
    else finWork k (firstStatus st stObjGone) w

/-- GRAPH_RUN. -/
def graphRun (k : Nat) (w : World) : World :=
  match getWork w k with
  | none => w
  | some x =>
    if x.fin ≠ none || x.stop ≠ none || x.node.isSome then w
    else match stepOf w k with
      | some s => (match s.fbGraph with
        | some g => if s.abandoned && !s.fallback then graphFallback k g s x w else w
        | none => w)
      | none => match runOf w k with
        | some r => if x.begun then w else graphStart k x r w
        | none => w

def execGraphRun (k : Nat) (s : State) := runFe (graphRun k) s

/-! ### Release (R298, R301) -/

/-- Releases an entry of a LIVE context, or completes it where R296, R300 or R301 ends it at once: one that breaks R296 and
whose structure is gone too with OBJECT_GONE (R13). A GRAPH_RUN binds its version (R311). -/
def releaseEntry (q : Nat) (e : Entry) (w : World) : World :=
  let c := queueCtx w q
  let kind := entKind e
  if entBad e || (kind = 5 && waitBad w q e) then
    (if entVersion e = 1 && namesCmd kind && cmdGone w c kind e then structGone q kind e w
      else completeHead q stVersion (entNotify e) e.w2 w)
  else if namesCmd kind then
    let n := cmdBytes kind
    if cmdGone w c kind e then structGone q kind e w
    else
      let r := rangeState c e.w1 n false none w
      match r.1.1 with
      | .waits => r.2
      | .fault _ _ => structGone q kind e r.2
      | .ready =>
        let b := vaDevRead byControl c e.w1 n r.2
        addWork q none kind c e.stamp b.1 e b.2
  else if kind = 6 then graphBind (workKey q none) (addWork q none kind c e.stamp [] e w)
  else addWork q none kind c e.stamp [] e w

/-- ENTRY_RELEASE: the next entry of a queue that holds a slot, once its previous one has completed. -/
def entryRelease (q : Nat) (w : World) : World :=
  match queueOf w q with
  | none => w
  | some x => match x.ents with
    | [] => w
    | e :: _ =>
      if x.slot = none || x.destroying || (getWork w (workKey q none)).isSome then w
      else if !(ctxLive w (queueCtx w q)) then completeHead q stCtxLost (entNotify e) e.w2 w
      else if executorFull w (entKind e) && !(entBad e) then w
      else releaseEntry q e w

def execEntryRelease (q : Nat) (s : State) := runFe (entryRelease q) s

/-! ### Completion (R298, R311) -/

/-- A run ends when every node has completed, or when it is being stopped and none is under way. -/
def runCheck (q : Nat) (w : World) : World :=
  let k := workKey q none
  match runOf w k, getWork w k with
  | some run, some x =>
    if x.fin ≠ none || nodesOut w q then w
    else match x.stop with
      | some st =>
        let w := abandonNodes q st w
        finWork k (runSoFar w k) w
      | none =>
        if stepHalted w k || !(run.nodes.all isDone) then w
        else
          let st := runStatus run
          finWork k (match stepOf w k with
            | some s => if s.abandoned then firstStatus (firstStatus st s.status) stFallback else st
            | none => st) w
  | _, _ =>
    match getWork w k with
    | some x => (match x.stop with
      | some st => if x.kind = 6 then finWork k st w else w
      | none => w)
    | none => w

/-- Completes a node: its message, what it makes ready, and its run. -/
def nodeComplete (k i st : Nat) (x : Work) (w : World) : World :=
  let st := finalStatus w x st
  let w := updRun (workKey x.q none) (fun u => { u with nodes := nthSet u.nodes i (.done st) }) w
  let w := if x.kind = 1 then nbgAbandon x.part k w else w
  let w := { w with fe := { w.fe with works := mdel w.fe.works k }, cas := { w.cas with late := w.cas.late.filter (· ≠ k) } }
  let w := match queueOf w x.q with
    | some y => if x.notify then sendTo (queueDest w x.q) (queueUnit y) (queueCtx w x.q) st x.cookie w else w
    | none => w
  runCheck x.q (releaseNodes x.q w)

/-- Completes the entry of a queue, with its step's results first. -/
def headComplete (k st : Nat) (x : Work) (w : World) : World :=
  if nodesOut w x.q then w
  else
    let st := match stepOf w k with
      | some s => if s.abandoned && s.fallback then firstStatus st (firstStatus s.status (runSoFar w k)) else st
      | none => st
    let st := finalStatus w x st
    let r : Bool × World := match stepOf w k with
      | some s => resultsReady s w
      | none => (true, w)
    if !r.1 then r.2
    else
      let w := finishStep k st (x.stop = none) r.2
      let w := if x.kind = 1 then nbgAbandon x.part k w else w
      let w := { w with cas := { w.cas with late := w.cas.late.filter (· ≠ k) } }
      completeHead x.q st x.notify x.cookie
        (graphSweep (setFe (fun f => { f with runs := mdel f.runs k }) w))

/-- Nodes of every run that the front end holds back for a full executor are released once it has room (R199). DESIGN
CHOICE: of several runs that of the lower queue comes first. -/
def releaseHeld (w : World) : World := forAll (w.fe.runs.map (fun r => r.1 / 8192)) releaseNodes w

/-- ENTRY_COMPLETE: the executor of an entry or node has finished it, and its status is fixed. -/
def entryComplete (k : Nat) (w : World) : World :=
  let w := match getWork w k with
    | some x => if x.node = none && x.fin = none then runCheck x.q w else w
    | none => w
  match getWork w k with
  | none => w
  | some x => match x.fin, x.node with
    | none, _ => w
    | some st, some i => releaseHeld (nodeComplete k i st x w)
    | some st, none => releaseHeld (headComplete k st x w)

def execEntryComplete (k : Nat) (s : State) := runFe (entryComplete k) s

end Sys2Proof.Machine
end

