-- ==== Sys2Proof/Machine/Contexts.lean ====
section
/-!
DEFINITION. The commands of FE_CTX_CMD (R342), the end of a context (R335 to R339), subscriptions (R330, R331).
-/
namespace Sys2Proof.Machine

/-! ### Results (R342) -/

def resOK : Nat := 0
def resBadNumber : Nat := 2
def resInUse : Nat := 3
def resLimit : Nat := 4
def resNoPartition : Nat := 5
def resNoSpace : Nat := 6
def resWrongState : Nat := 7
def resAlreadyDone : Nat := 8
def resBadArg : Nat := 9

def ctxResult (r : Nat) (w : World) : World := fldSet w rFE_CTX_RESULT 0 8 r

def ctxArg (w : World) (i : Nat) : Nat :=
  if i = 0 then rg w rFE_CTX_ARG0 else if i = 1 then rg w rFE_CTX_ARG1 else rg w rFE_CTX_ARG2

/-- Runs a command on the selected context, unless one is running or the image is not CONFIGURED. -/
def ctxCmd (f : Nat → World → World) (w : World) : World :=
  if !(configured w) || w.fe.ctxRun.isSome then w
  else
    let n := fld w rFE_CTX_SEL 0 20
    if n = 0 || n = devCtx then ctxResult resBadNumber w else f n w

/-- A write of FE_CTX_CMD whose op is none of R342's. -/
def ctxOther (w : World) : World := ctxCmd (fun _ w => ctxResult resBadArg w) w

/-- The command runs on: busy reads 1 until it is done. -/
def ctxBusy (r : CtxRun) (w : World) : World :=
  fldSet { w with fe := { w.fe with ctxRun := some r } } rFE_CTX_RESULT 63 1 1

/-! ### CREATE -/

/-- CREATE: FREE to LIVE, with a resident place if one is free (R351). `cc`: the control complex wrote the command. -/
def ctxCreate (cc : Bool) (n : Nat) (w : World) : World :=
  let p := bits (ctxArg w 0) 0 4
  if ctxArg w 0 ≠ p || ctxArg w 1 ≠ 0 || ctxArg w 2 ≠ 0 then ctxResult resBadArg w
  else if llynState w = 4 then ctxResult resWrongState w
  else if (ctxOf w n).isSome then ctxResult resInUse w
  else if 4096 ≤ w.fe.ctxs.length then ctxResult resLimit w
  else if !(partDefined w p) then ctxResult resNoPartition w
  else if (tablePlace w).isNone then ctxResult resNoSpace w
  else
    let place : Residency := if placesTaken w p < residentMax w p then .resident else .swapped
    let c : Ctx := { part := p, cc := cc, st := .live, cause := 0, flags := 0, stamp := 0 }
    let w := (makeTable n 0 4 w).2
    setResidency n place (ctxResult resOK { w with fe := { w.fe with ctxs := mset w.fe.ctxs n c } })

def execCreate (cc : Bool) (s : State) := run (fun w => ctxCmd (ctxCreate cc) w) s

/-! ### KILL and DESTROY -/

def argsZero (w : World) : Bool := ctxArg w 0 = 0 && ctxArg w 1 = 0 && ctxArg w 2 = 0

/-- KILL (R335). -/
def ctxKill (n : Nat) (w : World) : World :=
  if !(argsZero w) then ctxResult resBadArg w
  else match ctxOf w n with
    | none => ctxResult resWrongState w
    | some c => match c.st with
      | .destroying => ctxResult resWrongState w
      | .lost => ctxResult resOK w
      | .live => killCheck (ctxBusy (.kill n) (loseCtx n 6 (ctxResult resOK w)))

def execKill (s : State) := run (fun w => ctxCmd ctxKill w) s

/-- Enabled queues of a context. -/
def ctxQueues (w : World) (n : Nat) : List Nat := (w.fe.queues.filter (fun q => queueCtx w q.1 = n)).map (·.1)

/-- The first two steps of R337. -/
def beginDestroy (n : Nat) (w : World) : World :=
  forAll (ctxQueues w n) queueDestroy (setCtx w n (fun c => { c with st := .destroying }))

/-- DESTROY (R336). -/
def ctxDestroy (n : Nat) (w : World) : World :=
  if !(argsZero w) then ctxResult resBadArg w
  else match ctxOf w n with
    | none => ctxResult resWrongState w
    | some c =>
      if c.st = .lost || (c.st = .live && (ctxQueues w n).isEmpty) then
        ctxBusy (.destroy n) (beginDestroy n (ctxResult resOK w))
      else ctxResult resWrongState w

def execDestroy (s : State) := run (fun w => ctxCmd ctxDestroy w) s

/-! ### The end of a context (R337 steps 3 to 7) -/

/-- Frees one object at once: no entry of its context remains. -/
def endObject (id : Nat) (w : World) : World :=
  let r := unmapObj id w
  let w := bump (tlbDrop r.1.1 r.2) rMEM_TLB_SHOOT r.1.1.length
  finishFree id r.1.2.1 r.1.2.2 w

/-- The warm copy of a model that another context still maps stays DRAINING, held by the model: it leaves its
context, whose number may be used again, and keeps its leaves under a number of its own. -/
def orphan (id : Nat) (w : World) : World :=
  match objOf w id with
  | none => w
  | some o =>
    let new := 2 ^ 20 + id
    let lvl := lvlOf o.page2m
    let gone := (aliasesOf w id).map (·.1)
    let w := forAll gone endObject w
    let w := forAll (objPages o) (fun va w =>
      setPte (pteKey o.ctx lvl va) 0 (setPte (pteKey new lvl va) (pteOf w o.ctx lvl va) w)) (drainObj id w)
    updObj id (fun o => { o with ctx := new }) (tlbDrop (objKeys o) w)

def isModel (o : Obj) : Bool := match o.kind with
  | .model _ => true
  | _ => false

/-- Step 5: model mappings end, then every object. -/
def endObjects (n : Nat) (w : World) : World :=
  let maps := (w.mem.objs.filter (fun o => o.2.ctx = n && isModel o.2)).map (·.1)
  let w := forAll maps endObject w
  let rest := (w.mem.objs.filter (fun o => o.2.ctx = n)).map (·.1)
  forAll rest (fun id w => if w.mem.models.any (fun m => m.2.warm = id) then orphan id w else endObject id w) w

/-- Step 6: a waiting message of the context is written if its ring has room, else dropped and counted. -/
def flushWaiting (n : Nat) (w : World) : World :=
  forAll (w.irq.waiting.filter (fun m => bits m.w0 44 20 = n)) (fun m w =>
    let w := updIrq (fun i => { i with waiting := i.waiting.erase m }) w
    if ringOn w m.ring && !(ringFull w m.ring) then ringWrite m.ring m.w0 m.w1 w
    else bumpSat w (ringDrop m.ring) 0) w

/-- Step 4: the context's graphs and Cassia slots; the Clove slots it owns (R479). -/
def endGraphsSlots (n : Nat) (w : World) : World :=
  let graphs := w.fe.graphs.map (fun g => (g.1, if g.2.ctx = n then { g.2 with destroyed := true } else g.2))
  let w := graphSweep { w with fe := { w.fe with graphs := graphs } }
  let w := forAll ((w.cas.slots.filter (fun s => s.2.owner = n)).map (·.1)) casFree w
  cloveCtxGone n { w with cas := { w.cas with pageIns := w.cas.pageIns.filter (fun p => p.ctx ≠ n) } }

/-- Step 7: the tables are returned and the context is FREE. -/
def endTables (n : Nat) (w : World) : World :=
  let w := { w with
    fe := { w.fe with ctxs := mdel w.fe.ctxs n }
    mem := { w.mem with
      pte := w.mem.pte.filter (fun e => e.1 / 2 ^ 44 ≠ n)
      tables := w.mem.tables.filter (fun e => e.1 / 2 ^ 44 ≠ n) } }
  setSched (fun s => { s with
    residency := mdel s.residency n, moved := mdel s.moved n, lastRan := mdel s.lastRan n }) w

/-- CONTEXT_DESTROY_COMPLETE: its queues are destroyed, no MAP of it is under way, nothing is being invalidated, and its
messages have reached the interrupt unit; the rest of R337 follows. -/
def destroyComplete (n : Nat) (w : World) : World :=
  match ctxOf w n with
  | none => w
  | some c =>
    if c.st ≠ .destroying || !((ctxQueues w n).isEmpty) || !(w.mem.inval.isEmpty) ||
        w.irq.inbox.any (fun m => m.ctx = n) || w.mem.maps.any (fun m => m.ctx = n) then w
    else
      let w := { w with fe := { w.fe with subs := w.fe.subs.filter (fun s => s.2.ctx ≠ n) } }
      let w := endTables n (flushWaiting n (endObjects n (endGraphsSlots n w)))
      if w.fe.ctxRun = some (.destroy n) then
        fldSet { w with fe := { w.fe with ctxRun := none } } rFE_CTX_RESULT 63 1 0
      else w

def execContextDestroyComplete (ctx : Nat) (s : State) := run (destroyComplete ctx) s

/-! ### MEMCMD and MAP_IO -/

/-- MEMCMD: a memory command from a physical address, with nowait forced. It takes a stamp (R324). -/
def ctxMemcmd (n : Nat) (w : World) : World :=
  let pa := ctxArg w 0
  if pa % 64 ≠ 0 || !(isMain pa) || ctxArg w 1 ≠ 0 || ctxArg w 2 ≠ 0 then ctxResult resBadArg w
  else match ctxOf w n with
    | none => ctxResult resWrongState w
    | some c =>
      if c.st ≠ .live then ctxResult resWrongState w
      else
        let w := setCtx w n (fun c => { c with stamp := c.stamp + 1 })
        let r := devRead byControl pa 64 (ctxBusy (.memcmd n) (ctxResult resOK w))
        memDirect n c.part (c.stamp + 1) r.1 r.2

def execMemcmd (s : State) := run (fun w => ctxCmd ctxMemcmd w) s

/-- MAP_IO: an object with IO leaves of 64 KiB in the PCIe and CXL window or the chiplet window. The command runs on until
every holder has confirmed its entries (R252). Where the carve-out has no room for its tables it changes nothing. -/
def ctxMapIo (n : Nat) (w : World) : World :=
  let va := ctxArg w 0
  let pa := ctxArg w 1
  let len := ctxArg w 2
  let window := (inPcie pa && inPcie (pa + len - 1)) || (inChip pa && inChip (pa + len - 1))
  if rangeBad 65536 va len || pa % 65536 ≠ 0 || !window || overlaps w n va len then ctxResult resBadArg w
  else if !(ctxLive w n) then ctxResult resWrongState w
  else
    let vas := pagesOf false va len
    let t := vas.foldl (fun (a : Bool × World) v => let r := makeTables n 0 v a.2; (a.1 && r.1, r.2)) (true, w)
    if !(objRoom w) || !t.1 then ctxResult resNoSpace w
    else
      let w := forAll vas (fun a w => setLeaf n 0 a (leafWord 1 2 false 0 false (pa + a - va)) w) t.2
      let o : Obj :=
        { ctx := n, part := ctxPart w n, va := va, len := len, kind := .io, host := false, page2m := false, attr := 2
          wp := false, drain := none, freeing := false, kept := [] }
      invalidate (vas.map (pteKey n 0)) .mapIo (ctxBusy (.mapIo n) (ctxResult resOK (newObj o w)))

def execMapIo (s : State) := run (fun w => ctxCmd ctxMapIo w) s

/-! ### Subscriptions -/

/-- Bits of ARG1 that SUBSCRIBE uses. -/
def subMask : Nat := 0x3F3F0303FF

/-- SUBSCRIBE (R331): the lowest free handle. -/
def ctxSubscribe (n : Nat) (w : World) : World :=
  let seq := ctxArg w 0
  let a := ctxArg w 1
  let q := bits a 0 10
  if a &&& subMask ≠ a || (queueOf w q).isNone then ctxResult resBadArg w
  else if !(ctxLive w n) then ctxResult resWrongState w
  else if 4096 ≤ w.fe.subs.length then ctxResult resLimit w
  else if serialGe (queueDone w q) seq then ctxResult resAlreadyDone w
  else
    let h := ((List.range 4096).find? (fun h => (mget w.fe.subs h).isNone)).getD 0
    let s : Sub :=
      { ctx := n, q := q, seq := seq, cc := if bit a 17 then some (bits a 24 6) else none
        host := if bit a 16 then some (bits a 32 6) else none, cookie := ctxArg w 2 }
    let w := { w with fe := { w.fe with subs := mset w.fe.subs h s } }
    ctxResult resOK (fldSet w rFE_CTX_RESULT 16 12 h)

def execSubscribe (s : State) := run (fun w => ctxCmd ctxSubscribe w) s

/-- UNSUBSCRIBE. -/
def ctxUnsubscribe (n : Nat) (w : World) : World :=
  let h := ctxArg w 0
  let sub := mget w.fe.subs h
  if 4096 ≤ h || ctxArg w 1 ≠ 0 || ctxArg w 2 ≠ 0 || (match sub with | some s => s.ctx ≠ n | none => false) then
    ctxResult resBadArg w
  else if !(ctxLive w n || ctxLost w n) then ctxResult resWrongState w
  else if sub.isNone then ctxResult resAlreadyDone w
  else ctxResult resOK { w with fe := { w.fe with subs := mdel w.fe.subs h } }

def execUnsubscribe (s : State) := run (fun w => ctxCmd ctxUnsubscribe w) s

/-! ### Flags and owner reset -/

/-- FE_CTX_FLAGS_CLEAR (R323): ones clear bits of the selected context's word. -/
def flagsClear (v : Nat) (w : World) : World :=
  let n := fld w rFE_CTX_SEL 0 20
  if configured w && (ctxLive w n || ctxLost w n) then
    setCtx w n (fun c => { c with flags := c.flags &&& ~~~(BitVec.ofNat 16 (bits v 0 7)) })
  else w

def execFeCtxFlagsClear (v : Nat) (s : State) := run (flagsClear v) s

/-- FUNCTION_LEVEL_RESET (R339): host rings are disabled, and every context of the host is lost and destroyed. -/
def functionReset (w : World) : World :=
  let w := iter 64 (fun r w => if ringOn w (r + 64) then ringDisable (r + 64) 0 w else w) w
  let hosts := (w.fe.ctxs.filter (fun c => !c.2.cc)).map (·.1)
  let w := forAll hosts (fun n w => loseCtx n 7 w) w
  forAll hosts (fun n w => match ctxOf w n with
    | some c => if c.st = .destroying then w else beginDestroy n w
    | none => w) w

def execFunctionLevelReset (s : State) := run functionReset s

end Sys2Proof.Machine
end

