-- ==== Sys2Proof/Machine/Power.lean ====
section
/-!
DEFINITION. The power authority (R436, R437), domains (R440 to R442), operating points and mode epochs (R443, R444),
throttling (R260, R438), and restarting a hart (R283, R284, R456).
-/
namespace Sys2Proof.Machine

def updPwr (f : Pwr → Pwr) (w : World) : World := { w with pwr := f w.pwr }

/-! ### Authority (R436, R437) -/

/-- The holder, 0 HOST or 1 CC: while a command runs, the one it began under. -/
def holder (w : World) : Nat := w.pwr.was.getD (fld w rPWR_AUTH 0 1)

/-- Sets PWR_AUTH.holder; a change takes effect when the commands that run now have completed. -/
def setHolder (h : Nat) (w : World) : World :=
  let old := holder w
  let w := fldSet w rPWR_AUTH 0 1 h
  if w.pwr.runs.isEmpty then w else updPwr (fun p => { p with was := some old, wasFor := p.runs }) w

/-- A write of PWR_AUTH by an agent (0 HOST, 1 CC): a hart may only return the authority. -/
def authWrite (agent v : Nat) (w : World) : World :=
  if agent = 0 || (agent = 1 && v % 2 = 0) then setHolder (v % 2) w else w

def execPwrAuthWrite (agent v : Nat) (s : State) := run (authWrite agent v) s

/-- A write that only the holder may make; from another agent it is dropped and counted. -/
def byHolder (agent : Nat) (f : World → World) (w : World) : World := if agent = holder w then f w else bump w rPWR_DENIED 1

/-- The registers R437 names. -/
def holderReg (off : Nat) : Bool :=
  off = rPWR_CMD || off = rPWR_ARG || off = rPWR_CEIL_TJ || off = rPWR_CEIL_CUR || off = rPWR_TRIP || off = rMEM_THERM_CFG

/-- DENIED_WRITE: a write of one of these registers by the agent that is not the holder. -/
def deniedWrite (agent off : Nat) (w : World) : World := if holderReg off then byHolder agent (fun w => w) w else w

def execDeniedWrite (agent off : Nat) (s : State) := run (deniedWrite agent off) s

/-- PCIE_LINK_DOWN_FALLBACK: after 1 s without the PCIe link the authority passes to the control complex. -/
def linkFallback (w : World) : World := match w.pwr.pcieDown with
  | some t => if w.pwr.fallback && fld w rPWR_AUTH 0 1 = 0 && t + 10 ^ 9 ≤ w.now then setHolder 1 w else w
  | none => w

def execPcieLinkDownFallback (s : State) := run linkFallback s

/-- PCIE_LINK_STATE_CHANGE: the link goes down, or comes back. -/
def pcieLink (up : Bool) (w : World) : World :=
  if up then (if w.pins.perstN && !(fld w (rPWR_DOM 142) 0 3 = 0) then updPwr (fun p => { p with pcieDown := none }) w else w)
  else updPwr (fun p => { p with pcieDown := some (p.pcieDown.getD w.now) }) w

def execPcieLinkStateChange (up : Bool) (s : State) := run (pcieLink up) s

/-! ### Commands and their results (R457) -/

def pwOK : Nat := 0
def pwAborted : Nat := 1
def pwInUse : Nat := 2
def pwBadArg : Nat := 3
def pwTimeout : Nat := 4

/-- A command ends with a result: the register shows it, and a message is sent. -/
def pwResult (res : Nat) (w : World) : World :=
  sendMsg 0x0A8 devCtx stOK (0x20 * 2 ^ 56 + res) (fldSet w rPWR_CMD_STATUS 0 8 res)

/-- A command begins to run. -/
def pwBegin (r : PwrRun) (w : World) : World :=
  fldSet (updPwr (fun p => { p with runs := p.runs ++ [r] }) w) rPWR_CMD_STATUS 63 1 1

/-- The running commands that `f` picks end with a result; with the last of them busy clears. A change of holder
takes effect with the last of those that ran when it was written. -/
def pwEnd (f : PwrRun → Bool) (res : Nat) (w : World) : World :=
  let ends := w.pwr.runs.filter f
  let w := updPwr (fun p => { p with runs := p.runs.filter (fun r => !(f r)), wasFor := p.wasFor.filter (fun r => !(f r)) }) w
  let w := if w.pwr.wasFor.isEmpty then updPwr (fun p => { p with was := none }) w else w
  let w := if w.pwr.runs.isEmpty then fldSet w rPWR_CMD_STATUS 63 1 0 else w
  forAll ends (fun _ w => pwResult res w) w

def bootPhase (w : World) : Nat := fld w rGLB_BOOT_STATUS 0 4

def domState (w : World) (d : Nat) : Nat := fld w (rPWR_DOM d) 0 3

/-- Moves a domain to a state, from now on; `enable` is the latched enable. -/
def setDom (d st : Nat) (enable : Bool) (w : World) : World :=
  updPwr (fun p => { p with since := mset p.since d w.now }) (fldSet w (rPWR_DOM d) 0 4 (st + 8 * b2n enable))

/-- Is a domain in transition: STARTING, STOPPING or RESTARTING? -/
def inTransition (w : World) (d : Nat) : Bool := domState w d = 1 || 3 ≤ domState w d

/-- A write of PWR_CMD. While a command runs another is dropped, but for DOMAIN_ON and DOMAIN_OFF of a domain in
transition, whose outcome R442 gives (DEDUCED). In phase STOPPED only DOMAIN_OFF is accepted (R455). -/
def pwCmd (agent op target : Nat) (f : World → World) (w : World) : World :=
  byHolder agent (fun w =>
    if bootPhase w = 8 && op ≠ 2 then w
    else if !w.pwr.runs.isEmpty && !((op = 1 || op = 2) && inTransition w target) then w
    else f w) w

/-- An op that is none of R457's. -/
def pwOther (agent op : Nat) (w : World) : World := pwCmd agent op 0 (pwResult pwBadArg) w

/-! ### Domains (R440 to R442) -/

/-- Is a cluster in a partition? -/
def clusterUsed (w : World) (c : Nat) : Bool := (List.range 16).any (fun p => (partClusters w p).contains c)

/-- The chiplet site is ABSENT or ISOLATED. -/
def siteIdle (w : World) : Bool := fld w rD2D_CHIP_STATUS 0 2 = 0 || fld w rD2D_CHIP_STATUS 0 2 = 3

/-- R440's last column as it stands now, but for domain 142. -/
def domUnused (w : World) (d : Nat) : Bool :=
  if d < 64 then !(clusterUsed w (d / 4))
  else if d < 80 then !(clusterUsed w (d - 64))
  else if d < 84 then (List.range 4).all (fun k => !(clusterUsed w (4 * (d - 80) + k)))
  else if d < 96 then false
  else if d < 108 then fld w rSAF_CFG 0 5 = 0
  else if d < 110 then (List.range 16).all (fun p => fld w (rCAS_PART_CFG p) 0 17 = 0)
  else if d < 126 then portRole w (d - 110) = 0
  else if d < 138 then false
  else if d < 142 then portRole w (d - 122) = 0
  else if d = 143 then siteIdle w
  else false

/-- Hart groups may always be OFF, PCIe only while the holder is CC; without a CONFIGURED image nothing is forbidden. -/
def offAllowed (w : World) (d : Nat) : Bool :=
  !(configured w) || domUnused w d || (128 ≤ d && d < 136) || (d = 142 && holder w = 1)

def groupHarts (d : Nat) : List Nat := (List.range 4).map (· + 4 * (d - 128))

/-- A hart of a group that starts: held at the bundle's reset vector (R441). -/
def hartHeld (h : Nat) (w : World) : World :=
  setHart h { Hart.reset with run := .stopped, pc := Config.resetVector w.boot.bundle } w

def isHartGroup (d : Nat) : Bool := decide (128 ≤ d) && decide (d < 136)

/-- Nothing of a hart waits to leave it. -/
def hartClean (x : Hart) : Bool := x.sb.isEmpty && x.cb.isEmpty && x.mLines.isEmpty && x.sLines.isEmpty

/-- The domain begins to drain; its harts are asked to stop (R284), those too that an earlier request left stopped with
stores or lines of theirs. -/
def stopDom (d : Nat) (w : World) : World :=
  let w := setDom d 3 false w
  if isHartGroup d then
    forAll (groupHarts d) (fun h w => updHart h (fun x => { x with run := if x.run = .stopped && hartClean x then .stopped else .stopping }) w) w
  else w

/-- The domain begins to start; the chiplet's link begins to train. -/
def startDom (d : Nat) (w : World) : World :=
  let w := setDom d 1 false w
  if d = 143 && Config.variantA then fldSet w (rD2D_LINK_STATUS 3) 0 2 1 else w

/-- DOMAIN_ON. -/
def domainOn (d : Nat) (w : World) : World :=
  if 144 ≤ d then pwResult pwBadArg w
  else
    let st := domState w d
    if st = 2 then pwResult pwOK w
    else
      let w := pwBegin ⟨1, d, 0⟩ w
      if st = 0 then startDom d w else if st = 3 then fldSet w (rPWR_DOM d) 0 4 12 else w

def execDomainOn (agent d : Nat) (s : State) := run (pwCmd agent 1 d (domainOn d)) s

/-- DOMAIN_OFF. -/
def domainOff (d : Nat) (w : World) : World :=
  if 144 ≤ d then pwResult pwBadArg w
  else if !(offAllowed w d) then pwResult pwInUse w
  else
    let st := domState w d
    if st = 0 then pwResult pwOK w
    else if st = 4 then
      pwBegin ⟨2, d, 0⟩ (pwEnd (fun r => r = ⟨1, d, 0⟩) pwAborted (fldSet w (rPWR_DOM d) 0 4 3))
    else
      let w := pwBegin ⟨2, d, 0⟩ w
      if st = 1 then updPwr (fun p => { p with offNext := sIns p.offNext d }) w
      else if st = 2 then stopDom d w else w

def execDomainOff (agent d : Nat) (s : State) := run (pwCmd agent 2 d (domainOff d)) s

/-- DOMAIN_STARTUP_COMPLETE: the domain is ON; harts are held at the reset vector, and the chiplet site has negotiated. A
DOMAIN_OFF that came meanwhile then begins. -/
def startupComplete (d : Nat) (w : World) : World :=
  if 144 ≤ d || domState w d ≠ 1 || (d = 143 && Config.variantA && decide (fld w rD2D_CHIP_STATUS 0 2 < 2)) then w
  else
    let w := setDom d 2 false w
    let w := if isHartGroup d then
        forAll (groupHarts d) hartHeld w else w
    let w := pwEnd (fun r => r = ⟨1, d, 0⟩) pwOK w
    if w.pwr.offNext.contains d then
      stopDom d (updPwr (fun p => { p with offNext := p.offNext.filter (· ≠ d) }) w)
    else w

def execDomainStartupComplete (d : Nat) (s : State) := run (startupComplete d) s

/-- The cores of a core-group domain. -/
def groupCores (d : Nat) : List Nat := (List.range 4).map (fun k => 16 * (d / 4) + 4 * (d % 4) + k)

/-- R441's drain step is done. -/
def domDrained (w : World) (d : Nat) : Bool :=
  if d < 64 then (groupCores d).all (fun n => (coreOf w n).launch.isNone)
  else if 96 ≤ d && d < 108 then w.saf.cmds.isEmpty
  else if 108 ≤ d && d < 110 then w.cas.run.isNone && w.cas.pageIns.isEmpty
  else if isHartGroup d then (groupHarts d).all (fun h => (hartOf w h).run = .stopped)
  else true

/-- A hart writes every M line back, invalidates its lines and drops its reservation (R284 step 4, R283). -/
def hartFlush (h : Nat) (w : World) : World :=
  let w := forAll ((hartOf w h).mLines.map (·.1)) (fun l w => writeBack h l false w) w
  let w := updHart h (fun x => { x with sLines := [], resv := none }) w
  { w with harts := { w.harts with l1 := mdel w.harts.l1 h, code := mdel w.harts.code h } }

/-- What leaves with a domain's power. -/
def domLost (d : Nat) (w : World) : World :=
  if isHartGroup d then
    forAll (groupHarts d) (fun h w => updHart h (fun x => { x with run := .stopped }) (hartFlush h w)) w
  else if d = 142 then pcieLink false w
  else if d = 143 then
    closeLink 3 (fldSet (fldSet (fldSet (fldSet w (rD2D_LINK_STATUS 3) 0 2 0) (rD2D_LINK_STATUS 3) 16 8 0) rD2D_CHIP_STATUS 0 2 0)
      rD2D_CHIP_STATUS 4 4 0)
  else w

/-- DOMAIN_SHUTDOWN_COMPLETE: the domain is OFF, and starts again where an enable is latched. -/
def shutdownComplete (d : Nat) (w : World) : World :=
  let st := domState w d
  if 144 ≤ d || (st ≠ 3 && st ≠ 4) then w
  else if domDrained w d then
    let w := pwEnd (fun r => r = ⟨2, d, 0⟩) pwOK (domLost d w)
    if st = 3 then setDom d 0 false w else startDom d w
  else w

def execDomainShutdownComplete (d : Nat) (s : State) := run (shutdownComplete d) s

/-- HANDSHAKE_TIMEOUT: a hart group of which a hart has not acknowledged 100 µs after the request stays ON with its
harts stopped (R284). -/
def handshakeTimeout (d : Nat) (w : World) : World :=
  let st := domState w d
  if (st ≠ 3 && st ≠ 4) || !(isHartGroup d) || domDrained w d || w.now < mgetD w.pwr.since d 0 + 100000 then w
  else
    let w := forAll (groupHarts d) (fun h w => updHart h (fun x => { x with run := .stopped }) w) w
    pwEnd (fun r => r = ⟨1, d, 0⟩) pwOK (pwEnd (fun r => r = ⟨2, d, 0⟩) pwTimeout (setDom d 2 false w))

def execHandshakeTimeout (d : Nat) (s : State) := run (handshakeTimeout d) s

/-! ### Harts (R283, R456) -/

/-- A hart at the reset vector of the bundle's hart component: buffers lost, M lines written back by their homes. DESIGN
CHOICE: its registers of R263 and its Sstc comparator are at their reset values too. -/
def hartAtReset (h : Nat) (w : World) : World :=
  let w := setHart h { Hart.reset with pc := Config.resetVector w.boot.bundle } (hartFlush h w)
  { w with harts := { w.harts with
      csrs := mdel w.harts.csrs h, stimecmp := mdel w.harts.stimecmp h, vstimecmp := mdel w.harts.vstimecmp h
      htimedelta := mdel w.harts.htimedelta h } }

/-- HART_RESTART starts a stopped hart whose group is ON. -/
def hartRestart (h : Nat) (w : World) : World :=
  if 32 ≤ h || (hartOf w h).run ≠ .stopped || domState w (128 + h / 4) ≠ 2 || w.ras.retired.contains (0x0E0 + h) then
    pwResult pwBadArg w
  else pwResult pwOK (hartAtReset h w)

def execHartRestart (agent h : Nat) (s : State) := run (pwCmd agent 6 h (hartRestart h)) s

/-- HART_RESET: the commanded reset of one hart. -/
def hartReset (h : Nat) (w : World) : World :=
  if 32 ≤ h || domState w (128 + h / 4) ≠ 2 || w.ras.retired.contains (0x0E0 + h) then pwResult pwBadArg w
  else pwResult pwOK (hartAtReset h w)

def execHartReset (agent h : Nat) (s : State) := run (pwCmd agent 7 h (hartReset h)) s

/-! ### Operating points (R443, R444) -/

/-- Every unit has moved to the epoch of the last change. -/
def allMoved (w : World) : Bool := fld w rPWR_EPOCH 0 21 = 0x1FFFFF

/-- SET_OP or SET_FSP completes once every unit has moved. -/
def pwEpochCheck (w : World) : World := if allMoved w then pwEnd (fun r => r.op = 3 || r.op = 4) pwOK w else w

def opNow (w : World) (d : Nat) : Nat := fld w (rPWR_OP d) 0 16
def opTarget (w : World) (d : Nat) : Nat := fld w (rPWR_OP d) 16 16

def setDiePhase (d ph : Nat) (w : World) : World :=
  updPwr (fun p => { p with phase := if ph = 0 then mdel p.phase d else mset p.phase d ph }) w

/-- A die moves once all its clusters have: at once if the change does not concern it; else its PLL relocks, on the
way up after its voltage has risen. -/
def dieMove (d : Nat) (w : World) : World :=
  let ph := mgetD w.pwr.phase d 0
  if fld w rPWR_EPOCH (4 * d) 4 ≠ 15 || fld w rPWR_EPOCH (16 + d) 1 = 1 || (1 ≤ ph && ph ≤ 3) then w
  else if dieSettled w d then fldSet w rPWR_EPOCH (16 + d) 1 1
  else setDiePhase d (if opNow w d < opTarget w d then 1 else 2) w

/-- Is an engine command stamped earlier than an epoch still running (R313)? -/
def engineOlder (w : World) (e : Nat) : Bool :=
  w.fe.works.any (fun k => k.2.kind ≠ 1 && k.2.kind ≠ 0 && k.2.kind ≠ 5 && k.2.fin = none && epochOlder k.2.epoch e)

/-- The host tier's controllers move once no earlier engine command runs; a new set point holds the tier in
self-refresh first. -/
def hostMove (w : World) : World :=
  if fld w rPWR_EPOCH 20 1 = 1 || w.pwr.refresh || engineOlder w (fld w rPWR_EPOCH 32 32) then w
  else if w.pwr.fsp = w.pwr.fspNext then fldSet w rPWR_EPOCH 20 1 1
  else updPwr (fun p => { p with refresh := true }) w

/-- A cluster moves once its partition runs and holds no launch of an earlier stamp. -/
def clusterMove (c : Nat) (w : World) : World :=
  let e := fld w rPWR_EPOCH 32 32
  let held (p : Nat) : Bool := (match mget w.fe.launches p with
    | some l => epochOlder l.epoch e
    | none => false) || (savedOf w p).any (fun s => epochOlder s.launch.epoch e)
  if (List.range 16).any (fun p => (partClusters w p).contains c && held p) then w
  else dieMove (c / 4) (fldSet w rPWR_EPOCH c 1 1)

/-- EPOCH_MOVE: cluster 0-15, or 16 for the host tier. -/
def epochMove (u : Nat) (w : World) : World :=
  if u < 16 then pwEpochCheck (clusterMove u w) else if u = 16 then pwEpochCheck (hostMove w) else w

def execEpochMove (u : Nat) (s : State) := run (epochMove u) s

/-- Commits an epoch-governed change (R313): FE_EPOCH rises by 1, and no unit has moved but clusters in no partition. -/
def commitEpoch (w : World) : World :=
  let e := (fld w rFE_EPOCH 0 32 + 1) % 2 ^ 32
  let w := rgSet (fldSet w rFE_EPOCH 0 32 e) rPWR_EPOCH (e * 2 ^ 32)
  let w := forAll (List.range 16) (fun c w => if clusterUsed w c then w else fldSet w rPWR_EPOCH c 1 1) w
  pwEpochCheck (hostMove (forAll [0, 1, 2, 3] dieMove w))

def opLegal (mhz : Nat) : Bool := decide (800 ≤ mhz) && decide (mhz ≤ 1950) && mhz % 25 = 0

/-- SET_OP: a new operating point for the dies of a mask. One that changes nothing commits nothing. -/
def setOp (mask mhz : Nat) (w : World) : World :=
  if mask = 0 || 16 ≤ mask || !(opLegal mhz) then pwResult pwBadArg w
  else if (bitList mask 4).all (fun d => opTarget w d = mhz) then pwResult pwOK w
  else commitEpoch (pwBegin ⟨3, mask, mhz⟩ (forAll (bitList mask 4) (fun d w => fldSet w (rPWR_OP d) 16 16 mhz) w))

def execSetOp (agent mask mhz : Nat) (s : State) := run (pwCmd agent 3 mask (setOp mask mhz)) s

/-- SET_FSP: a new frequency set point of the host tier. -/
def setFsp (point : Nat) (w : World) : World :=
  if 3 ≤ point then pwResult pwBadArg w
  else if w.pwr.fspNext = point then pwResult pwOK w
  else commitEpoch (pwBegin ⟨4, 0, point⟩ (updPwr (fun p => { p with fspNext := point }) w))

def execSetFsp (agent point : Nat) (s : State) := run (pwCmd agent 4 0 (setFsp point)) s

/-- PLL_RELOCK_COMPLETE: the die runs at its new frequency and has moved; on the way down its voltage now falls. -/
def pllRelock (d : Nat) (w : World) : World :=
  let ph := mgetD w.pwr.phase d 0
  if 4 ≤ d || (ph ≠ 2 && ph ≠ 3) then w
  else
    let w := fldSet (setDiePhase d (if ph = 2 then 4 else 0) w) (rPWR_OP d) 0 16 (opTarget w d)
    pwEpochCheck (fldSet w rPWR_EPOCH (16 + d) 1 1)

def execPllRelockComplete (d : Nat) (s : State) := run (pllRelock d) s

/-- VOLTAGE_RAMP_COMPLETE: the die's voltage is that of its V(f) point: on the way up the one committed, and its PLL now
relocks; on the way down the one in effect. -/
def voltageRamp (d : Nat) (w : World) : World :=
  let ph := mgetD w.pwr.phase d 0
  if 4 ≤ d || (ph ≠ 1 && ph ≠ 4) then w
  else fldSet (setDiePhase d (if ph = 1 then 3 else 0) w) (rPWR_OP d) 48 16 (Config.vf d (if ph = 1 then opTarget w d else opNow w d))

def execVoltageRampComplete (d : Nat) (s : State) := run (voltageRamp d) s

/-- SELF_REFRESH_EXIT: the host tier runs at its new set point and has moved. -/
def selfRefreshExit (w : World) : World :=
  if w.pwr.refresh then
    pwEpochCheck (fldSet (updPwr (fun p => { p with refresh := false, fsp := p.fspNext }) w) rPWR_EPOCH 20 1 1)
  else w

def execSelfRefreshExit (s : State) := run selfRefreshExit s

/-! ### Throttling and trips (R260, R438, R439) -/

/-- The level a reading gives under R260's enter and leave rule: `scale` is the size of a threshold's unit. -/
def enterLevel (cfg scale old v : Nat) : Nat :=
  let hyst := bits cfg (if scale = 1 then 32 else 24) 8
  let inn (n : Nat) : Bool :=
    let t := bits cfg (8 * (n - 1)) 8
    t ≠ 255 && (decide (scale * t ≤ v) || (decide (n ≤ old) && decide (scale * t ≤ v + scale * hyst)))
  if inn 3 then 3 else if inn 2 then 2 else if inn 1 then 1 else 0

/-- A die's level from its three stacks. -/
def hbmLevel (w : World) (d : Nat) : Nat :=
  max (fld w (rMEM_THERM_STACK (3 * d)) 8 2)
    (max (fld w (rMEM_THERM_STACK (3 * d + 1)) 8 2) (fld w (rMEM_THERM_STACK (3 * d + 2)) 8 2))

/-- A die's effective level is the highest of its three triggers'. -/
def effLevel (w : World) (d : Nat) : Nat := max (mgetD w.pwr.tjLevel d 0) (max w.pwr.curLevel (hbmLevel w d))

/-- PWR_THROT of a die follows its triggers, and a change of its effective level from `old` sends a message with the
cause. -/
def throttled (cause d old : Nat) (w : World) : World :=
  let e := effLevel w d
  let causes := b2n (mgetD w.pwr.tjLevel d 0 ≠ 0) + 2 * b2n (w.pwr.curLevel ≠ 0) + 4 * b2n (hbmLevel w d ≠ 0)
  let w := fldSet (fldSet w (rPWR_THROT d) 0 2 e) (rPWR_THROT d) 8 3 causes
  if e = old then w
  else platformEvent [1, d, e] (sendMsg 0x0A8 devCtx stOK (cause * 2 ^ 56 + d * 256 + e) w)

/-- THERMAL_READ: a stack's temperature (R260). -/
def thermalRead (s temp : Nat) (w : World) : World :=
  if 12 ≤ s || !w.pins.pwrgd then w
  else
    let d := s / 3
    let was := hbmLevel w d
    let eff := effLevel w d
    let level := enterLevel (rg w rMEM_THERM_CFG) 1 (fld w (rMEM_THERM_STACK s) 8 2) temp
    let w := rgSet w (rMEM_THERM_STACK s) (level * 256 + temp % 256)
    let w := if hbmLevel w d = was then w else sendMsg (0x030 + s) devCtx stOK (d * 256 + hbmLevel w d) w
    let w := throttled 3 d eff w
    if fld w rPWR_TRIP 8 8 < temp then trip 2 (0x10 + s) w else w

def execThermalRead (stack temp : Nat) (s : State) := run (thermalRead stack temp) s

/-- One die's junction reading. -/
def junctionRead (d temp : Nat) (w : World) : World :=
  let eff := effLevel w d
  let level := enterLevel (rg w rPWR_CEIL_TJ) 1 (mgetD w.pwr.tjLevel d 0) temp
  let w := fldSet (updPwr (fun p => { p with tjLevel := mset p.tjLevel d level }) w) (rPWR_THROT d) 16 8 temp
  throttled 1 d eff w

/-- The rail's reading, in A and mV. -/
def railRead (amps mv : Nat) (w : World) : World :=
  let effs := [0, 1, 2, 3].map (effLevel w)
  let level := enterLevel (rg w rPWR_CEIL_CUR) 8 w.pwr.curLevel amps
  let w := fldSet (fldSet (updPwr (fun p => { p with curLevel := level }) w) rPWR_RAIL 0 16 amps) rPWR_RAIL 32 16 mv
  forAll [0, 1, 2, 3] (fun d w => throttled 2 d (nth effs d 0) w) w

/-- The dies whose junction is above the trip point. -/
def hotDies (w : World) (temps : List Nat) : List Nat :=
  [0, 1, 2, 3].filter (fun d => decide (fld w rPWR_TRIP 0 8 < nth temps d 0))

/-- PCU_SAMPLE: the junction temperatures of the four dies, the rail's current and voltage, and the MCLK cycles gated
since the last sample. -/
def pcuSample (temps : List Nat) (amps mv gated : Nat) (w : World) : World :=
  if !w.pins.pwrgd then w
  else
    let w := bump w rPWR_THROT_CYCLES gated
    let w := railRead amps mv (forAll [0, 1, 2, 3] (fun d w => junctionRead d (nth temps d 0) w) w)
    match hotDies w temps with
    | d :: _ => trip 1 d w
    | [] => w

def execPcuSample (temps : List Nat) (amps mv gated : Nat) (s : State) := run (pcuSample temps amps mv gated) s

end Sys2Proof.Machine
end

