-- ==== Sys2Proof/Machine/Image.lean ====
section
/-!
DEFINITION. The Llynmon image (R450, R451): its sections, its checks, and what it sets when it is applied (R454).
-/
namespace Sys2Proof.Machine

/-! ### Sections (R450) -/

/-- A section: its code, its number of entries, its body. -/
structure Section where
  code : Nat
  n    : Nat
  body : List Byte
  deriving DecidableEq, Repr

/-- Bytes of an entry of a section. -/
def entrySize (code : Nat) : Nat := nth [0, 48, 32, 16, 16, 4, 8, 4, 16] code 0

/-- The sections of a body, and whether they fill it as their headers say. -/
def sections : Nat → List Byte → List Section × Bool
  | 0, bs => ([], bs.isEmpty)
  | n + 1, bs =>
    let len := le bs 4 4
    let s : Section := ⟨le bs 0 1, le bs 2 2, (bs.drop 8).take len⟩
    if bs.length < 8 then ([], false)
    else if bs.length < 8 + len then ([s], false)
    else
      let r := sections n (bs.drop (8 + len))
      (s :: r.1, r.2 && len = s.n * entrySize s.code)

/-- The sections of an image. -/
def imgSections (img : List Byte) : List Section × Bool :=
  sections (le img 2 2) ((img.take (img.length - 104)).drop 64)

/-- The entries of the image's section of one code, in order. -/
def imgEntries (img : List Byte) (code : Nat) : List (List Byte) :=
  match (imgSections img).1.find? (·.code = code) with
  | some s => (List.range s.n).map (fun i => (s.body.drop (i * entrySize code)).take (entrySize code))
  | none => []

/-- The first entry of a section. -/
def imgEntry (img : List Byte) (code : Nat) : List Byte := (imgEntries img code).headD []

def imgParts (img : List Byte) : List (List Byte) := imgEntries img 1

/-! Fields of a PARTITION entry. -/

def ipNum (e : List Byte) : Nat := le e 0 1
def ipSlots (e : List Byte) : Nat := le e 1 1
def ipClusters (e : List Byte) : Nat := le e 2 2
def ipHbm (e : List Byte) : Nat := le e 4 4
def ipHost (e : List Byte) : Nat := le e 8 4
def ipHot (e : List Byte) : Nat := le e 12 4
def ipCasSlots (e : List Byte) : Nat := le e 16 4
def ipCasPages (e : List Byte) : Nat := le e 20 4
/-- Rate and burst of bucket 0 HBM, 1 HOST, 2 NET. -/
def ipRate (e : List Byte) (b : Nat) : Nat := le e (24 + 4 * b) 2
def ipBurst (e : List Byte) (b : Nat) : Nat := le e (26 + 4 * b) 2

/-! Fields of the other sections. -/

def imInterleave (img : List Byte) : Nat := le (imgEntry img 2) 0 1
def imTable (img : List Byte) : Nat := le (imgEntry img 2) 4 4
def imNet (img : List Byte) : Nat := le (imgEntry img 2) 8 4
def imOffload (img : List Byte) : Nat := le (imgEntry img 2) 12 4
def imNodes (img : List Byte) : Nat := le (imgEntry img 2) 16 4
def imNode (img : List Byte) : Nat := le (imgEntry img 3) 0 4
def imRoles (img : List Byte) : Nat := le (imgEntry img 3) 4 5
def imRole (img : List Byte) (p : Nat) : Nat := bits (imRoles img) (2 * p) 2
def imPfc (img : List Byte) : Nat := le (imgEntry img 3) 9 3
def imSource (img : List Byte) : Nat := le (imgEntry img 4) 0 1
def imPtpPort (img : List Byte) : Nat := le (imgEntry img 4) 1 1
def imPtpDomain (img : List Byte) : Nat := le (imgEntry img 4) 2 1
def imLpf (img : List Byte) : Nat := le (imgEntry img 4) 4 2
def imDen (img : List Byte) : Nat := le (imgEntry img 4) 8 2
def imNum (img : List Byte) : Nat := le (imgEntry img 4) 10 3
def imArmed (img : List Byte) : Nat := le (imgEntry img 5) 0 1 % 16
def imPrograms (img : List Byte) : Nat := le (imgEntry img 5) 1 1 % 2
def imShards (img : List Byte) : Nat := le (imgEntry img 6) 0 2
def imShardKib (img : List Byte) : Nat := le (imgEntry img 6) 4 4
def imSpares (img : List Byte) : Nat := le (imgEntry img 7) 0 2
def imHolder (img : List Byte) : Nat := le (imgEntry img 8) 0 1
def imFallback (img : List Byte) : Nat := le (imgEntry img 8) 1 1
def imMhz (img : List Byte) (d : Nat) : Nat := le (imgEntry img 8) (2 + 2 * d) 2

/-! ### Repair state the image meets (R19, R463 to R467) -/

/-- The number the cluster's spare takes under a SPARES mask: that of the core a fuse has replaced, else the lowest
retired one, if the image allows it. -/
def adoption (w : World) (spares c : Nat) : Option Nat :=
  if bit (retiredMask w c) 16 then none
  else match Config.fusedCore c with
    | some k => some k
    | none => if bit spares c then (List.range 16).find? (fun k => bit (retiredMask w c) k) else none

/-- Cores of a cluster that serve under a SPARES mask. -/
def clusterCores (w : World) (spares c : Nat) : Nat :=
  ((List.range 16).filter (fun k => !(bit (retiredMask w c) k) || adoption w spares c = some k)).length

/-- Cores a partition has at image load. -/
def loadCores (w : World) (img e : List Byte) : Nat :=
  ((bitList (ipClusters e) 16).map (clusterCores w (imSpares img))).sum

/-- 2 MiB frames of a partition's save area (R356). -/
def saveFrames (w : World) (img e : List Byte) : Nat := (ipSlots e * loadCores w img e * 1769472 + 2 ^ 21 - 1) / 2 ^ 21

/-! ### Checks (R451) -/

/-- The image names a function the module lacks (R4, R465). -/
def imgAbsent (w : World) (img : List Byte) : Bool :=
  (imSource img = 3 && !Config.variantA) ||
  (imArmed img + imPrograms img ≠ 0 && (List.range 12).any (fun u => !(unitServes w (0x050 + u)))) ||
  ((imgParts img).any (fun e => ipCasSlots e ≠ 0) && !(unitServes w 0x060 && unitServes w 0x061)) ||
  (List.range 20).any (fun p => imRole img p ≠ 0 && !(unitServes w (portUnit p)))

/-- FTB values outside R368, and a PTP port that is not a DATA port (R395). -/
def ftbBad (img : List Byte) : Bool :=
  decide (3 < imSource img) ||
  (imSource img ≠ 0 && (imNum img = 0 || decide (2 ^ 20 ≤ imNum img) || imDen img = 0 || decide (imNum img < imDen img) ||
    decide (240 * imDen img < imNum img) || imLpf img = 0)) ||
  (imSource img = 2 && (decide (20 ≤ imPtpPort img) || decide (128 ≤ imPtpDomain img) || imRole img (imPtpPort img) ≠ 1))

/-- A PARTITION entry that is inconsistent in itself. -/
def partBad (e : List Byte) : Bool :=
  decide (16 ≤ ipNum e) || ipClusters e = 0 || decide (ipHbm e < ipHot e) ||
  (List.range 3).any (fun b => ipRate e b ≠ 0 && ipBurst e b = 0)

/-- Two entries share a number or a cluster. -/
def partsClash : List (List Byte) → Bool
  | [] => false
  | e :: t => t.any (fun f => ipNum e = ipNum f || (ipClusters e &&& ipClusters f) ≠ 0) || partsClash t

/-- The host tier's capacity in bytes (R2). -/
def hostBytes : Nat := if Config.variantA then 2 ^ 40 else 2 ^ 39

/-- The image asks for more memory than there is. -/
def memoryShort (w : World) (img : List Byte) : Bool :=
  let ps := imgParts img
  let hbm := (imTable img + imNet img + (ps.map (fun e => ipHbm e + saveFrames w img e)).sum) * 2 ^ 21
  let host := ((ps.map ipHost).sum + imOffload img) * 2 ^ 21 + imShards img * 2 * imShardKib img * 1024
  decide (576 * 2 ^ 30 - 65536 * (retiredPages w).length < hbm) || decide (hostBytes < host)

/-- Every inconsistency of the image (R451's list, R368, R395, R399, R411). -/
def imgInconsistent (w : World) (img : List Byte) (len : Nat) : Bool :=
  let ps := imgParts img
  let one (code : Nat) : Bool := (imgEntries img code).length = 1
  let codes := (imgSections img).1.map (·.code)
  !(imgSections img).2 || le img 4 4 ≠ len || decide (2 ^ 20 < len) || le img 20 2 ≠ 0x0E01 ||
  decide (fld w rGLB_BOOT_STATUS 32 32 < le img 16 4) ||
  codes ≠ codes.eraseDups || !([2, 3, 4, 5, 7, 8].all one) || decide (1 < (imgEntries img 6).length) ||
  ps.isEmpty || decide (16 < ps.length) || ps.any partBad || partsClash ps || memoryShort w img ||
  decide (65536 < (ps.map ipCasSlots).sum) || decide (32 * imOffload img < (ps.map ipCasPages).sum) ||
  decide (1 < imInterleave img) || decide (2 ^ 16 ≤ imNodes img) || decide (2 ^ 18 ≤ imNode img) ||
  (List.range 20).any (fun p => imRole img p = 3 || (imRole img p = 2 && p ≠ 15)) ||
  (imRole img 15 = 2 && !(one 6)) || decide (4096 < imShards img) || ftbBad img ||
  decide (1 < imHolder img) || decide (1 < imFallback img) || [0, 1, 2, 3].any (fun d => !(opLegal (imMhz img d)))

/-- The reason an image is rejected for, 0 if it passes every check. -/
def imgReason (w : World) (img : List Byte) : Nat :=
  if !(Config.signed 1 img) then 1
  else if le img 0 1 ≠ 1 || (imgSections img).1.any (fun s => s.code = 0 || 8 < s.code) then 2
  else if imgAbsent w img then 3
  else if imgInconsistent w img img.length then 4
  else 0

/-! ### Applying (R454) -/

/-- The spares enter service where the image allows it. -/
def applySpares (img : List Byte) (w : World) : World :=
  forAll (List.range 16) (fun c w =>
    let w := fldSet w (rRAS_CLUSTER c) 18 1 (bits (imSpares img) c 1)
    match adoption w (imSpares img) c with
    | some k => { w with ras := { w.ras with adopted := mset w.ras.adopted c k } }
    | none => { w with ras := { w.ras with adopted := mdel w.ras.adopted c } }) w

/-- A pool of 2 MiB frames at a frame number, without its retired pages. -/
def mkPool (w : World) (hbm : Bool) (base frames : Nat) : Pool :=
  let first := base / 65536
  let bad := if hbm then ((retiredPages w).filter (fun p => first ≤ p && p < first + 32 * frames)).map (· - first) else []
  let bad := bad.foldl sIns []
  { base := base, total := 32 * frames, used := bad, bad := bad }

def hostBase : Nat := 0x1000000000000

/-- One partition: its registers, save area and pools; `at` holds the next free HBM frame, host-tier frame and page of
the off-load carve-out. DESIGN CHOICE: carve-outs and pools lie one after the other from the lowest address. -/
def applyPartition (img : List Byte) (e : List Byte) (a : (Nat × Nat × Nat) × World) : (Nat × Nat × Nat) × World :=
  let (hbm, host, off) := a.1
  let w := a.2
  let p := ipNum e
  let save := saveFrames w img e
  let w := rgSet w (rSCHED_PART_CFG p) (loadCores w img e * 2 ^ 32 + ipClusters e)
  let w := rgSet w (rSCHED_SAVE p) (hbm * 2 ^ 21 + ipSlots e)
  let w := rgSet w (rSCHED_REG_HBM p) (ipBurst e 0 * 2 ^ 32 + ipRate e 0)
  let w := rgSet w (rSCHED_REG_HOST p) (ipBurst e 1 * 2 ^ 32 + ipRate e 1)
  let w := rgSet w (rSCHED_REG_NET p) (ipBurst e 2 * 2 ^ 32 + ipRate e 2)
  let w := rgSet w (rMEM_HOT p) (32 * ipHot e * 2 ^ 32)
  let w := rgSet w (rCAS_PART_CFG p) (ipCasPages e * 2 ^ 17 + ipCasSlots e)
  let w := { w with
    mem := { w.mem with
      hbmPools := mset w.mem.hbmPools p (mkPool w true ((hbm + save) * 2 ^ 21) (ipHbm e))
      hostPools := mset w.mem.hostPools p (mkPool w false (hostBase + host * 2 ^ 21) (ipHost e)) }
    sched := { w.sched with
      rates := [0, 1, 2].foldl (fun m b => mset m (16 * b + p) (ipRate e b)) w.sched.rates }
    cas := { w.cas with
      pools := mset w.cas.pools p { base := hostBase + off * 65536, total := ipCasPages e, used := [], bad := [] } } }
  ((hbm + save + ipHbm e, host + ipHost e, off + ipCasPages e), w)

/-- FTB_CFG and FTB_RATE; parameters the source does not use read 0 (R368). -/
def applyFtb (img : List Byte) (w : World) : World :=
  let s := imSource img
  let rated := s ≠ 0
  let ptp := s = 2
  let w := rgSet w rFTB_CFG ((if rated then imLpf img * 2 ^ 48 else 0) +
    (if ptp then imPtpDomain img * 2 ^ 33 + imPtpPort img * 2 ^ 28 else 0) + s)
  rgSet w rFTB_RATE (if rated then imNum img * 2 ^ 32 + imDen img else 0)

/-- A port's lanes out of service since boot (R465): the spare stands in for the lowest of them. -/
def applyLanes (p : Nat) (w : World) : World :=
  let m := mgetD w.ras.lanes p 0
  let first := (List.range 8).find? (bit m)
  let spare := if p < 16 && !(bit m 8) then first.getD 15 else 15
  let left := (List.range 8).filter (fun l => bit m l && l ≠ spare)
  let w := fldSet (fldSet w (rNET_PORT_STATUS p) 16 9 m) (rNET_PORT_STATUS p) 12 4 spare
  fldSet w (rNET_PORT_STATUS p) 1 1 (b2n (decide (p < 16) && !left.isEmpty))

/-- Domains of R440's last column go OFF where their condition holds, every other ON; a hart group that was OFF or STARTING
holds its harts at the reset vector. DESIGN CHOICE: a DOMAIN_ON or DOMAIN_OFF that still runs then completes with OK if its
domain is in the state it asks for, else with ABORTED. -/
def applyDomains (w : World) : World :=
  let w := forAll (List.range 144) (fun d w =>
    let old := domState w d
    let off := domUnused w d
    let w := fldSet (if off && old ≠ 0 then domLost d w else w) (rPWR_DOM d) 0 4 (if off then 0 else 2)
    if isHartGroup d && old ≤ 1 then forAll (groupHarts d) hartHeld w
    else w) (updPwr (fun p => { p with offNext := [], since := [] }) w)
  forAll (w.pwr.runs.filter (fun r => r.op = 1 || r.op = 2)) (fun r w =>
    pwEnd (fun x => x = r) (if domState w r.target = (if r.op = 1 then 2 else 0) then pwOK else pwAborted) w) w

/-- The image takes effect, and state becomes CONFIGURED. -/
def applyImage (img : List Byte) (w : World) : World :=
  let w := fldSet w rMEM_MODE 0 1 (imInterleave img)
  let w := rasRefresh (applySpares img w)
  let off := 32 * ((imgParts img).map ipHost).sum
  let w := ((imgParts img).foldl (fun a e => applyPartition img e a) ((imTable img + imNet img, 0, off), w)).2
  let w := fldSet w rFE_CAP 32 16 (imNodes img)
  let w := { w with mem := { w.mem with tableRoom := imTable img * 2 ^ 21 } }
  let w := rgSet w rNET_CFG (imNode img * 2 ^ 32)
  let w := rgSet w rNET_ROLE (imRoles img)
  let w := { w with net := { w.net with lines := imNet img * 2 ^ 22, pfc := imPfc img % 2 ^ 20 } }
  let w := forAll (List.range 20) applyLanes w
  let w := rgSet w rNET_TWIN_CFG (imShards img * 2 ^ 48 + imShardKib img)
  let w := rgSet w rSAF_CFG (16 * imPrograms img + imArmed img)
  let w := updPwr (fun p => { p with fallback := imFallback img = 1 }) (setHolder (imHolder img) w)
  let w := forAll [0, 1, 2, 3] (fun d w =>
    rgSet w (rPWR_OP d) (Config.vf d (imMhz img d) * 2 ^ 48 + imMhz img d * 2 ^ 16 + imMhz img d)) w
  let w := applyDomains (applyFtb img w)
  treeChange (ftbStart (fldSet w rGLB_LLYN_STATUS 0 4 2))

/-- An image is unloaded: its session ends, every cluster is in no partition and so moves, and the tree changes. -/
def unloadImage (w : World) : World :=
  let w := endSession (ftbStop w)
  let w := forAll (List.range 16) (fun c w => fldSet w rPWR_EPOCH c 1 1) w
  treeChange (pwEpochCheck (hostMove (forAll [0, 1, 2, 3] dieMove w)))

end Sys2Proof.Machine
end

