-- ==== Sys2Proof/Machine/Ports.lean ====
section
/-!
DEFINITION. Ethernet ports (R394 to R401): lanes, links, frame rings and the node table.
-/
namespace Sys2Proof.Machine

/-! ### Lanes and links (R397, R398) -/

def isOptical (p : Nat) : Bool := p < 16

/-- Bits of lane_fail that are set. -/
def failedLanes (w : World) (p : Nat) : Nat := fld w (rNET_PORT_STATUS p) 16 9
def spareUsed (w : World) (p : Nat) : Nat := fld w (rNET_PORT_STATUS p) 12 4
/-- Lanes that have failed, with one whose substitution ends when the port resumes (R397 step 3), and the lane that the spare
replaces, or is to replace. -/
def lanesOut (w : World) (p : Nat) : Nat := match mget w.net.subs p with
  | some l => setBits (failedLanes w p) l 1 1
  | none => failedLanes w p
def spareFor (w : World) (p : Nat) : Nat := (mget w.net.subs p).getD (spareUsed w p)
def portDegraded (w : World) (p : Nat) : Bool := fld w (rNET_PORT_STATUS p) 1 1 = 1

/-- Lanes that have not failed, rising. -/
def workingLanes (w : World) (p : Nat) : List Nat :=
  (List.range (if isOptical p then 9 else 4)).filter (fun l => !(bit (lanesOut w p) l))

/-- Lanes that carry the link, or would. -/
def linkLanes (w : World) (p : Nat) : List Nat :=
  if !(isOptical p) then [0, 1, 2, 3]
  else if portDegraded w p then (workingLanes w p).take 4
  else ((List.range 8).filter (· ≠ spareFor w p)) ++ (if spareFor w p < 8 then [8] else [])

/-- The message of a port's event, with its failed lanes. -/
def portMsg (p event : Nat) (w : World) : World :=
  sendMsg (portUnit p) devCtx stOK (event * 2 ^ 56 + lanesOut w p) w

/-- The link goes down: its status says so, and a message is sent if it was up. -/
def linkDown (p : Nat) (w : World) : World :=
  if portUp w p then
    let w := fldSet w (rNET_PORT_STATUS p) 0 1 0
    let w := fldSet w (rNET_PORT_STATUS p) 2 2 0
    portMsg p 2 (fldSet w (rNET_PORT_STATUS p) 8 4 0)
  else w

/-- The lanes a link needs all work, and an optical port's laser source gives light (R497). -/
def linkTrains (w : World) (p : Nat) : Bool :=
  let ls := linkLanes w p
  !(isOptical p && w.pins.dark.contains (p / 4)) && decide (4 ≤ ls.length) && ls.all (fun l => !(bit (lanesOut w p) l))

/-- A port that resumes with its spare says so in its status (R397 step 3). -/
def endSub (p : Nat) (w : World) : World := match mget w.net.subs p with
  | some l =>
    let w := fldSet (fldSet w (rNET_PORT_STATUS p) (16 + l) 1 1) (rNET_PORT_STATUS p) 12 4 l
    updNet (fun n => { n with subs := mdel n.subs p }) w
  | none => w

/-- LINK_UP: the port trains with its partner, on the lanes it has. -/
def linkUp (p : Nat) (w : World) : World :=
  if 20 ≤ p || !(configured w) || portRole w p = 0 || portUp w p || !(linkTrains w p) then w
  else
    let full := isOptical p && !(portDegraded w p)
    let w := endSub p w
    let w := fldSet w (rNET_PORT_STATUS p) 0 1 1
    let w := fldSet w (rNET_PORT_STATUS p) 2 2 (if full then 2 else 1)
    portMsg p 1 (fldSet w (rNET_PORT_STATUS p) 8 4 (if full then 8 else 4))

def execLinkUp (p : Nat) (s : State) := run (linkUp p) s

def execLinkDown (p : Nat) (s : State) := run (fun w => if p < 20 && configured w then linkDown p w else w) s

/-- The lane log (R473): a failed lane is reported by its port. -/
def laneLog (p l : Nat) (w : World) : World := rasLog kindLane 0 (portUnit p) none false l (bump w rRAS_CE_COUNT 1)

/-- LANE_FAILURE: an optical port puts its spare in place of the lane, or runs degraded, or goes down; an electrical
port goes down. Retraining takes the link down until it comes up again, when a substitution shows in the status. -/
def laneFailure (p l : Nat) (w : World) : World :=
  if 20 ≤ p || (if isOptical p then 9 else 4) ≤ l || !(configured w) || portRole w p = 0 || bit (lanesOut w p) l then w
  else
    let carries := (linkLanes w p).contains l
    let free := isOptical p && !(portDegraded w p) && spareFor w p = 15 && !(bit (lanesOut w p) 8)
    let was := portDegraded w p
    if carries && free then
      linkDown p (portMsg p 3 (bump (updNet (fun n => { n with subs := mset n.subs p l }) (laneLog p l w)) rNET_LANE_SUB 1))
    else
    let w := laneLog p l (fldSet w (rNET_PORT_STATUS p) (16 + l) 1 1)
    if !carries then w
    else if !(isOptical p) || (workingLanes w p).length < 4 then linkDown p w
    else if was then linkDown p w
    else linkDown p (portMsg p 4 (fldSet w (rNET_PORT_STATUS p) 1 1 1))

def execLaneFailure (port lane : Nat) (s : State) := run (laneFailure port lane) s

/-! ### Frame rings (R401) -/

/-- The first register of a port's receive or transmit ring. -/
def frReg (tx : Bool) (p : Nat) : Nat := if tx then rNET_FR_TX_BASE p else rNET_FR_RX_BASE p

def frOn (w : World) (r : Nat) : Bool := fld w (r + 8) 0 1 = 1
def frSize (w : World) (r : Nat) : Nat := 2 ^ fld w (r + 8) 8 4
def frBase (w : World) (r : Nat) : Nat := rg w r / 4096 * 4096
/-- The address of entry number `t`. -/
def frEntry (w : World) (r t : Nat) : Nat := frBase w r + 64 + 16384 * (t % frSize w r)

/-- The whole ring lies in HBM or in the host tier. -/
def frPlaced (w : World) (r : Nat) : Bool :=
  let b := frBase w r
  let e := b + 64 + 16384 * frSize w r - 1
  (inHbm b && inHbm e) || (inHost b && inHost e)

/-- A write of a frame ring's CFG behaves as that of a control-complex ring (R291): checks in the order 3, 2, 1. -/
def frCfgWrite (r v : Nat) (w : World) : World :=
  let store (w : World) : World := rgSet w (r + 8) ((v &&& 0xF00) + fld w (r + 8) 2 2 * 4)
  if !(bit v 0) then (if frOn w r then fldSet w (r + 8) 0 1 0 else store w)
  else if frOn w r then w
  else
    let w := store w
    let lg := fld w (r + 8) 8 4
    let e := if lg < 6 then 3 else if !(frPlaced w r) then 2
      else if (devRead byNetwork (frBase w r) 1 w).1.headD 0 ≠ 1 then 1 else 0
    let w := fldSet w (r + 8) 2 2 e
    if e ≠ 0 then w
    else fldSet (rgSet (rgSet (devWrite byNetwork (frBase w r + 8) (natLe 0 8) w) (r + 0x10) 0) (r + 0x18) 0) (r + 8) 0 1 1

/-- A write of a frame ring's head: dropped above tail, or with more than the ring's size outstanding. -/
def frHeadWrite (r v : Nat) (w : World) : World :=
  let t := rg w (r + 0x18)
  if t < v || frSize w r < t - v then w else rgSet w (r + 0x10) v

/-- RECEIVE_FRAME: a frame (without its FCS) that the device does not handle itself goes to the port's receive ring,
with a message; a full ring drops it. -/
def receiveFrame (p : Nat) (data : List Byte) (w : World) : World :=
  if 20 ≤ p || !(configured w) || portRole w p ≠ 1 || !(portUp w p) || 9216 < data.length then w
  else
    let w := bump w (rDBG_PORT_RX p) (data.length + 4)
    let r := frReg false p
    if !(frOn w r) then w
    else
      let t := rg w (r + 0x18)
      if frSize w r ≤ t - rg w (r + 0x10) then bump w rNET_FR_DROP 1
      else
        let a := frEntry w r t
        let w := devWrite byNetwork (a + 64) data (devWrite byNetwork a (natLe data.length 2) w)
        let w := devWrite byNetwork (frBase w r + 8) (natLe (t + 1) 8) (rgSet w (r + 0x18) (t + 1))
        sendMsg (portUnit p) devCtx stOK 0 w

def execReceiveFrame (port : Nat) (data : List Byte) (s : State) := run (receiveFrame port data) s

/-- Poison consumed by a port (R471, R473). -/
def portPoison (p : Nat) (ctx : Option Nat) (pa : Nat) (w : World) : World :=
  rasLog (if inHbm pa then kindHbm else kindLpddr) 2 (portUnit p) ctx false pa (bump w rRAS_POISON_CONSUMED 1)

/-- TRANSMIT_FRAME: the next frame of the port's transmit ring, whose header the stack's tail is read from, is sent
unchanged; a poisoned one is not sent (R471). -/
def transmitFrame (p : Nat) (w : World) : World :=
  let r := frReg true p
  if 20 ≤ p || !(configured w) || portRole w p ≠ 1 || !(portUp w p) || !(frOn w r) then w
  else
    let t := devRead byNetwork (frBase w r + 8) 8 w
    let h := rg w (r + 0x10)
    let tail := leNat t.1
    if tail ≤ h || frSize w r < tail - h then w
    else
      let a := frEntry w r h
      let w := rgSet (rgSet t.2 (r + 0x18) tail) (r + 0x10) (h + 1)
      let n := devRead byNetwork a 2 w
      let len := leNat n.1
      if 9216 < len then n.2
      else
        let d := devRead byNetwork (a + 64) len n.2
        if poisoned d.2 a (64 + len) then portPoison p none a d.2
        else emit .frame [p] d.1 (bump d.2 (rDBG_PORT_TX p) (len + 4))

def execTransmitFrame (port : Nat) (s : State) := run (transmitFrame port) s

/-! ### The node table (R400) -/

/-- NODE_TABLE_ENABLE: a write of NET_NODETAB with enable = 1; the header must lie in HBM or the host tier, be of version
1 and count 1 to 262,144 entries. A table already enabled is unchanged. -/
def nodeTableEnable (v : Nat) (w : World) : World :=
  if !(configured w) || fld w rNET_NODETAB 0 1 = 1 then w
  else
    let w := fldSet w rNET_NODETAB 6 46 (bits v 6 46)
    let b := nodeTable w
    let h := (devRead byNetwork b 64 w).1
    let count := leNat ((h.drop 4).take 4)
    let e := if !(inHbm b || inHost b) then 3
      else if h.headD 0 ≠ 1 then 1
      else if count = 0 || 262144 < count then 2
      else if !((inHbm b && inHbm (b + 63 + 16 * count)) || (inHost b && inHost (b + 63 + 16 * count))) then 3 else 0
    let w := fldSet w rNET_NODETAB 2 2 e
    if e = 0 then fldSet w rNET_NODETAB 0 1 1 else w

def execNodeTableEnable (v : Nat) (s : State) := run (nodeTableEnable v) s

end Sys2Proof.Machine
end

