-- ==== Sys2Proof/Machine/Rdma.lean ====
section
/-!
DEFINITION. RoCEv2 (R402 to R404, R407 to R409): connections, regions, inbound requests and reduce-on-receive. A
packet leaves with the numbers its headers carry; the spec gives no layout for a reduce rank.
-/
namespace Sys2Proof.Machine

/-! ### Connections (R402, R403) -/

/-- The twin pair's internal connection. -/
def twinConn : Nat := 16384

def connOf (w : World) (i : Nat) : Option Conn := mget w.net.conns i

def setConn (i : Nat) (c : Conn) (w : World) : World := updNet (fun n => { n with conns := mset n.conns i c }) w

def updConn (i : Nat) (f : Conn → Conn) (w : World) : World := updNet (fun n => { n with conns := mupd n.conns i f }) w

def blankConn : Conn :=
  { cfg := 0, peer := 0, psn := 0, st := 0, next := 0, expect := 0, sent := [], again := 0, rx := none, retries := 0, since := 0,
    rnr := none, cnpSent := none, cut := none, rateAt := 0, rate := 0 }

def cCtx (c : Conn) : Nat := bits c.cfg 41 20
def cPort (c : Conn) : Nat := bits c.cfg 36 5

/-- A port's rate in bit/s (R394, R398). -/
def portRate (w : World) (p : Nat) : Nat := if isOptical p && !(portDegraded w p) then 1600000000000 else 800000000000

/-- The RW bits of NET_CONN_CFG beside enable. -/
def connMask : Nat := 2 ^ 61 - 2 ^ 30 + (2 ^ 24 - 1)

def connSel (w : World) : Nat := fld w rNET_CONN_SEL 0 14

/-- May a connection use this port and peer? The twin port's peer is the partner of a pair (R411). -/
def connPortOk (w : World) (p peer : Nat) : Bool :=
  portRole w p = 1 || (p = 15 && twinPort w && paired w && fld w rNET_TWIN_STATUS 12 20 = peer)

/-- CONNECTION_INSTALL: a write of the selected connection's CFG with enable = 1. One whose port it may not use stays in
RESET. -/
def connInstall (v : Nat) (w : World) : World :=
  let i := connSel w
  let c := (connOf w i).getD blankConn
  if !(configured w) || bit c.cfg 63 then w
  else
    let c := { c with cfg := v &&& connMask }
    if !(connPortOk w (cPort c) c.peer) then setConn i c w
    else
      setConn i { blankConn with
        cfg := c.cfg + 2 ^ 63, peer := c.peer, psn := c.psn, st := 1, next := bits c.psn 24 24, expect := bits c.psn 0 24
        since := w.now, rateAt := w.now, rate := portRate w (cPort c) } w

def execConnectionInstall (v : Nat) (s : State) := run (connInstall v) s

/-! ### Packets -/

/-- A PSN at or before another, in the serial order of 24 bits. -/
def psnLe (a b : Nat) : Bool := decide ((b + 2 ^ 24 - a % 2 ^ 24) % 2 ^ 24 < 2 ^ 23)

/-- Bytes of UDP payload of a request packet: BTH, RETH, immediate, padded data, ICRC. -/
def pktBytes (k : NetPkt) : Nat :=
  12 + (if k.first then 16 else 0) + (if k.imm.isSome then 4 else 0) + (k.data.length + 3) / 4 * 4 + 4

/-- Sends a packet of a connection with its header numbers: to its peer's RoCEv2 port, with its DSCP, or over the twin
fibre. -/
def connSend (i n : Nat) (nums : List Nat) (data : List Byte) (w : World) : World :=
  match connOf w i with
  | none => w
  | some c =>
    if i = twinConn then
      if twinUp w then
        let w := bump (freeUsed (updTwin (fun t => { t with lastTx := w.now }) w)) (rDBG_PORT_TX 15) (freeVal w)
        emit .packet ([15, i] ++ twinHead w ++ nums) data w
      else w
    else sendUdp (cPort c) c.peer n ⟨Config.roceSource i, 4791, bits c.cfg 30 6⟩ ([bits c.cfg 0 24] ++ nums) data w

/-- Sends a request packet (again): its operation, PSN, R_Key, offset, length, rank, first, last, and 1 + immediate. SHARD_END is a twin datagram. -/
def pktSend (i : Nat) (k : NetPkt) (w : World) : World :=
  if k.op = 4 then sendTwin 0x14 (natLe (k.rkey / 2) 2 ++ natLe (k.rkey % 2) 1) w
  else connSend i (pktBytes k)
    [k.op, k.psn, k.rkey, k.off, k.len, k.rank, b2n k.first, b2n k.last,
      (match k.imm with | some v => v + 1 | none => 0)] k.data w

/-- Replies: an acknowledgement, a NAK (remote access error, invalid request), an RNR NAK, a CNP. -/
def rAck : Nat := 0x10
def rAccess : Nat := 0x11
def rInvalid : Nat := 0x12
def rRnr : Nat := 0x13
def rCnp : Nat := 0x14

def reply (i code psn : Nat) (w : World) : World := connSend i (if code = rCnp then 32 else 20) [code, psn] [] w

/-- A packet is heard on a connection's port: its bytes count, and CE brings a CNP, at most one per 50 µs. -/
def heard (i n : Nat) (ce : Bool) (w : World) : World :=
  match connOf w i with
  | none => w
  | some c =>
    let p := if i = twinConn then 15 else cPort c
    let w := if p = 15 then updTwin (fun t => { t with lastRx := w.now }) w else w
    let w := if i = twinConn then bump (freeUsed w) (rDBG_PORT_RX 15) (freeVal w) else countRx p c.peer n w
    if ce && (match c.cnpSent with | some t => decide (t + 50000 ≤ w.now) | none => true) then
      reply i rCnp 0 (updConn i (fun c => { c with cnpSent := some w.now }) w)
    else w

/-- A connection that can receive: in RTS, its port's link up. -/
def connHears (w : World) (i : Nat) : Option Conn := match connOf w i with
  | some c => if configured w && c.st = 1 && portUp w (if i = twinConn then 15 else cPort c) then some c else none
  | none => none

/-- The connection of a packet's destination QPN (R403): connection i has QPN 0x100 + i. DESIGN CHOICE: the twin pair's
internal connection, to which the spec gives none, has the next one. -/
def byQpn (qpn : Nat) (f : Nat → World → World) (w : World) : World := if 0x100 ≤ qpn then f (qpn - 0x100) w else w

/-! ### Congestion (R402) -/

/-- CNP_RECEIVED: the rate halves, at most once per 50 µs, to no less than 1 Gb/s. -/
def cnpReceived (i : Nat) (w : World) : World :=
  match connHears w i with
  | none => w
  | some c =>
    let w := bump (heard i 32 false w) rNET_CNP_RX 1
    let may := match c.cut with | some t => decide (t + 50000 ≤ w.now) | none => true
    updConn i (fun c => { c with
      rateAt := w.now
      cut := if may then some w.now else c.cut
      rate := if may then max 1000000000 (c.rate / 2) else c.rate }) w

def execCnpReceived (qpn : Nat) (s : State) := run (byQpn qpn cnpReceived) s

/-- RATE_INCREASE_TIMER: 55 µs without a CNP raise the rate by 5 % of the port's. -/
def rateIncrease (i : Nat) (w : World) : World :=
  match connOf w i with
  | none => w
  | some c =>
    let pr := portRate w (if i = twinConn then 15 else cPort c)
    if c.st ≠ 1 || w.now < c.rateAt + 55000 then w
    else setConn i { c with rateAt := w.now, rate := min pr (c.rate + pr / 20) } w

def execRateIncreaseTimer (conn : Nat) (s : State) := run (rateIncrease conn) s

/-! ### Regions (R404, R407) -/

def regionOf (w : World) (i : Nat) : Region :=
  mgetD w.net.regions i { cfg := 0, va := 0, len := 0, ranks := [], staged := [], notes := [], given := [] }

def setRegion (i : Nat) (r : Region) (w : World) : World := updNet (fun n => { n with regions := mset n.regions i r }) w

def rOn (r : Region) : Bool := bit r.cfg 63
def rW (r : Region) : Bool := bit r.cfg 62
def rR (r : Region) : Bool := bit r.cfg 61
def rX (r : Region) : Bool := bit r.cfg 60
def rCtx (r : Region) : Nat := bits r.cfg 40 20
def rGen (r : Region) : Nat := bits r.cfg 20 20
def rCount (r : Region) : Nat := bits r.cfg 16 4 + 1
def rFtz (r : Region) : Bool := bit r.cfg 11
def rDst (r : Region) : ElemFmt := if bits r.cfg 14 2 = 0 then .fp32 else .bf16
def rSrc (r : Region) : ElemFmt := if bits r.cfg 12 2 = 0 then .fp32 else .bf16

/-- Bytes of a contribution line's part for one destination line, and lines a contribution line covers. -/
def partBytes (r : Region) : Nat := if rDst r = .fp32 && rSrc r = .bf16 then 64 else 128
def partLines (r : Region) : Nat := 128 / partBytes r

/-- The RW bits of NET_REG_CFG beside enable. -/
def regMask : Nat := 2 ^ 63 - 2 ^ 40 + (2 ^ 20 - 2 ^ 11)

def regSel (w : World) : Nat := fld w rNET_REG_SEL 0 12

/-- Every page of a range is a LIVE object of the context, and NORMAL or NC. -/
def pagesLive (w : World) (ctx va n : Nat) : Bool :=
  decide (va + n ≤ 2 ^ 57) && (vaPages va n).all (fun p =>
    (match objAt w ctx (max va p) with
      | some (_, o) => o.drain.isNone && !o.freeing
      | none => false) &&
    (match walk w ctx p with
      | .ok l => decide (pteAttr l.pte ≤ 1)
      | .error _ => false))

/-- Destination lines that enabled reduce regions use of the counter carve-out. -/
def linesUsed (w : World) : Nat :=
  (w.net.regions.map (fun p => if rOn p.2 && rX p.2 then (p.2.len + 127) / 128 else 0)).sum

/-- What an enable finds: 3 formats, 1 range, 2 carve-out, 0 none; the lowest that applies. -/
def regionError (w : World) (r : Region) : Nat :=
  if r.len = 0 || !(ctxLive w (rCtx r)) || !(pagesLive w (rCtx r) r.va r.len) || (rX r && r.len % 128 ≠ 0) then 1
  else if rX r && decide (w.net.lines < linesUsed w + (r.len + 127) / 128) then 2
  else if rX r && (2 ≤ bits r.cfg 14 2 || 2 ≤ bits r.cfg 12 2 || (rDst r = .bf16 && rSrc r = .fp32)) then 3
  else 0

/-- REGION_ENABLE: a write of the selected region's CFG with enable = 1. Its generation rises, and its rank counters
and staged lines are cleared. -/
def regionEnable (v : Nat) (w : World) : World :=
  let i := regSel w
  let r := regionOf w i
  if !(configured w) || rOn r then w
  else
    let r := { r with cfg := (v &&& regMask) + rGen r * 2 ^ 20 }
    let e := regionError w r
    if e ≠ 0 then setRegion i { r with cfg := r.cfg + e } w
    else
      setRegion i { r with
        cfg := 2 ^ 63 + (v &&& regMask) + (rGen r + 1) % 2 ^ 20 * 2 ^ 20
        ranks := [], staged := [], notes := [], given := [] } w

def execRegionEnable (v : Nat) (s : State) := run (regionEnable v) s

/-- REGION_DISABLE: a write of CFG with enable = 0. A region that is not enabled stores the other fields. -/
def regionDisable (v : Nat) (w : World) : World :=
  let i := regSel w
  let r := regionOf w i
  if !(configured w) then w
  else if rOn r then setRegion i { r with cfg := r.cfg - 2 ^ 63 } w
  else setRegion i { r with cfg := (v &&& regMask) + bits r.cfg 20 20 * 2 ^ 20 + bits r.cfg 0 2 } w

def execRegionDisable (v : Nat) (s : State) := run (regionDisable v) s

/-- The region a request may use (R404): `op` is 0 WRITE, 1 RWRITE, 2 READ, `n` the bytes of the region it covers. -/
def regionFor (w : World) (op rkey off n : Nat) : Option (Nat × Region) :=
  let i := rkey % 4096
  let r := regionOf w i
  let may := if op = 1 then rX r else if op = 0 then rW r && !(rX r) else rR r && !(rX r)
  if rOn r && rkey / 4096 = rGen r && may && decide (off + n ≤ r.len) && ctxLive w (rCtx r) &&
      pagesLive w (rCtx r) (r.va + off) n then some (i, r) else none

/-! ### Reduce-on-receive (R408, R409) -/

/-- One element: d' = round(d + x), with its flags. -/
def reduceElem (ftz : Bool) (df sf : ElemFmt) (d x : Nat) : Nat × Flags :=
  let a := readElem ftz df d
  let b := readElem ftz sf x
  let s := valAdd a.1 b.1
  let r := convFloat ftz df .rne false 0 s.1
  (r.1, a.2 ||| b.2 ||| s.2 ||| r.2)

/-- Bytes of an element of a reduce format. -/
def redBytes (f : ElemFmt) : Nat := if f = .fp32 then 4 else 2

/-- A destination line after a part of a contribution line. -/
def reduceLine (r : Region) (old data : List Byte) : List Byte × Flags :=
  let dn := redBytes (rDst r)
  let sn := redBytes (rSrc r)
  (List.range (128 / dn)).foldl (fun (a : List Byte × Flags) j =>
    let e := reduceElem (rFtz r) (rDst r) (rSrc r) (leNat ((old.drop (dn * j)).take dn))
      (leNat ((data.drop (sn * j)).take sn))
    (a.1 ++ natLe e.1 dn, a.2 ||| e.2)) ([], 0)

/-- Is it the turn of a part of a contribution line: the line's counter equals its rank (R408), or another connection has given
the same rank since the counter was 0, so that it takes the next rank's turn (R419)? A connection's own second line of a rank
waits for that rank's turn in the next round. -/
def turnOf (r : Region) (s : Staged) : Bool :=
  s.rank = mgetD r.ranks s.line 0 || (mgetD r.given s.line []).any (fun g => g.1 = s.rank && g.2 ≠ s.conn)

/-- Applies a part whose turn it is: the line is rewritten, its flags collected, its counter advances. A poisoned line
stays poisoned. -/
def applyPart (i : Nat) (s : Staged) (w : World) : World :=
  let r := regionOf w i
  let va := r.va + 128 * s.line
  let bad := vaPoisoned w (rCtx r) va 128
  let old := vaDevRead byNetwork (rCtx r) va 128 w
  let new := reduceLine r old.1 s.data
  let w := orCtxFlags (rCtx r) new.2 (vaDevWrite byNetwork (rCtx r) va new.1 old.2)
  let w := if bad then (match vaRead w (rCtx r) va with | some pa => poisonWritten pa 128 w | none => w) else w
  let next := (mgetD r.ranks s.line 0 + 1) % rCount r
  let w := setRegion i { regionOf w i with
    ranks := mset r.ranks s.line next
    given := if next = 0 then mdel r.given s.line else mset r.given s.line ((s.rank, s.conn) :: mgetD r.given s.line []) } w
  if s.lead then bump w rNET_REDUCE_LINES 1 else w

/-- Sends the messages of RWRITEs whose lines are all applied (R406). -/
def noteSend (i : Nat) (port imm : Nat) (w : World) : World :=
  sendMsg (portUnit port) (rCtx (regionOf w i)) stOK (2 * 2 ^ 57 + i * 2 ^ 32 + imm % 2 ^ 32) w

def notesDone (i : Nat) (w : World) : World :=
  let r := regionOf w i
  let done (n : NetNote) : Bool := !(r.staged.any (·.id = n.id))
  let w := setRegion i { r with notes := r.notes.filter (fun n => !(done n)) } w
  forAll (r.notes.filter done) (fun n w => noteSend i n.port n.imm w) w

/-- Staged parts of a line whose turn has come are applied, oldest first. -/
def applyStaged (i line : Nat) (w : World) : World :=
  iter (regionOf w i).staged.length (fun _ w =>
    let r := regionOf w i
    match r.staged.find? (fun s => s.line = line && turnOf r s) with
    | some s => applyPart i s (setRegion i { r with staged := r.staged.erase s } w)
    | none => w) w

/-- The slice whose staging store holds a line's parts; 12 stands for lines of the host tier. -/
def stageSlice (w : World) (r : Region) (line : Nat) : Nat :=
  match vaRead w (rCtx r) (r.va + 128 * line) with
  | some pa => if inHbm pa then stackOf w pa else 12
  | none => 12

/-- The contribution lines of which some parts wait in a slice: two parts of one line are one. -/
def stagedLines (w : World) (r : Region) (slice : Nat) (ps : List Staged) : Nat :=
  let mine := ps.filter (fun s => stageSlice w r s.line = slice)
  (mine.filter (fun s => s.lead || !(mine.any (fun t => t.lead && t.id = s.id && t.line + 1 = s.line)))).length

def stagedAt (w : World) (slice : Nat) : Nat :=
  (w.net.regions.map (fun p => stagedLines w p.2 slice p.2.staged)).sum

/-- The parts of a packet's contribution lines at a destination offset. -/
def packetParts (r : Region) (off rank id conn : Nat) (data : List Byte) : List Staged :=
  let n := partBytes r
  (List.range (data.length / n)).map (fun j =>
    { line := off / 128 + j, rank := rank, data := (data.drop (n * j)).take n, id := id, lead := j % partLines r = 0
      conn := conn })

/-- Can every part be applied or staged? Lines with parts that wait count against their slice's 8,192 lines. -/
def partsFit (w : World) (r : Region) (ps : List Staged) : Bool :=
  let wait := ps.filter (fun s => !(turnOf r s))
  (List.range 13).all (fun k =>
    let n := stagedLines w r k wait
    n = 0 || decide (stagedAt w k + n ≤ 8192))

/-- Applies or stages each part of a packet. -/
def takeParts (i : Nat) (ps : List Staged) (w : World) : World :=
  forAll ps (fun s w =>
    let r := regionOf w i
    if turnOf r s then notesDone i (applyStaged i s.line (applyPart i s w))
    else
      let w := setRegion i { r with staged := r.staged ++ [s] } w
      if s.lead then bump w rNET_REDUCE_STAGED 1 else w) w

/-! ### Inbound requests (R404) -/

/-- Bytes of the region that `n` bytes of a request cover: an RWRITE of BF16 into FP32 covers twice as many. -/
def covered (w : World) (op rkey n : Nat) : Nat :=
  if op = 1 then n * partLines (regionOf w (rkey % 4096)) else n

/-- The packet's message goes on, or is over. -/
def rxNext (i : Nat) (x : NetRx) (n : Nat) (last : Bool) (w : World) : World :=
  updConn i (fun c => { c with
    expect := (c.expect + 1) % 2 ^ 24
    rx := if last then none else some { x with next := x.next + n } }) w

/-- A write into the hold area over the twin's internal connection (R414): only a FILLING copy takes it. -/
def holdWrite (copy off : Nat) (data : List Byte) (poison : List Nat) (w : World) : World :=
  match mget w.net.twin.hold copy with
  | some h =>
    if h.st ≠ 1 then w
    else
      let h := { h with
        bytes := listSet h.bytes off data
        got := off + data.length
        poison := (poison.map (· + off / 64)).foldl sIns h.poison }
      updTwin (fun t => { t with hold := mset t.hold copy h }) w
  | none => w

/-- RDMA_WRITE_REQUEST: one packet of an RDMA WRITE (op 0), an RWRITE (1) or a write into the hold area (3). A first
packet names its R_Key, its offset and its message's length; the packets after it follow on. A request of another kind
is invalid (R402). An earlier PSN is
acknowledged again and not applied; a later one is dropped. -/
def writeRequest (i psn op rkey off len rank : Nat) (first last ce notify : Bool) (imm : Nat) (data : List Byte)
    (poison : List Nat) (w : World) : World :=
  match connHears w i with
  | none => w
  | some c =>
    let hear := heard i (12 + (if first then 16 else 0) + (if notify then 4 else 0) + (data.length + 3) / 4 * 4 + 4) ce
    if psn ≠ c.expect then
      if psnLe psn c.expect then reply i rAck ((c.expect + 2 ^ 24 - 1) % 2 ^ 24) (hear w) else hear w
    else
      let x : Option NetRx := if first then
          some { op := op, rkey := rkey, rank := rank, next := off, id := w.net.msgs }
        else c.rx
      match x with
      | none => reply i rInvalid psn (hear w)
      | some x =>
        let w := if first then updNet (fun n => { n with msgs := n.msgs + 1 }) w else w
        if 4096 < data.length || x.op = 2 || 3 < x.op || (x.op = 3 && i ≠ twinConn) then reply i rInvalid psn (hear w)
        else if x.op = 3 then
          let w := holdWrite x.rkey x.next data poison (hear w)
          reply i rAck psn (rxNext i x data.length last w)
        else
          let n := covered w x.op x.rkey data.length
          let whole := if first then max n (covered w x.op x.rkey len) else n
          match regionFor w x.op x.rkey x.next whole with
          | none => reply i rAccess psn (updConn i (fun c => { c with rx := none }) (hear w))
          | some (ri, r) =>
            let st := rangeState (rCtx r) (r.va + x.next) n true none w
            match st.1.1 with
            | .waits => st.2
            | .fault _ _ => reply i rAccess psn (updConn i (fun c => { c with rx := none }) (hear st.2))
            | .ready =>
              let w := hear st.2
              let port := if i = twinConn then 15 else cPort c
              if x.op = 0 then
                let w := vaDevWrite byNetwork (rCtx r) (r.va + x.next) data w
                let w := if last && notify then noteSend ri port imm w else w
                reply i rAck psn (rxNext i x n last w)
              else if rCount r ≤ x.rank || data.length % 128 ≠ 0 || x.next % 128 ≠ 0 then
                reply i rAccess psn (updConn i (fun c => { c with rx := none }) w)
              else
                let ps := packetParts r x.next x.rank x.id i data
                if !(partsFit w r ps) then reply i rRnr psn (bump w rNET_RNR_TX 1)
                else
                  let w := takeParts ri ps w
                  let w := if last && notify then
                      notesDone ri (setRegion ri { regionOf w ri with
                        notes := (regionOf w ri).notes ++ [⟨x.id, port, imm⟩] } w)
                    else w
                  reply i rAck psn (rxNext i x n last w)

def execRdmaWriteRequest (qpn psn op rkey off len rank : Nat) (first last ce notify : Bool) (imm : Nat) (data : List Byte) (poison : List Nat) (s : State) := run (byQpn qpn (fun i => writeRequest i psn op rkey off len rank first last ce notify imm data poison)) s

/-- Response packets of a READ, 4,096 B each. -/
def readResponses (i psn : Nat) (data : List Byte) (w : World) : World :=
  let k := (data.length + 4095) / 4096
  iter k (fun j w =>
    let d := (data.drop (4096 * j)).take 4096
    connSend i (12 + (if j = 0 || j + 1 = k then 4 else 0) + (d.length + 3) / 4 * 4 + 4) [0x15, (psn + j) % 2 ^ 24] d w) w

/-- RDMA_READ_REQUEST: the bytes are read and returned; poison among them is consumed, and NAKed (R471). -/
def readRequest (i psn rkey off len : Nat) (ce : Bool) (w : World) : World :=
  match connHears w i with
  | none => w
  | some c =>
    let hear := heard i 32 ce
    let again := psn ≠ c.expect && psnLe psn c.expect
    if psn ≠ c.expect && !again then hear w
    else match regionFor w 2 rkey off len with
      | none => reply i rAccess psn (hear w)
      | some (_, r) =>
        if len = 0 then reply i rInvalid psn (hear w)
        else
          let st := rangeState (rCtx r) (r.va + off) len false none w
          match st.1.1 with
          | .waits => st.2
          | .fault _ _ => reply i rAccess psn (hear st.2)
          | .ready =>
            let w := hear st.2
            match poisonAt w (rCtx r) (r.va + off) len with
            | some pa =>
              reply i rAccess psn (portPoison (if i = twinConn then 15 else cPort c) (some (rCtx r)) pa w)
            | none =>
              let d := vaDevRead byNetwork (rCtx r) (r.va + off) len w
              let w := readResponses i psn d.1 d.2
              if again then w
              else updConn i (fun c => { c with expect := (c.expect + (len + 4095) / 4096) % 2 ^ 24, rx := none }) w

def execRdmaReadRequest (qpn psn rkey off len : Nat) (ce : Bool) (s : State) := run (byQpn qpn (fun i => readRequest i psn rkey off len ce)) s

end Sys2Proof.Machine
end

