-- ==== Sys2Proof/Machine/NetCmd.lean ====
section
/-!
DEFINITION. Network commands (R405, R406, R414, R415, R418): their checks, the packets they send, acknowledgements,
retransmission, and what the end of the twin pair does to them (R416).
-/
namespace Sys2Proof.Machine

/-! ### The command (R405) -/

def nOp (c : List Byte) : Nat := le c 1 1
def nNotify (c : List Byte) : Bool := bit (le c 2 1) 0
def nRank (c : List Byte) : Nat := le c 3 1
def nConn (c : List Byte) : Nat := le c 4 4
def nLocal (c : List Byte) : Nat := le c 8 8
def nRoff (c : List Byte) : Nat := le c 16 8
def nLen (c : List Byte) : Nat := le c 24 8
def nRkey (c : List Byte) : Nat := le c 32 4
def nImm (c : List Byte) : Nat := le c 36 4
def nTag (c : List Byte) : Nat := le c 40 8

def nShards (w : World) : Nat := fld w rNET_TWIN_CFG 48 13
def nShardBytes (w : World) : Nat := fld w rNET_TWIN_CFG 0 32 * 1024

/-- R405's first row, the connection and the pair apart. -/
def netBad (w : World) (c : List Byte) : Bool :=
  let op := nOp c
  let conns := op = 1 || op = 2 || op = 3
  let twins := op = 4 || op = 6
  le c 0 1 ≠ 1 || op = 0 || decide (6 < op) || decide (1 < le c 2 1) || le c 48 8 ≠ 0 || le c 56 8 ≠ 0 ||
  (nNotify c && !(op = 1 || op = 3 || op = 6)) ||
  decide ((if op = 3 then 15 else if op = 5 then 63 else 0) < nRank c) ||
  (if conns then decide (16384 ≤ nConn c) else nConn c ≠ 0) ||
  (!conns && op ≠ 4 && nLocal c ≠ 0) || (!conns && op ≠ 6 && nRoff c ≠ 0) ||
  (if conns || op = 4 then nLen c = 0 || decide (2 ^ 31 < nLen c) else nLen c ≠ 0) ||
  (!conns && op ≠ 6 && nRkey c ≠ 0) || ((op = 2 || op = 5) && nImm c ≠ 0) || (op ≠ 5 && nTag c ≠ 0) ||
  (op = 3 && (nRoff c % 128 ≠ 0 || nLen c % 128 ≠ 0)) || (twins && decide (nShards w ≤ nImm c)) ||
  (op = 4 && (decide (nShardBytes w < nLen c) || nLen c % 256 ≠ 0))

/-- A connection in RTS bound to the context, or a pair that is PAIRED. -/
def netUnready (w : World) (x : Work) : Bool :=
  if nOp x.cmd ≤ 3 then (match connOf w (nConn x.cmd) with
    | some c => c.st ≠ 1 || cCtx c ≠ x.ctx
    | none => true)
  else !(paired w)

/-- The local range cannot be used: unmapped, draining, freed, or neither NORMAL nor NC. -/
def netGone (w : World) (x : Work) : Bool :=
  let va := nLocal x.cmd
  let n := nLen x.cmd
  decide (2 ^ 57 < va + n) || rangeGone w x.ctx va n x.stamp || (vaPages va n).any (fun p => match walk w x.ctx p with
    | .ok l => decide (1 < pteAttr l.pte)
    | .error _ => true)

/-- The peer of a connection has no valid address in the node table (R400). -/
def peerGone (w : World) (i : Nat) : Bool := match connOf w i with
  | some c => (nodeAddr w c.peer).isNone
  | none => false

/-- R405's OBJECT_GONE at the start of a command: its local range, or a peer without an address. Of a structure of another
version, or of a length out of range, nothing is known. -/
def startGone (w : World) (x : Work) : Bool :=
  let op := nOp x.cmd
  le x.cmd 0 1 = 1 && 1 ≤ op &&
    ((op ≤ 4 && 1 ≤ nLen x.cmd && decide (nLen x.cmd ≤ 2 ^ 31) && netGone w x) ||
      (op ≤ 3 && peerGone w (nConn x.cmd)))

/-! ### Commands under way, and the end of the pair (R406, R416) -/

def netRun (w : World) (k : Nat) (x : Work) : Option NetRun := w.net.runs.find? (fun r => r.work = k && r.order = x.order)

def setNetRun (r : NetRun) (w : World) : World :=
  updNet (fun n => { n with runs := n.runs.filter (·.order ≠ r.order) ++ [r] }) w

def dropNetRun (order : Nat) (w : World) : World := updNet (fun n => { n with runs := n.runs.filter (·.order ≠ order) }) w

/-- A command under way completes; TIMEOUT and POISON lose its context (R12). -/
def endRun (st : Nat) (r : NetRun) (w : World) : World :=
  let w := dropNetRun r.order w
  match getWork w r.work with
  | some x =>
    if x.order ≠ r.order then w
    else if st = stTimeout then endByCause r.work st 3 w
    else if st = stPoison then endByCause r.work st 2 w
    else finWork r.work st w
  | none => w

/-- A held digest expires: its result, and the end of the DIGEST that sent it. The holder of a received one tells the
partner. -/
def expireDigest (d : Digest) (w : World) : World :=
  let w := updTwin (fun t => { t with digests := t.digests.erase d }) w
  let w := digestMsg d.slot 2 w
  match d.own with
  | some o => (match w.net.runs.find? (·.order = o) with
    | some r => endRun stOK r w
    | none => w)
  | none => sendTwin 0x16 (natLe d.slot 1 ++ natLe d.tag 8 ++ [2]) w

/-- The pair ends (R416): FILLING copies become INCOMPLETE, twin commands still running complete with TIMEOUT, held
digests expire, and the TWIN_PAIR node dissolves. -/
def dissolve (cause : Nat) (w : World) : World :=
  let w := fldSet w rNET_TWIN_STATUS 0 4 (cause * 4 + 3)
  let w := updTwin (fun t => { t with
    leaving := false, seen := false
    hold := t.hold.map (fun (k, h) => (k, if h.st = 1 then { h with st := 3 } else h)) }) w
  let w := forAll (w.net.runs.filter (fun r => 4 ≤ r.op)) (endRun stTimeout) w
  let w := forAll w.net.twin.digests expireDigest w
  treeChange (updNet (fun n => { n with conns := mdel n.conns twinConn }) w)

/-- A commanded detach goes ahead once no twin command runs: a full sweep, DETACH, DETACHED. -/
def leaveCheck (w : World) : World :=
  if w.net.twin.leaving && !(w.net.runs.any (fun r => 4 ≤ r.op)) then
    dissolve 1 (sendTwin 0x17 [] (journalSweep w))
  else w

def endNet (st : Nat) (r : NetRun) (w : World) : World := leaveCheck (endRun st r w)

/-! ### Acknowledgements (R402, R406, R409) -/

/-- A command whose packets are all sent and acknowledged completes; a MIRROR's copy is then the newest. -/
def sweepRuns (i : Nat) (w : World) : World :=
  forAll (w.net.runs.filter (fun r => r.conn = i && r.all)) (fun r w =>
    match connOf w i with
    | some c =>
      if c.sent.any (·.owner = r.order) then w
      else
        let w := if r.op = 4 then updTwin (fun t => { t with mine := mset t.mine (r.copy / 2) (r.copy % 2) }) w else w
        endNet stOK r w
    | none => w) w

/-- Packets up to a PSN are acknowledged; a READ is acknowledged by its responses alone. -/
def ackTo (i psn : Nat) (w : World) : World :=
  match connOf w i with
  | none => w
  | some c =>
    let rest := c.sent.dropWhile (fun k => k.op ≠ 2 && psnLe k.psn psn)
    if rest.length = c.sent.length then w
    else sweepRuns i (setConn i { c with sent := rest, again := min c.again rest.length, retries := 0, since := w.now, rnr := none } w)

/-- ROCE_ACK: an acknowledgement arrives. -/
def roceAck (i psn : Nat) (ce : Bool) (w : World) : World :=
  match connHears w i with
  | none => w
  | some _ => ackTo i psn (heard i 20 ce w)

def execRoceAck (qpn psn : Nat) (ce : Bool) (s : State) := run (byQpn qpn (fun i => roceAck i psn ce)) s

/-- The partition that a packet's payload is charged to (R346): that of its command, but for twin mirroring. -/
def pktPart (w : World) (k : NetPkt) : Option Nat := match w.net.runs.find? (·.order = k.owner) with
  | some r => if r.op = 4 then none else (getWork w r.work).map (·.part)
  | none => none

/-- Sends the packets of a connection that are to be sent again, oldest first, as far as their buckets admit them. -/
def resendGo (i : Nat) (w : World) : World :=
  iter ((connOf w i).map (·.again) |>.getD 0) (fun _ w => match connOf w i with
    | none => w
    | some c => match (c.sent.drop (c.sent.length - c.again)).head? with
      | none => w
      | some k =>
        let go (w : World) : World := bump (updConn i (fun c => { c with again := c.again - 1 }) (pktSend i k w)) rNET_RETX 1
        if c.again = 0 || c.st ≠ 1 then w
        else match pktPart w k with
          | none => go w
          | some p => if admits w 2 p then go (charge 2 p k.data.length w) else holdReq 2 p w) w

/-- Sends again every unacknowledged packet (go-back-N). To a peer without an address nothing is sent, and the commands
whose packets these are complete with OBJECT_GONE (R400, R405). -/
def resend (i : Nat) (w : World) : World :=
  match connOf w i with
  | none => w
  | some c =>
    let w := setConn i { c with since := w.now, rnr := none } w
    if i ≠ twinConn && peerGone w i then
      forAll (w.net.runs.filter (fun r => r.conn = i && c.sent.any (·.owner = r.order))) (endNet stObjGone) w
    else resendGo i (updConn i (fun c => { c with again := c.sent.length }) w)

/-- The connection goes to ERROR: the commands that have packets out complete with a status, those behind them, whose
connection is no longer in RTS, with VERSION_MISMATCH. The twin's internal connection stays. -/
def connFail (i st : Nat) (owners : List Nat) (w : World) : World :=
  let w := updConn i (fun c => { c with st := if i = twinConn then 1 else 2, sent := [], again := 0, rx := none, rnr := none }) w
  forAll (w.net.runs.filter (fun r => r.conn = i && r.op ≠ 5)) (fun r w =>
    if owners.contains r.order then endNet st r w
    else if i = twinConn then w else endNet stVersion r w) w

/-- ACK_TIMEOUT: 65.5 µs without progress retransmit, seven times; then the retries are exhausted. -/
def ackTimeout (i : Nat) (w : World) : World :=
  match connOf w i with
  | none => w
  | some c =>
    if c.st ≠ 1 || c.sent.isEmpty || c.rnr ≠ none || w.now < c.since + 65500 then w
    else if 7 ≤ c.retries then connFail i stTimeout (c.sent.map (·.owner)) w
    else resend i (setConn i { c with retries := c.retries + 1 } w)

def execAckTimeout (conn : Nat) (s : State) := run (ackTimeout conn) s

/-- ROCE_NAK: code 0x13 is RNR; 0x11 a remote access error; any other NAK gives its command a status the spec does
not state. -/
def roceNak (i psn code : Nat) (ce : Bool) (w : World) : World :=
  match connHears w i with
  | none => w
  | some _ =>
    let w := ackTo i ((psn + 2 ^ 24 - 1) % 2 ^ 24) (heard i 20 ce w)
    match connOf w i with
    | none => w
    | some c =>
      if code = rRnr then (if c.sent.isEmpty then w else setConn i { c with rnr := some w.now } w)
      else
        let owners := (c.sent.take 1).map (·.owner)
        if code = rAccess then connFail i stObjGone owners w
        else connFail i (freeVal w % 10) owners (freeUsed w)

def execRoceNak (qpn psn code : Nat) (ce : Bool) (s : State) := run (byQpn qpn (fun i => roceNak i psn code ce)) s

/-- RNR_RETRY_TIMER: 10 µs after an RNR NAK the sender retries. -/
def rnrRetry (i : Nat) (w : World) : World :=
  match connOf w i with
  | none => w
  | some c => match c.rnr with
    | some t => if c.st = 1 && decide (t + 10000 ≤ w.now) then resend i w else w
    | none => w

def execRnrRetryTimer (conn : Nat) (s : State) := run (rnrRetry conn) s

/-- CONNECTION_RESET: a write of the selected connection's CFG with enable = 0. One that is enabled goes to RESET, and
its commands complete as on a connection that is not in RTS; one that is not stores the other fields. -/
def connReset (v : Nat) (w : World) : World :=
  let i := connSel w
  let c := (connOf w i).getD blankConn
  if !(configured w) then w
  else if bit c.cfg 63 then
    connFail i stVersion [] (setConn i { blankConn with cfg := c.cfg - 2 ^ 63, peer := c.peer, psn := c.psn } w)
      |> updConn i (fun c => { c with st := 0 })
  else setConn i { c with cfg := v &&& connMask } w

def execConnectionReset (v : Nat) (s : State) := run (connReset v) s

/-! ### Sending (R405, R406) -/

/-- Starts a network command, if need be, and goes on with it. One being stopped ends at this packet boundary. -/
def netGo (op : Nat) (f : Work → NetRun → World → World) (k : Nat) (w : World) : World :=
  match workRuns w k 8 with
  | none => w
  | some x => match netRun w k x with
    | some r =>
      if x.stop ≠ none then leaveCheck (finStopped k (dropNetRun r.order w))
      else if r.op = op then f x r w else w
    | none =>
      if x.stop ≠ none then finStopped k w
      else if startGone w x then finWork k stObjGone w
      else if netBad w x.cmd || netUnready w x then finWork k stVersion w
      else if nOp x.cmd ≠ op then w
      else if 4096 ≤ w.net.runs.length then w
      else
        let r : NetRun :=
          { work := k, order := x.order, op := op, conn := if op ≤ 3 then nConn x.cmd else twinConn, sent := 0,
            all := false, copy := 0 }
        f x r (setNetRun r w)

/-- Packets of a connection leave in release order: an earlier command of it has not sent everything. -/
def behind (w : World) (x : Work) (conn : Nat) : Bool :=
  w.fe.works.any (fun p => p.2.kind = 8 && p.2.fin = none && decide (p.2.order < x.order) &&
    (if conn = twinConn then 4 ≤ nOp p.2.cmd && nOp p.2.cmd ≠ 5 else nOp p.2.cmd ≤ 3 && nConn p.2.cmd = conn) &&
    !(w.net.runs.any (fun r => r.order = p.2.order && r.all)))

/-- Adds a packet to a connection and sends it. -/
def pushPkt (i : Nat) (k : NetPkt) (w : World) : World :=
  match connOf w i with
  | none => w
  | some c =>
    let k := { k with psn := c.next }
    pktSend i k (setConn i { c with
      next := (c.next + k.span) % 2 ^ 24
      sent := c.sent ++ [k]
      since := if c.sent.isEmpty then w.now else c.since } w)

def blankPkt (r : NetRun) : NetPkt :=
  { psn := 0, span := 1, owner := r.order, op := 0, rkey := 0, off := 0, len := 0, rank := 0, first := false, last := false,
    imm := none, data := [], poison := [] }

/-- Does the connection hold back new packets: an RNR NAK is pending, packets are still to be sent again, or an earlier command
is still sending? -/
def stalled (w : World) (x : Work) (i : Nat) : Bool :=
  behind w x i || (match connOf w i with | some c => c.rnr ≠ none || c.again ≠ 0 || c.st ≠ 1 | none => true)

/-- The next packet of a WRITE (op 1) or an RWRITE (op 3). -/
def sendWrite (x : Work) (r : NetRun) (w : World) : World :=
  let c := x.cmd
  let i := r.conn
  if r.all || stalled w x i then w
  else if !(admits w 2 x.part) then holdReq 2 x.part w
  else if peerGone w i then endNet stObjGone r w
  else
    let n := min 4096 (nLen c - r.sent)
    let va := nLocal c + r.sent
    let st := rangeState x.ctx va n false none w
    match st.1.1 with
    | .waits => st.2
    | .fault _ _ => endNet stObjGone r st.2
    | .ready => match poisonAt st.2 x.ctx va n with
      | some pa =>
        endNet stPoison r (portPoison (match connOf w i with | some c => cPort c | none => 0) (some x.ctx) pa st.2)
      | none =>
        let d := vaDevRead byNetwork x.ctx va n st.2
        let last := r.sent + n = nLen c
        let p := { blankPkt r with
          op := if nOp c = 3 then 1 else 0, rkey := nRkey c, off := nRoff c + r.sent, len := nLen c, rank := nRank c
          first := r.sent = 0, last := last, imm := if last && nNotify c then some (nImm c) else none, data := d.1 }
        setNetRun { r with sent := r.sent + n, all := last } (pushPkt i p (charge 2 x.part n d.2))

/-- One command names up to `n` packets to send. -/
def netMany (op : Nat) (f : Work → NetRun → World → World) (k n : Nat) (w : World) : World :=
  iter (n + 1) (fun _ w => netGo op f k w) w

/-- WRITE: the next n + 1 packets of the command leave (R405, R406). -/
def execWrite (k n : Nat) (s : State) := run (netMany 1 sendWrite k n) s

/-- RWRITE: as WRITE, with the contributor's rank (R408). -/
def execRwrite (k n : Nat) (s : State) := run (netMany 3 sendWrite k n) s

/-- READ: the request leaves; its responses take one PSN each. -/
def sendRead (x : Work) (r : NetRun) (w : World) : World :=
  let c := x.cmd
  if r.all || stalled w x r.conn then w
  else if peerGone w r.conn then endNet stObjGone r w
  else
    let p := { blankPkt r with
      op := 2, span := (nLen c + 4095) / 4096, rkey := nRkey c, off := nRoff c, len := nLen c, first := true, last := true }
    setNetRun { r with all := true } (pushPkt r.conn p w)

def execRead (k : Nat) (s : State) := run (netGo 2 sendRead k) s

/-- RDMA_READ_RESPONSE: the next response of the connection's oldest READ is written locally; the last completes it. It
acknowledges every packet before the READ. -/
def readResponse (i psn : Nat) (ce : Bool) (data : List Byte) (w : World) : World :=
  match connHears w i with
  | none => w
  | some _ =>
    let w := ackTo i ((psn + 2 ^ 24 - 1) % 2 ^ 24) w
    let hear := heard i (12 + (data.length + 3) / 4 * 4 + 4) ce
    match connOf w i with
    | none => w
    | some c => match c.sent with
      | [] => hear w
      | p :: rest =>
        let n := min 4096 p.len
        if p.op ≠ 2 || p.psn ≠ psn || data.length ≠ n then hear w
        else
          let p' := { p with psn := (p.psn + 1) % 2 ^ 24, span := p.span - 1, off := p.off + n, len := p.len - n }
          let sent := if p.len = n then rest else p' :: rest
          let keep := setConn i { c with sent := sent, retries := 0, since := w.now }
          match w.net.runs.find? (·.order = p.owner) with
          | none => sweepRuns i (hear (keep w))
          | some r => match getWork w r.work with
            | none => sweepRuns i (hear (keep w))
            | some x =>
              let va := nLocal x.cmd + (p.off - nRoff x.cmd)
              let st := rangeState x.ctx va n true none w
              match st.1.1 with
              | .waits => st.2
              | .fault _ _ =>
                hear (endNet stObjGone r (setConn i { c with sent := sent, retries := 0, since := w.now } st.2))
              | .ready =>
                sweepRuns i (updConn i (fun c => { c with sent := sent, retries := 0, since := w.now })
                  (vaDevWrite byNetwork x.ctx va data (hear st.2)))

def execRdmaReadResponse (qpn psn : Nat) (ce : Bool) (data : List Byte) (s : State) := run (byQpn qpn (fun i => readResponse i psn ce data)) s

/-! ### Twin commands (R414, R415, R418) -/

/-- Poisoned granules of a virtual range, counted from its first byte. -/
def poisonList (w : World) (ctx va n : Nat) : List Nat :=
  (List.range ((n + 63) / 64)).filter (fun j => vaPoisoned w ctx (va + 64 * j) (min 64 (n - 64 * j)))

/-- The next packet of a MIRROR. It begins with SHARD_BEGIN for the copy that is not the newest, and ends with
SHARD_END. Poison is carried, not consumed. Which copy of the shard is newest at the partner this module's own MIRRORs tell;
of a partner that holds copies of an earlier pair, `held` does. -/
def sendMirror (held : Nat) (x : Work) (r : NetRun) (w : World) : World :=
  let c := x.cmd
  if r.all || stalled w x twinConn then w
  else
    let n := min 4096 (nLen c - r.sent)
    let va := nLocal c + r.sent
    let st := rangeState x.ctx va n false none w
    match st.1.1 with
    | .waits => st.2
    | .fault _ _ => endNet stObjGone r st.2
    | .ready =>
      let w := st.2
      let copy := if r.sent ≠ 0 then r.copy else 2 * nImm c + (if (mget w.net.twin.mine (nImm c)).getD held = 0 then 1 else 0)
      let w := if r.sent = 0 then
          sendTwin 0x13 (natLe (nImm c) 2 ++ natLe (copy % 2) 1 ++ natLe (nLen c) 4) w
        else w
      let q := poisonList w x.ctx va n
      let d := vaDevRead byNetwork x.ctx va n w
      let last := r.sent + n = nLen c
      let p := { blankPkt r with
        op := 3, rkey := copy, off := r.sent, len := nLen c, first := r.sent = 0, last := last, data := d.1, poison := q }
      let w := pushPkt twinConn p d.2
      let w := if last then pushPkt twinConn { blankPkt r with op := 4, rkey := copy } w else w
      setNetRun { r with sent := r.sent + n, all := last, copy := copy } w

def execMirror (k n held : Nat) (s : State) := run (netMany 4 (sendMirror held) k n) s

/-- The newest COMPLETE copy of a shard. -/
def newestCopy (w : World) (shard : Nat) : Option HoldCopy :=
  match mget w.net.twin.newest shard with
  | some c => (match mget w.net.twin.hold (2 * shard + c) with
    | some h => if h.st = 2 then some h else none
    | none => none)
  | none => none

/-- The next packet of a REFILL: the shard's newest COMPLETE copy goes into the partner's region. A shard without one
sends nothing. Where in the host tier the hold area lies is open, and with it the address that poison is logged at. -/
def sendRefill (x : Work) (r : NetRun) (w : World) : World :=
  let c := x.cmd
  if r.all || stalled w x twinConn then w
  else if !(admits w 2 x.part) then holdReq 2 x.part w
  else match newestCopy w (nImm c) with
    | none => endNet stOK r w
    | some h =>
      if h.len = 0 then endNet stOK r w
      else
        let n := min 4096 (h.len - r.sent)
        if (List.range ((n + 63) / 64)).any (fun j => h.poison.contains (r.sent / 64 + j)) then
          endNet stPoison r (rasLog kindLpddr 2 (portUnit 15) (some x.ctx) false (0x1000000000000 + freeVal w)
            (bump (freeUsed w) rRAS_POISON_CONSUMED 1))
        else
          let last := r.sent + n = h.len
          let p := { blankPkt r with
            rkey := nRkey c, off := nRoff c + r.sent, len := h.len, first := r.sent = 0, last := last
            imm := if last && nNotify c then some (nImm c) else none, data := listAt h.bytes r.sent n }
          setNetRun { r with sent := r.sent + n, all := last } (pushPkt twinConn p (charge 2 x.part n w))

def execRefill (k n : Nat) (s : State) := run (netMany 6 sendRefill k n) s

/-- Holds a digest record, 64 at most: a 65th discards the oldest. -/
def holdDigest (d : Digest) (w : World) : World :=
  let w := updTwin (fun t => { t with digests := t.digests ++ [d] }) w
  if 64 < w.net.twin.digests.length then (match w.net.twin.digests.head? with
    | some o => expireDigest o w
    | none => w)
  else w

/-- DIGEST: the record of a CLOSED slot is sent with the command's tag, and held. -/
def sendDigest (x : Work) (r : NetRun) (w : World) : World :=
  let slot := nRank x.cmd
  let s := cloveOf w slot
  let held := w.net.twin.digests.any (fun d => d.own = some r.order)
  if held || s.st ≠ 2 then w
  else if !(admits w 2 x.part) then holdReq 2 x.part w
  else
    let w := sendTwin 0x15 (natLe slot 1 ++ natLe (nTag x.cmd) 8 ++ s.record) (charge 2 x.part s.record.length w)
    leaveCheck (holdDigest { slot := slot, tag := nTag x.cmd, bytes := s.record, since := w.now, own := some r.order } w)

def execDigest (k : Nat) (s : State) := run (netGo 5 sendDigest k) s

end Sys2Proof.Machine
end

