-- ==== Sys2Proof/Machine/Twin.lean ====
section
/-!
DEFINITION. The twin pair (R411 to R418): pairing by HELLO, heartbeats, the journal of FE_QDONE, shard copies, digests
of Clove records, and the ends of the pair.
-/
namespace Sys2Proof.Machine

/-- A twin datagram arrives: it is the last one received, and the port has been heard. -/
def twinHear (seq : Nat) (w : World) : World :=
  let w := fldSet (updTwin (fun t => { t with lastRx := w.now }) w) rNET_TWIN_STATUS 32 32 seq
  bump (freeUsed w) (rDBG_PORT_RX 15) (freeVal w)

/-- What a PAIRED module does with a twin datagram. -/
def pairRx (seq : Nat) (f : World → World) (w : World) : World :=
  if configured w && twinUp w then (if paired w then f (twinHear seq w) else twinHear seq w) else w

/-! ### Pairing (R412) -/

/-- HELLO: generation, node, serial, capability word, size and instance of the MODULE node, seen. -/
def sendHello (w : World) : World :=
  let seen := 1 ≤ twinState w && twinState w ≤ 2
  let w := sendTwin 0x10 (natLe (fld w rGLB_ID 0 8) 1 ++ natLe (nodeId w) 4 ++ natLe Config.serial.toNat 8 ++
    natLe (capWord w (fun _ => true)) 8 ++ natLe (coresServing w) 8 ++ natLe 0 4 ++ natLe (b2n seen) 1) w
  updTwin (fun t => { t with helloAt := w.now, seen := t.seen || seen }) w

/-- PAIRED: the partner's node and serial, its descriptor, an empty mirror, the internal connection, the TWIN_PAIR
node. DEDUCED: one more HELLO with seen = 1 leaves, which the partner's own step to PAIRED needs. -/
def enterPaired (node serial cap size inst : Nat) (w : World) : World :=
  let fresh := rg w rNET_TWIN_SERIAL ≠ serial
  let w := rgSet (fldSet (fldSet w rNET_TWIN_STATUS 0 2 2) rNET_TWIN_STATUS 12 20 node) rNET_TWIN_SERIAL serial
  let w := updTwin (fun t => { t with
    cap := cap, size := size, inst := inst, mirror := [], lastTx := w.now, sweepAt := w.now
    mine := if fresh then [] else t.mine }) w
  let w := setConn twinConn { blankConn with st := 1, since := w.now, rateAt := w.now, rate := portRate w 15 } w
  sendHello (treeChange w)

/-- A received HELLO: one with a reserved node ID is dropped (R399). Where it qualifies the partner's MAC address is learnt from
it (R411). From the partner's serial and of this generation, it takes the module to PAIRING, and from
PAIRING, once seen on both sides, to PAIRED. -/
def hello (seq gen node mac serial cap size inst : Nat) (twinRole seen : Bool) (w : World) : World :=
  if !(configured w && twinUp w) || 0x40000 ≤ node then w
  else
    let st := twinState w
    let same := st = 1 && serial = w.net.twin.serial
    let known := st = 3 && (serial = rg w rNET_TWIN_SERIAL || fld w rNET_TWIN_CTL 2 1 = 1)
    let ok := gen = fld w rGLB_ID 0 8 && twinRole && (st = 0 || same || known)
    let before := w.net.twin.lastRx
    let w := twinHear seq w
    let w := if st = 1 && !same then updTwin (fun t => { t with lastRx := before }) w else w
    if !ok then w
    else
    let w := updTwin (fun t => { t with mac := some mac }) w
    if st = 1 then
      if seen && w.net.twin.seen then enterPaired node serial cap size inst w else w
    else
      sendHello (updTwin (fun t => { t with left := st, serial := serial, seen := false })
        (fldSet w rNET_TWIN_STATUS 0 2 1))

def execHello (seq gen node mac serial cap size inst : Nat) (twinRole seen : Bool) (s : State) := run (hello seq gen node mac serial cap size inst twinRole seen) s

/-- HELLO_TIMER: every 100 µs while not PAIRED. -/
def helloTimer (w : World) : World :=
  if configured w && twinUp w && !(paired w) && decide (w.net.twin.helloAt + 100000 ≤ w.now) then sendHello w else w

def execHelloTimer (s : State) := run helloTimer s

def lossNs (w : World) : Nat := 1000 * fld w rNET_TWIN_TIMER 0 32

/-- PAIRING_TIMEOUT: nothing from the recorded serial for loss_us returns the module to the state it left. -/
def pairingTimeout (w : World) : World :=
  if twinState w = 1 && decide (w.net.twin.lastRx + lossNs w ≤ w.now) then
    updTwin (fun t => { t with seen := false }) (fldSet w rNET_TWIN_STATUS 0 2 w.net.twin.left)
  else w

def execPairingTimeout (s : State) := run pairingTimeout s

/-- HEARTBEAT: it keeps the pair alive. -/
def execHeartbeat (seq : Nat) (s : State) := run (pairRx seq id) s

/-- HEARTBEAT_TIMER: 10 µs without other twin traffic. -/
def heartbeatTimer (w : World) : World :=
  if paired w && decide (w.net.twin.lastTx + 10000 ≤ w.now) then sendTwin 0x11 [] w else w

def execHeartbeatTimer (s : State) := run heartbeatTimer s

/-! ### The journal (R413) -/

/-- The mirrored FE_QDONE of a partner's queue; all ones where nothing was stored. -/
def mirrorOf (w : World) (q : Nat) : Nat := match mget w.net.twin.mirror q with
  | some v => v.toNat
  | none => 2 ^ 64 - 1

/-- Stores one pair if it advances the mirror. -/
def storePair (q v : Nat) (w : World) : World :=
  let d := (v + 2 ^ 64 - mirrorOf w q) % 2 ^ 64
  if q < 1024 && d ≠ 0 && d < 2 ^ 63 then
    bump (updTwin (fun t => { t with mirror := mset t.mirror q (BitVec.ofNat 64 v) }) w) rNET_JOURNAL_RX 1
  else w

def storePairs : List Nat → World → World
  | q :: v :: t, w => storePairs t (storePair q v w)
  | _, w => w

/-- JOURNAL: a received stamp (its two words) and up to 64 pairs of a queue and its FE_QDONE. -/
def journal (seq lo hi : Nat) (pairs : List Nat) (w : World) : World :=
  pairRx seq (fun w =>
    updTwin (fun t => { t with stampLo := lo % 2 ^ 64, stampHi := hi % 2 ^ 64 }) (storePairs (pairs.take 128) w)) w

def execJournal (seq lo hi : Nat) (pairs : List Nat) (s : State) := run (journal seq lo hi pairs) s

/-- JOURNAL_SWEEP: every 1 ms a PAIRED module sends all 1,024 values. -/
def journalTimer (w : World) : World :=
  if paired w && decide (w.net.twin.sweepAt + 1000000 ≤ w.now) then journalSweep w else w

def execJournalSweep (s : State) := run journalTimer s

/-! ### Shards (R414) -/

/-- A copy that a SHARD_BEGIN has opened. -/
def fillingCopy (len : Nat) : HoldCopy := { st := 1, len := len, bytes := [], poison := [], got := 0, refused := false }

/-- SHARD_BEGIN: the copy is FILLING. DESIGN CHOICE: one that names the newest COMPLETE copy, which no sender that follows R414
names and which is never overwritten, is not accepted. -/
def shardBegin (seq shard copy len : Nat) (w : World) : World :=
  pairRx seq (fun w =>
    let key := 2 * shard + copy
    if nShards w ≤ shard || 2 ≤ copy then w
    else match mget w.net.twin.hold key with
      | some h =>
        let keep := h.st = 2 && mget w.net.twin.newest shard = some copy
        let h := if keep then { h with refused := true } else fillingCopy len
        updTwin (fun t => { t with hold := mset t.hold key h }) w
      | none => updTwin (fun t => { t with hold := mset t.hold key (fillingCopy len) }) w) w

def execShardBegin (seq shard copy len : Nat) (s : State) := run (shardBegin seq shard copy len) s

/-- SHARD_END: a FILLING copy that holds every byte is COMPLETE and newest, and acknowledged on the internal connection; one
whose records have not all come waits for them and for the next SHARD_END. -/
def shardEnd (seq shard copy : Nat) (w : World) : World :=
  pairRx seq (fun w =>
    match mget w.net.twin.hold (2 * shard + copy), connOf w twinConn with
    | some h, some c =>
      if copy < 2 && h.st = 1 && h.got = h.len then
        let w := updTwin (fun t => { t with
          hold := mset t.hold (2 * shard + copy) { h with st := 2 }
          newest := mset t.newest shard copy }) w
        reply twinConn rAck c.expect (updConn twinConn (fun c => { c with expect := (c.expect + 1) % 2 ^ 24 }) w)
      else if h.st = 2 && !h.refused && mget w.net.twin.newest shard = some copy then
        reply twinConn rAck ((c.expect + 2 ^ 24 - 1) % 2 ^ 24) w
      else w
    | _, _ => w) w

def execShardEnd (seq shard copy : Nat) (s : State) := run (shardEnd seq shard copy) s

/-! ### Digests (R415) -/

/-- DIGEST_RECEIVED: compared with the local record of the slot and tag, or held until there is one. -/
def digestReceived (seq slot tag : Nat) (record : List Byte) (w : World) : World :=
  pairRx seq (fun w =>
    let s := cloveOf w (slot % 64)
    if s.st = 2 && s.armTag = tag then digestCompare (slot % 64) tag record s.record w
    else leaveCheck (holdDigest { slot := slot % 64, tag := tag, bytes := record, since := w.now, own := none } w)) w

def execDigestReceived (seq slot tag : Nat) (record : List Byte) (s : State) := run (digestReceived seq slot tag record) s

/-- DIGEST_RESULT: the DIGEST that sent the record completes, and a message is sent. -/
def digestResultRx (seq slot tag result : Nat) (w : World) : World :=
  pairRx seq (fun w =>
    match w.net.twin.digests.find? (fun d => d.own.isSome && d.slot = slot && d.tag = tag) with
    | none => w
    | some d =>
      let w := digestMsg slot (min 2 result) (updTwin (fun t => { t with digests := t.digests.erase d }) w)
      match w.net.runs.find? (fun r => some r.order = d.own) with
      | some r => endNet stOK r w
      | none => w) w

def execDigestResult (seq slot tag result : Nat) (s : State) := run (digestResultRx seq slot tag result) s

/-- DIGEST_HOLD_EXPIRY: a record held for digest_hold_us expires. -/
def digestExpiry (w : World) : World :=
  match w.net.twin.digests.find? (fun d => decide (d.since + 1000 * fld w rNET_TWIN_TIMER 32 32 ≤ w.now)) with
  | some d => leaveCheck (expireDigest d w)
  | none => w

def execDigestHoldExpiry (s : State) := run digestExpiry s

/-! ### Ends of the pair (R416) -/

/-- DETACH: the partner has left. -/
def execDetach (seq : Nat) (s : State) := run (pairRx seq (dissolve 1)) s

/-- COMMANDED_DETACH: a write of 1 to NET_TWIN_CTL.detach; it takes effect once no twin command runs. -/
def commandedDetach (w : World) : World :=
  if configured w && paired w then leaveCheck (updTwin (fun t => { t with leaving := true }) w) else w

def execCommandedDetach (s : State) := run commandedDetach s

/-- TWIN_LOSS: nothing received on the twin port for loss_us. -/
def twinLoss (w : World) : World :=
  if paired w && decide (w.net.twin.lastRx + lossNs w ≤ w.now) then
    let cause := if portUp w 15 then 2 else 3
    sendMsg 0x07F devCtx stOK (4 * 2 ^ 57 + cause) (dissolve cause w)
  else w

def execTwinLoss (s : State) := run twinLoss s

end Sys2Proof.Machine
end

