-- ==== Sys2Proof/Machine/Boot.lean ====
section
/-!
DEFINITION. Boot (R447 to R454, R458): delivery of objects, the bundle, the image, the repair record, training and the
self-test programmes (R461 to R464), replacement of an image; and shutdown (R455).
-/
namespace Sys2Proof.Machine

def updBoot (f : Boot → Boot) (w : World) : World := { w with boot := f w.boot }

/-! ### GLB_BOOT_STATUS (R458) -/

def setBootPhase (p : Nat) (w : World) : World := fldSet w rGLB_BOOT_STATUS 0 4 p
def bootError (e : Nat) (w : World) : World := fldSet w rGLB_BOOT_STATUS 8 8 e
def bootRecord (w : World) : Nat := fld w rGLB_BOOT_STATUS 20 4
def setBootRecord (r : Nat) (w : World) : World := fldSet w rGLB_BOOT_STATUS 20 4 r
def bootBusy (w : World) : World := fldSet w rGLB_BOOT_STATUS 16 1 (b2n (w.boot.fetching || w.boot.bound.isSome))

/-! ### The repair record (R452, R464) -/

/-- Bytes of an entry's content that its kind uses, as a mask over bytes 2 to 15. -/
def entryMask (kind : Nat) : Nat := nth [0, 0x3, 0x77, 0xFF, 0xFF, 0x3, 0x7, 0x3, 0x3F] kind 0

/-- An entry of a known kind whose reserved bytes are 0. -/
def entryOk (e : List Byte) : Bool :=
  e.length = 16 && 1 ≤ le e 0 1 && decide (le e 0 1 ≤ 8) && le e 1 1 = 0 &&
    (List.range 14).all (fun i => bit (entryMask (le e 0 1)) i || le e (2 + i) 1 = 0)

/-- Entries of a record's body, 16 B each after its header. -/
def bodyEntries (body : List Byte) : List (List Byte) :=
  (List.range (le body 4 4)).map (fun i => (body.drop (16 + 16 * i)).take 16)

/-- The body's header fits it, and every entry is of a known kind. -/
def bodyOk (body : List Byte) : Bool :=
  le body 0 1 = 1 && le body 2 2 = 0 && body.length = 16 + 16 * le body 4 4 && (bodyEntries body).all entryOk

/-- The cause a record falls back with (2 seal, 3 serial, 4 generation), or its body. -/
def readRecord (w : World) (bs : List Byte) : Except Nat (List Byte) :=
  let len := le bs 20 4
  if le bs 0 1 ≠ 1 || bs.length ≠ 64 + len + 16 || decide (2 ^ 18 < bs.length) then .error 2
  else match Config.unsealed (fld w rRAS_LIFECYCLE 0 2) (bs.take 64) (bs.drop 64) with
    | none => .error 2
    | some body =>
      if le bs 8 8 ≠ rg w rRAS_SERIAL then .error 3
      else if le bs 16 4 ≠ fld w rGLB_BOOT_STATUS 32 32 then .error 4
      else if !(bodyOk body) then .error 2 else .ok body

/-- Entries in force: of the record applied, and of this session. -/
def entriesOf (w : World) (kind : Nat) : List (List Byte) :=
  (w.ras.record ++ w.ras.session).filter (fun e => le e 0 1 = kind)

/-- What of the repair in force the tree shows. -/
def repairView (w : World) : List Nat × Map Nat × List Nat × Map Nat :=
  ((List.range 16).map (retiredMask w), w.ras.adopted, w.ras.retired, w.ras.lanes)

/-- Cores of which a macro's 4 spare rows do not suffice for its failing rows (R465). -/
def coresSpent (w : World) : List Nat :=
  let rows := (entriesOf w 2).filter (fun e => 0x100 ≤ le e 2 2 && le e 2 2 < 0x200)
  (rows.filter (fun e => 4 < Config.fusedCoreRows (le e 2 2 - 0x100) (le e 4 1) +
    (rows.filter (fun x => le x 2 2 = le e 2 2 && le x 4 1 = le e 4 1)).length)).map (fun e => le e 2 2 - 0x100)

/-- The redundant lanes of a module of a Finov link. PRESUMED: 4, as the x64 module of UCIe's advanced package has. -/
def finovSpares : Nat := 4

/-- Some module of a Finov link has more failed lanes than redundant ones. -/
def lanesSpent (w : World) (l : Nat) : Bool :=
  let es := (entriesOf w 6).filter (fun e => le e 2 1 = l)
  es.any (fun e => finovSpares < Config.fusedLanes l (le e 3 1) + (es.filter (fun x => le x 3 1 = le e 3 1)).length)

/-- The lanes of a Finov link that repair has replaced. -/
def lanesRepaired (w : World) (l : Nat) : Nat :=
  ((List.range (fld w (rD2D_LINK_STATUS l) 24 8)).map (Config.fusedLanes l)).sum +
    ((entriesOf w 6).filter (fun e => le e 2 1 = l)).length

/-- The repair the entries and the fuses state takes effect (R460, R465). A fused substitution's spare serves from then on
(R19); the other spares enter service when the image is applied. -/
def setRepair (w : World) : World :=
  let cores := entriesOf w 1
  let w := forAll (List.range 16) (fun c w =>
    let fused := match Config.fusedCore c with
      | some k => 2 ^ (k % 16)
      | none => 0
    let m := (cores.filter (fun e => le e 2 1 = c)).foldl (fun m e => m ||| 2 ^ le e 3 1) fused
    let m := ((coresSpent w).filter (fun n => n / 16 = c)).foldl (fun m n => m ||| 2 ^ (n % 16)) m
    fldSet w (rRAS_CLUSTER c) 0 17 m) w
  let ppr := entriesOf w 3
  let w := forAll (List.range 12) (fun s w =>
    fldSet (fldSet w (rRAS_HBM s) 0 16 (Config.pprRows s)) (rRAS_HBM s) 16 16 (Config.fusedPpr s + (ppr.filter (fun e => le e 2 1 = s)).length)) w
  let w := forAll [0, 1, 2, 3] (fun l w => fldSet w (rD2D_LINK_STATUS l) 8 8 (min 255 (lanesRepaired w l))) w
  let lanes := (entriesOf w 5).foldl (fun m e => mset m (le e 2 1) (mgetD m (le e 2 1) 0 ||| 2 ^ le e 3 1)) ([] : Map Nat)
  let units := (entriesOf w 7).foldl (fun l e => sIns l (le e 2 2)) ([] : List Nat)
  let units := ([16, 17, 18, 19].filter (fun p => mgetD lanes p 0 ≠ 0)).foldl (fun l p => sIns l (portUnit p)) units
  let fused := (List.range 16).foldl (fun m c => match adoption w 0 c with
    | some k => mset m c k
    | none => m) ([] : Map Nat)
  rasRefresh { w with ras := { w.ras with lanes := lanes, retired := units, adopted := fused } }

/-- The same after the ROM has built the tree: units retired by it are logged, and a tree change (R28). A chiplet link that has
no redundant lane left is isolated, as by a retry limit (DESIGN CHOICE: R465 gives no reason code). -/
def applyRepair (w : World) : World :=
  let v := setRepair w
  let v := forAll (v.ras.retired.filter (fun u => !(w.ras.retired.contains u))) (fun u w => rasLog kindUnit 0 u none false 0 w) v
  let v := if lanesSpent v 3 then isolate 7 v else v
  if repairView v = repairView w then v else treeChange v

/-- Source units without which the module cannot serve (R463): hart 0, front-end microcontrollers, FTB, IOD. -/
def vitalUnit (u : Nat) : Bool := u = 0x0E0 || (0x090 ≤ u && u ≤ 0x097) || u = 0x0A1 || u = 0x026

/-- A unit has more failing rows than spare rows, with those that fuse repair has used (R460). -/
def rowsSpent (rows : List (List Byte)) (unit spares : Nat) : Bool :=
  let n := (rows.filter (fun e => le e 2 2 = unit)).length
  n ≠ 0 && decide (spares < Config.fusedRows unit + n)

/-- A condition of R463 holds. -/
def beyondRepair (w : World) : Bool :=
  let rows := entriesOf w 2
  fld w rRAS_STATUS 1 1 = 1 || w.ras.retired.any vitalUnit ||
  (List.range 12).any (fun s => decide (4096 < fld w (rRAS_HBM s) 32 13)) ||
  (List.range 12).any (fun s => rowsSpent rows (0x040 + s) 64) || rowsSpent rows 0x026 128 ||
  [0, 1, 2].any (lanesSpent w) ||
  (List.range 16).all (fun c => clusterCores w (imSpares w.boot.image) c = 0)

/-! ### Training and self-test (R447, R461, R462) -/

def trainUnits : List Nat := List.range 12 ++ (List.range 16).map (· + 16) ++ [32, 33, 34]

def trained (w : World) : Bool := trainUnits.all (fun u => w.boot.trained.contains u)

/-- In phase REPAIR the programme runs once everything has trained, unless the module is unserviceable. -/
def startProgramme (w : World) : World :=
  if bootPhase w = 5 && trained w && fld w rRAS_STATUS 1 1 = 0 then fldSet w rRAS_STATUS 3 1 1 else w

/-- A trained internal link is ACTIVE with all its modules. -/
def linkTrained (l : Nat) (w : World) : World :=
  fldSet (fldSet w (rD2D_LINK_STATUS l) 0 2 2) (rD2D_LINK_STATUS l) 16 8 (fld w (rD2D_LINK_STATUS l) 24 8)

/-- TRAINING_COMPLETE: a stack (0-11), channel (16-31) or internal Finov link (32-34) trains, or cannot; an internal
link that retrains (R421) comes back, or its failure is fatal (R468). -/
def trainingComplete (u : Nat) (ok : Bool) (w : World) : World :=
  if 32 ≤ u && u < 35 && w.boot.trained.contains u && fld w (rD2D_LINK_STATUS (u - 32)) 0 2 = 1 && ok then
    linkTrained (u - 32) w
  else if 32 ≤ u && u < 35 && w.boot.trained.contains u && fld w (rD2D_LINK_STATUS (u - 32)) 0 2 = 1 then
    unserviceable kindFinov (linkUnit (u - 32)) (u - 32) w
  else if !(trainUnits.contains u) || w.boot.trained.contains u || bootPhase w < 3 || 5 < bootPhase w then w
  else if !ok then fldSet w rRAS_STATUS 1 1 1
  else
    let w := updBoot (fun b => { b with trained := sIns b.trained u }) w
    let w := if 32 ≤ u then openCredits (u - 32) (List.range 7) (linkTrained (u - 32) w) else w
    startProgramme w

def execTrainingComplete (u : Nat) (ok : Bool) (s : State) := run (trainingComplete u ok) s

/-- A programme leaves memory undefined (R461): every byte that something had written is a free value. -/
def memUndefined (w : World) : World :=
  let r := w.mem.bytes.foldl (fun (a : Map Byte × World) p =>
    (byteSet a.1 p.1 (BitVec.ofNat 8 (freeVal a.2)), freeUsed a.2)) ([], w)
  { r.2 with mem := { r.2.mem with bytes := r.1, poison := [], lines := [] } }

/-- A programme is over. -/
def programmeDone (w : World) : World := memUndefined (fldSet w rRAS_STATUS 3 1 0)

/-- REPAIR ends: on to APPLY, unless the module is unserviceable (R463). -/
def repairDone (w : World) : World :=
  if beyondRepair w then fldSet w rRAS_STATUS 1 1 1 else setBootPhase 6 w

/-- BOOT_CHECK_COMPLETE: `found` are the units that fail, as entries of a record. One that the record does not show as
failed leads to boot self-test. -/
def bootCheckComplete (found : List (List Byte)) (w : World) : World :=
  if bootPhase w ≠ 5 || fld w rRAS_STATUS 3 1 = 0 || bootRecord w ≠ 1 then w
  else if found.any (fun e => !(w.ras.record.contains e)) then
    applyRepair { setBootRecord 5 w with ras := { w.ras with record := [] } }
  else repairDone (programmeDone w)

def execBootCheckComplete (found : List (List Byte)) (s : State) := run (bootCheckComplete found) s

/-- BOOT_SELF_TEST_COMPLETE: `found` are the repairs chosen and the units that fail, as entries of a record. -/
def bootSelfTestComplete (found : List (List Byte)) (w : World) : World :=
  if bootPhase w ≠ 5 || fld w rRAS_STATUS 3 1 = 0 || bootRecord w = 1 then w
  else repairDone (applyRepair (forAll (found.filter entryOk) addEntry (programmeDone w)))

def execBootSelfTestComplete (found : List (List Byte)) (s : State) := run (bootSelfTestComplete found) s

/-! ### Objects (R448 to R452) -/

/-- A component of a bundle is in range and matches its digest. R449's fields fill 40 bytes of an entry of 32: where the last 8
bytes of the digest lie is left open. -/
def componentOk (bs : List Byte) (i : Nat) : Bool :=
  let at_ := 128 + 32 * i
  let off := le bs (at_ + 8) 8
  let len := le bs (at_ + 16) 8
  let comp := (bs.drop off).take len
  decide (off + len ≤ bs.length - 104) && (List.range 16).all (fun n =>
    Config.sha384 comp n = (if n < 8 then bs.getD (at_ + 24 + n) 0 else Config.digestRest bs i n))

/-- The error of a bundle, 0 if it verifies (R449, R461). -/
def bundleError (bs : List Byte) : Nat :=
  let n := le bs 12 4
  if !(Config.signed 0 bs) then 1
  else if le bs 0 1 ≠ 1 then 2
  else if le bs 8 4 < Config.minGen then 3
  else if le bs 4 4 ≠ bs.length || 2 ^ 24 < bs.length || n = 0 || 32 < n || bs.length < 128 + 32 * n + 104 then 4
  else if (List.range n).all (componentOk bs) && (List.range n).any (fun i => le bs (128 + 32 * i) 1 = 5) then 0
  else 5

/-- A bundle in phase AWAIT_BUNDLE. -/
def presentBundle (bs : List Byte) (w : World) : World :=
  let e := bundleError bs
  let w := bootError e w
  if e ≠ 0 then w
  else setBootPhase 3 (fldSet (updBoot (fun b => { b with bundle := bs }) w) rGLB_BOOT_STATUS 32 32 (le bs 8 4))

/-- An image is rejected. -/
def rejectImage (reason : Nat) (w : World) : World :=
  fldSet (fldSet w rGLB_LLYN_STATUS 0 4 3) rGLB_LLYN_STATUS 8 8 reason

/-- GLB_BOOT_STATUS.error for a reason: its codes 1, 2 and 4; for another inconsistency the spec states none. -/
def imageError (r : Nat) (bs : List Byte) (w : World) : World :=
  if r ≤ 2 then bootError r w
  else if r = 4 && (le bs 4 4 ≠ bs.length || 2 ^ 20 < bs.length) then bootError 4 w
  else bootError (freeVal w) (freeUsed w)

/-- An image starts LOADING: an image that is CONFIGURED is unloaded at once, then the checks run (R451). -/
def loadImage (bs : List Byte) (w : World) : World :=
  let live := llynState w = 2 || llynState w = 4
  let w := fldSet (fldSet w rGLB_LLYN_STATUS 0 4 1) rGLB_LLYN_STATUS 8 8 0
  let w := updBoot (fun b => { b with image := [] }) (if live then unloadImage w else w)
  let r := imgReason w bs
  let w := imageError r bs w
  if r ≠ 0 then rejectImage r w
  else setBootPhase (if bootPhase w = 3 then 4 else 6) (updBoot (fun b => { b with image := bs }) w)

/-- An image, by phase (R448, R454, R463). -/
def presentImage (bs : List Byte) (w : World) : World :=
  let w := fldSet w rGLB_LLYN_STATUS 32 32 (le bs 8 4)
  let ph := bootPhase w
  let st := llynState w
  if fld w rRAS_STATUS 1 1 = 1 then rejectImage 4 (imageError 4 bs w)
  else if ph = 2 then rejectImage 5 (bootError 10 w)
  else if ph = 3 then loadImage bs w
  else if ph = 7 && (st = 3 || (st = 4 && w.fe.ctxs.isEmpty)) then loadImage bs w
  else if ph = 7 then fldSet w rGLB_LLYN_STATUS 8 8 6
  else bootError 10 w

/-- A repair record in phase AWAIT_RECORD: it is applied, or REPAIR runs boot self-test. -/
def presentRecord (bs : List Byte) (w : World) : World :=
  let w := match readRecord w bs with
    | .error c => setBootRecord c w
    | .ok body => updBoot (fun b => { b with sequence := le bs 24 8 })
        (setBootRecord 1 { w with ras := { w.ras with record := bodyEntries body } })
  startProgramme (applyRepair (setBootPhase 5 (bootError 0 w)))

/-- Presents the first `len` bytes of the boot buffer as object 1, 2 or 3. -/
def presentObject (object len : Nat) (w : World) : World :=
  let bs := listAt w.boot.buf 0 (min len (2 ^ 24 + 1))
  let ph := bootPhase w
  if object = 1 && ph = 2 then presentBundle bs w
  else if object = 2 then presentImage bs w
  else if object = 3 && ph = 4 then presentRecord bs w
  else bootError 10 w

/-- The phases in which GLB_BOOT_CMD is served. -/
def bootServes (w : World) : Bool := 2 ≤ bootPhase w && decide (bootPhase w ≤ 7)

/-- FETCH: reading an object over PCIe starts; it is dropped while the responder is bound. -/
def bootFetch (w : World) : World :=
  if !(bootServes w) || w.boot.fetching then w
  else if w.boot.bound.isSome then bootError 11 w
  else bootBusy (updBoot (fun b => { b with fetching := true }) w)

def execFetch (s : State) := run bootFetch s

/-- FETCH_COMPLETE: the object has been read and is presented, or its read failed. -/
def fetchComplete (ok : Bool) (w : World) : World :=
  if !w.boot.fetching then w
  else
    let w := bootBusy (updBoot (fun b => { b with fetching := false }) w)
    if !ok || w.pwr.pcieDown.isSome then bootError 6 w
    else
      let len := fld w rGLB_BOOT_LEN 0 32
      let bs := listAt w.mem.host (rg w rGLB_BOOT_SRC) (min len (2 ^ 24 + 1))
      presentObject (fld w rGLB_BOOT_LEN 32 4) len (updBoot (fun b => { b with buf := listSet [] 0 bs }) w)

def execFetchComplete (ok : Bool) (s : State) := run (fetchComplete ok) s

/-- SKIP_RECORD: AWAIT_RECORD ends, and boot self-test will run. -/
def skipRecord (w : World) : World := if bootPhase w = 4 then startProgramme (applyRepair (setBootPhase 5 w)) else w

def execSkipRecord (s : State) := run skipRecord s

/-! ### The boot responder (R453) -/

def responderOn (w : World) : Bool := 2 ≤ bootPhase w && decide (bootPhase w ≤ 4)

/-- A reply to a sender: its type, the object, the sequence echoed, the offset and length. -/
def bootReply (dst typ object seq off len : Nat) (payload : List Byte) (w : World) : World :=
  emit .boot [dst] ([1, BitVec.ofNat 8 typ, BitVec.ofNat 8 object, 0] ++ natLe seq 4 ++ natLe off 4 ++ natLe len 4 ++ payload) w

/-- STATUS carries GLB_BOOT_STATUS. -/
def statusReply (src object seq : Nat) (w : World) : World :=
  bootReply src 2 object seq 0 8 (natLe (rg w rGLB_BOOT_STATUS) 8) w

/-- A datagram of the sender the responder is bound to. -/
def bootHeard (src : Nat) (w : World) : World :=
  if w.boot.bound = some src then updBoot (fun b => { b with heard := w.now }) w else w

def boundElse (w : World) (src : Nat) : Bool := match w.boot.bound with
  | some s => s ≠ src
  | none => false

def execStatusReq (src object seq : Nat) (s : State) := run (fun w => if responderOn w then statusReply src object seq (bootHeard src w) else w) s

/-- PUT: the payload goes into the boot buffer, and the first one binds the responder to its sender. -/
def bootPut (src object seq off : Nat) (data : List Byte) (w : World) : World :=
  if !(responderOn w) || 8192 < data.length then w
  else if boundElse w src || w.boot.fetching then statusReply src object seq w
  else
    let data := data.take (2 ^ 24 - off)
    let w := bootBusy (updBoot (fun b => { b with bound := some src, heard := w.now, buf := listSet b.buf off data }) w)
    bootReply src 4 object seq off data.length [] w

def execPut (src object seq off : Nat) (data : List Byte) (s : State) := run (bootPut src object seq off data) s

/-- COMMIT: the object is presented and the binding ends; the acknowledgement carries the error. -/
def bootCommit (src object seq len : Nat) (w : World) : World :=
  if !(responderOn w) then w
  else if boundElse w src || w.boot.fetching then statusReply src object seq w
  else
    let w := bootBusy (presentObject object len (updBoot (fun b => { b with bound := none }) w))
    bootReply src 6 object seq 0 1 [BitVec.ofNat 8 (fld w rGLB_BOOT_STATUS 8 8)] w

def execCommit (src object seq len : Nat) (s : State) := run (bootCommit src object seq len) s

/-- RESPONDER_BINDING_TIMEOUT: 10 s without a datagram. -/
def bindingTimeout (w : World) : World :=
  if w.boot.bound.isSome && w.boot.heard + 10 ^ 10 ≤ w.now then
    bootBusy (updBoot (fun b => { b with bound := none }) w) else w

def execResponderBindingTimeout (s : State) := run bindingTimeout s

/-! ### Phases POWER_UP, ROM and APPLY (R447) -/

/-- POWER_GOOD: the rail and the IVRs are in regulation, PWRGD rises and the boot ROM starts. DESIGN CHOICE: whether factory
test has ended since the last power-up, so that the CSB has fused the move from MANUFACTURE to PRODUCTION (R459), is a free
choice. -/
def powerGood (w : World) : World :=
  let p := w.pins
  if !p.awake || !p.pwrEn || !p.rstN || p.trip || p.pwrgd || bootPhase w ≠ 0 then w
  else
    let w := if fld w rRAS_LIFECYCLE 0 2 = 0 && freeVal w % 2 = 1 then fldSet w rRAS_LIFECYCLE 0 2 1 else w
    setBootPhase 1 (pinOut 0 1 { freeUsed w with pins := { p with pwrgd := true } })

def execPowerGood (s : State) := run powerGood s

/-- ROM_COMPLETE: the fuses are read, PCIe is trained, every domain is ON and the responder runs. DESIGN CHOICE: what the
ROM sets, GLB_UDGEN.count, PWR_DOM and PWR_OP, reads 0 until then; R7 and R32 say only that the boot ROM sets it. -/
def romComplete (w : World) : World :=
  if bootPhase w ≠ 1 || !w.pins.perstN then w
  else
    let w := forAll (List.range 144) (fun d w => fldSet w (rPWR_DOM d) 0 4 2) w
    let w := forAll [(0, 36), (1, 8), (2, 8), (3, 1)] (fun l w => fldSet w (rD2D_LINK_STATUS l.1) 24 8 l.2) w
    let w := forAll (if Config.variantA then [0, 1, 2, 3] else [0, 1, 2]) (fun l w => fldSet w (rD2D_LINK_STATUS l) 0 2 1) w
    let w := forAll [0, 1, 2, 3] (fun d w =>
      let mhz := 800 + 25 * (Config.bootMhz d % 47)
      rgSet w (rPWR_OP d) (Config.vf d mhz % 2 ^ 16 * 2 ^ 48 + mhz * 2 ^ 16 + mhz)) w
    let w := setRepair (updPwr (fun p => { p with pcieDown := none }) w)
    setBootPhase 2 (fldSet w rGLB_UDGEN 32 32 (treeCount w))

def execRomComplete (s : State) := run romComplete s

/-- APPLY_COMPLETE: the image is applied; the responder stops. -/
def applyComplete (w : World) : World :=
  if bootPhase w ≠ 6 || llynState w ≠ 1 then w
  else
    let w := updBoot (fun b => { b with bound := none }) (applyImage w.boot.image w)
    bootBusy (setBootPhase 7 w)

def execApplyComplete (s : State) := run applyComplete s

/-- QUIESCE, from the holder while CONFIGURED: a paired twin detaches as commanded (R454). -/
def quiesce (agent : Nat) (w : World) : World :=
  if agent = holder w && configured w && llynState w = 2 then commandedDetach (fldSet w rGLB_LLYN_STATUS 0 4 4) else w

def execQuiesce (agent : Nat) (s : State) := run (quiesce agent) s

/-! ### Shutdown (R455, R464) -/

/-- The domains the shutdown programme tests (R461): all but Saffron's and Cassia's, PCIe's and the chiplet's. -/
def shutdownDomains : List Nat := (List.range 96) ++ (List.range 32).map (· + 110)

/-- Every domain that the programme tests is ON while it runs. -/
def testDomainsOn (w : World) : World := forAll shutdownDomains (fun d w =>
  if domState w d ≠ 0 then w
  else
    let w := setDom d 2 false w
    if isHartGroup d then forAll (groupHarts d) hartHeld w else w) w

/-- SHUTDOWN with a buffer of `kib` KiB: the image is unloaded and the shutdown programme runs. -/
def shutdownCmd (kib : Nat) (w : World) : World :=
  let st := llynState w
  let dest := rg w rPWR_ARG
  if !(st = 0 || (st = 4 && w.fe.ctxs.isEmpty)) then pwResult pwInUse w
  else if kib < 256 || (holder w = 1 && !(inHost dest && inHost (dest + kib * 1024 - 1))) then pwResult pwBadArg w
  else
    let w := pwBegin ⟨5, kib, dest⟩ w
    let w := fldSet (fldSet w rGLB_LLYN_STATUS 0 4 0) rRAS_STATUS 3 1 1
    testDomainsOn (if st = 4 then updBoot (fun b => { b with image := [] }) (unloadImage w) else w)

def execShutdown (agent kib : Nat) (s : State) := run (pwCmd agent 5 kib (shutdownCmd kib)) s

/-- CE_HISTORY entries of the session. -/
def ceEntries (w : World) : List (List Byte) :=
  w.ras.ce.map (fun p => recEntry 8 (natLe p.1 2 ++ natLe (min p.2 (2 ^ 32 - 1)) 4))

/-- The record the shutdown programme writes. -/
def newRecord (entries : List (List Byte)) (w : World) : List Byte :=
  let body := [1, 2, 0, 0] ++ natLe entries.length 4 ++ natLe (rg w rRAS_CE_COUNT) 8 ++ entries.flatten
  let header := [1, 0, 0, 0, 0, 0, 0, 0] ++ natLe (rg w rRAS_SERIAL) 8 ++ natLe (fld w rGLB_BOOT_STATUS 32 32) 4 ++
    natLe body.length 4 ++ natLe (w.boot.sequence + 1) 8 ++ List.replicate 32 0
  header ++ (List.range (body.length + 16)).map (Config.sealed (fld w rRAS_LIFECYCLE 0 2) header body)

/-- Every dirty line is written back. -/
def writeBackLines (only : Nat → Bool) (w : World) : World :=
  forAll (w.mem.lines.filter (fun l => l.2 && only (128 * l.1))) (fun l w => countBehind l.1 true w)
    { w with mem := { w.mem with lines := w.mem.lines.map (fun l => (l.1, l.2 && !(only (128 * l.1)))) } }

/-- Every domain goes OFF but those a record in the host tier keeps: the system cache, the LPDDR5X channels and hart
group 0. -/
def domainsOff (keep : Bool) (w : World) : World :=
  let w := forAll (List.range 144) (fun d w =>
    if keep && (d = 136 || d = 137 || d = 128) then w else setDom d 0 false (domLost d w)) w
  { w with mem := { w.mem with lines := if keep then w.mem.lines.filter (fun l => inHost (128 * l.1)) else [] } }

/-- SHUTDOWN_SELF_TEST_COMPLETE: `found` are entries the programme adds, `cleared` those its tests show as cleared. The
record is sealed and written, and the device is STOPPED. A record longer than its buffer is not written. -/
def shutdownTestComplete (found cleared : List (List Byte)) (w : World) : World :=
  match w.pwr.runs.find? (·.op = 5) with
  | none => w
  | some r =>
    let w := programmeDone w
    let all := (w.ras.record ++ w.ras.session ++ found.filter entryOk ++ ceEntries w).eraseDups
    let rec_ := newRecord (all.filter (fun e => !(cleared.contains e))) w
    if r.target * 1024 < rec_.length then pwEnd (fun x => x.op = 5) pwBadArg w
    else
      let keep := holder w = 1
      let w := if keep then devWrite byControl r.arg rec_ w else { w with mem := { w.mem with host := listSet w.mem.host r.arg rec_ } }
      let w := writeBackLines (fun a => !(keep && inHost a)) w
      setBootPhase 8 (pwEnd (fun x => x.op = 5) pwOK (domainsOff keep w))

def execShutdownSelfTestComplete (found cleared : List (List Byte)) (s : State) := run (shutdownTestComplete found cleared) s

end Sys2Proof.Machine
end

