-- ==== Sys2Proof/Machine/Cassia.lean ====
section
/-!
DEFINITION. Cassia (R195 to R205): OFFLOAD, PREFETCH and DISCARD, executed in release order, and page-ins. The model
moves a tensor's bytes when its OFFLOAD is acknowledged, a page's when it lands.
-/
namespace Sys2Proof.Machine

/-! ### The command (R197, R198) -/

def cOp (c : List Byte) : Nat := le c 1 1
def cSlot (c : List Byte) : Nat := le c 4 2
def cVa (c : List Byte) : Nat := le c 8 8
def cLen (c : List Byte) : Nat := le c 16 8

/-- R197's table is broken; an OFFLOAD needs a length, the others may leave it 0. -/
def cBad (c : List Byte) : Bool :=
  le c 0 1 ≠ 1 || cOp c = 0 || decide (3 < cOp c) || decide (1 < le c 2 1) || le c 3 1 ≠ 0 || le c 6 2 ≠ 0 ||
  decide (2 ^ 57 ≤ cVa c) || cVa c % 65536 ≠ 0 || cLen c % 65536 ≠ 0 || decide (2 ^ 40 - 65536 < cLen c) ||
  (cOp c = 1 && cLen c = 0) || decide (1024 ≤ le c 24 2) || le c 26 6 ≠ 0 || le c 40 24 ≠ 0

/-- Slots of a partition. -/
def casSlots (w : World) (p : Nat) : Nat := fld w (rCAS_PART_CFG p) 0 17

def casSlot (w : World) (key : Nat) : Option CasSlot := mget w.cas.slots key

def setSlot (key : Nat) (s : CasSlot) (w : World) : World := { w with cas := { w.cas with slots := mset w.cas.slots key s } }

def setRun (r : Option CasRun) (w : World) : World := { w with cas := { w.cas with run := r } }

def casPool (w : World) (p : Nat) : Pool := mgetD w.cas.pools p blankPool

/-- The Cassia command to execute next: the earliest released (R199). -/
def casNext (w : World) : Option (Nat × Work) :=
  (w.fe.works.filter (fun x => x.2.kind = 2 && x.2.fin = none)).foldl (fun b x => match b with
    | none => some x
    | some y => if x.2.order < y.2.order then some x else b) none

/-- A command that Cassia rejects (R198). -/
def casReject (k st : Nat) (w : World) : World := finWork k st (bump w rCAS_REJECT 1)

/-- R198's OBJECT_GONE: an OFFLOAD whose range holds an unmapped page, or one of a draining or freed object. Of a structure
of another version no field has a meaning. -/
def offGone (w : World) (x : Work) : Bool :=
  le x.cmd 0 1 = 1 && cOp x.cmd = 1 &&
    (decide (2 ^ 57 < cVa x.cmd + cLen x.cmd) || rangeGone w x.ctx (cVa x.cmd) (cLen x.cmd) x.stamp)

/-- Starts a command of one op, when no other runs, no page-in is to come first (R203) and it is next. One stopped before it starts ends at once. The
statuses stand in R13's order. -/
def casStart (op : Nat) (f : Nat → Work → World → World) (k : Nat) (w : World) : World :=
  match workRuns w k 2 with
  | none => w
  | some x =>
    if w.cas.run.any (fun r => r.work = k) then w
    else if x.stop ≠ none then finStopped k w
    else if w.cas.run.isSome || !w.cas.pageIns.isEmpty || (casNext w).map (·.1) ≠ some k then w
    else if offGone w x then casReject k stObjGone w
    else if cBad x.cmd then casReject k stVersion w
    else if cOp x.cmd ≠ op then w
    else f k x w

/-! ### OFFLOAD (R200) -/

/-- The leaves of a range, each once, with their entries. -/
def rangeLeaves (w : World) (ctx va len : Nat) : List (CasMove × Nat) :=
  (vaPages va len).filterMap (fun a => match walk w ctx a with
    | .ok l =>
      if l.level = 0 || a % 2 ^ 21 = 0 || a = va then some (⟨a, l.level, pteFrame l.pte⟩, l.pte) else none
    | .error _ => none)

/-- A leaf that OFFLOAD does not take (R198): off-loaded, not NORMAL, or part of a 2 MiB page. -/
def leafRefused (va len : Nat) (x : CasMove × Nat) : Bool :=
  pteKind x.2 ≠ 1 || pteAttr x.2 ≠ 0 ||
  (x.1.level = 1 && (x.1.va % 2 ^ 21 ≠ 0 || decide (va + len < x.1.va + 2 ^ 21)))

/-- Sets the kind of a leaf that Cassia moves. -/
def setKind (ctx kind : Nat) (m : CasMove) (w : World) : World :=
  let key := pteKey ctx m.level m.va
  setPte key (setBits (mgetD w.mem.pte key 0).toNat 62 2 kind) w

def moveKeys (ctx : Nat) (ms : List CasMove) : List Nat := ms.map (fun m => pteKey ctx m.level m.va)

/-- OFFLOAD starts: host pages are taken and the range's pages marked leaving, or the slot is RETAINED. -/
def offload (k : Nat) (x : Work) (w : World) : World :=
  let va := cVa x.cmd
  let len := cLen x.cmd
  let key := casKey x.part (cSlot x.cmd)
  let ls := rangeLeaves w x.ctx va len
  if casSlots w x.part ≤ cSlot x.cmd || (casSlot w key).isSome || ls.any (leafRefused va len) then
    casReject k stVersion w
  else
    let slot (st : SlotSt) (pages : List Nat) : CasSlot := { st := st, owner := x.ctx, va := va, len := len, pages := pages }
    match allocN false (len / 65536) (casPool w x.part) with
    | none => finWork k stOK (bump (setSlot key (slot .retained []) w) rCAS_NOSPACE 1)
    | some (fs, pool) =>
      let ms := ls.map (·.1)
      let w := setSlot key (slot .out fs) { w with cas := { w.cas with pools := mset w.cas.pools x.part pool } }
      let w := forAll ms (setKind x.ctx 2) (setRun (some { work := k, op := 1, slot := key, moves := ms, moved := false }) w)
      invalidate (moveKeys x.ctx ms) .nothing w

def execOffload (k : Nat) (s : State) := run (casStart 1 offload k) s

/-- A page of a MAP goes off-loaded, or an alias's or a model's own page: its frame returns to its pool. A frame that an
alias or a model names too stays with the object until it ends, and a frame that belongs to the storage or to the model
stays there (DESIGN CHOICE: R200 does not speak of such pages). -/
def leaveFrame (ctx part : Nat) (m : CasMove) (w : World) : World :=
  let free := freePages (inHost m.frame) part (m.level = 1) [m.frame]
  match objAt w ctx m.va with
  | none => free w
  | some (id, o) =>
    let shared := !((aliasesOf w id).isEmpty) || w.mem.models.any (fun x => x.2.warm = id)
    if o.kind = .map then
      if shared && (mget o.kept m.va).isNone then updObj id (fun o => { o with kept := mset o.kept m.va m.frame }) w
      else free w
    else if mget o.kept m.va = some m.frame then free (updObj id (fun o => { o with kept := mdel o.kept m.va }) w)
    else w

/-- Moves one leaf of an OFFLOAD: its bytes to the slot's pages, its entry to the off-loaded mark. -/
def offloadLeaf (ctx part key : Nat) (s : CasSlot) (m : CasMove) (w : World) : World :=
  let big := m.level = 1
  let n := pageBytes big
  let i := (m.va - s.va) / 65536
  let w := iter (n / 65536) (fun j w => copyPage (m.frame + 65536 * j) (nth s.pages (i + j) 0) 65536 w) w
  let pk := pteKey ctx m.level m.va
  setPte pk (offWord (mgetD w.mem.pte pk 0).toNat i (key % 65536) part) (dropLines m.frame n w)

/-- The translations of a Cassia command's last leaves are confirmed invalid (R252): an OFFLOAD's frames return to the
pools they came from and its slot is HOST, a PREFETCH's slot is FREE, and the command completes; an OFFLOAD stopped before
its transfer frees its slot. -/
def casConfirmed (k : Nat) (w : World) : World :=
  match w.cas.run with
  | none => w
  | some r => match casSlot w r.slot, getWork w r.work with
    | some s, some x =>
      if r.work ≠ k then w
      else if r.op = 1 && r.moved then
        finWork k stOK (setRun none (setSlot r.slot { s with st := .host } (forAll r.moves (leaveFrame s.owner x.part) w)))
      else if r.op = 1 then finStopped k (casFree r.slot (setRun none w))
      else finWork k stOK (casFree r.slot (setRun none w))
    | _, _ => setRun none w

/-- Is the running command's end held only by its last translations? -/
def casEnding (w : World) (k : Nat) : Bool := w.mem.inval.any (fun r => r.cont = .casDone k)

/-- OFFLOAD_ACKNOWLEDGED: every write of the running OFFLOAD is acknowledged and its leaving pages' translations are confirmed
invalid: its leaves are marked off-loaded. A stopped one restores its pages (R205). Either way it ends once the translations
of the changed leaves are confirmed invalid (R252). -/
def offloadAck (w : World) : World :=
  match w.cas.run with
  | none => w
  | some r => match casSlot w r.slot, getWork w r.work with
    | some s, some x =>
      if r.op ≠ 1 || casEnding w r.work then w
      else if x.stop ≠ none then
        invalidate (moveKeys s.owner r.moves) (.casDone r.work) (forAll r.moves (setKind s.owner 1) w)
      else if invPending w (moveKeys s.owner r.moves) then w
      else if !(admits w 1 x.part) then holdReq 1 x.part w
      else
        let w := forAll r.moves (offloadLeaf s.owner x.part r.slot s) (charge 1 x.part s.len w)
        let w := setRun (some { r with moved := true }) (bump w rCAS_BYTES_OUT s.len)
        invalidate (moveKeys s.owner r.moves) (.casDone r.work) w
    | _, _ => setRun none w

def execOffloadAcknowledged (s : State) := run offloadAck s

/-! ### PREFETCH (R201) and page-in (R203) -/

/-- Has the launch of an entry started: of a run, its lowest-index launch node (R311)? -/
def launchStarted (w : World) (q seq : Nat) : Bool := match queueOf w q with
  | none => false
  | some x => x.launched.contains seq

/-- A PREFETCH that starts after its needed-by launch is late (R204). -/
def lateNow (k : Nat) (x : Work) (w : World) : World :=
  if bit (le x.cmd 2 1) 0 && launchStarted w (le x.cmd 24 2) (le x.cmd 32 8) && !(w.cas.late.contains k) then
    bump { w with cas := { w.cas with late := sIns w.cas.late k } } rCAS_LATE 1
  else w

/-- The slot a PREFETCH or DISCARD names, if the command may use it: none for a slot that is FREE. -/
def ownSlot (w : World) (x : Work) : Option (Option CasSlot) :=
  if casSlots w x.part ≤ cSlot x.cmd then none
  else match casSlot w (casKey x.part (cSlot x.cmd)) with
    | some s => if s.owner = x.ctx then some (some s) else none
    | none => some none

/-- PREFETCH starts: a slot that is FREE or RETAINED is FREE at once, one that is HOST is brought in page by page. -/
def prefetch (k : Nat) (x : Work) (w : World) : World :=
  match ownSlot w x with
  | none => casReject k stVersion w
  | some slot =>
    let w := lateNow k x w
    let key := casKey x.part (cSlot x.cmd)
    match slot with
    | none => finWork k stOK w
    | some s =>
      if s.st = .host then
        setRun (some { work := k, op := 2, slot := key, moves := [], moved := false }) (setSlot key { s with st := .inn } w)
      else finWork k stOK (casFree key w)

def execPrefetch (k : Nat) (s : State) := run (casStart 2 prefetch k) s

/-- Is this entry off-loaded to the slot? -/
def offTo (key e : Nat) : Bool := pteKind e = 3 && casKey (pteOffPart e) (pteOffSlot e) = key

/-- The lowest leaf still off-loaded to a slot. -/
def nextOff (w : World) (key : Nat) (s : CasSlot) : Option CasMove :=
  ((rangeLeaves w s.owner s.va s.len).find? (fun x => offTo key x.2)).map (fun x => { x.1 with frame := 0 })

/-- The running PREFETCH waits for an HBM page (R201, R206). -/
def prefetchWaits (w : World) : Bool := match w.cas.run with
  | none => false
  | some r => r.op = 2 && (match casSlot w r.slot, getWork w r.work with
    | some s, some x => (match nextOff w r.slot s with
      | some m => (allocPage (m.level = 1) (hbmPool w x.part)).isNone
      | none => false)
    | _, _ => false)

/-- Copies an off-loaded page into an HBM page and maps it where it was; its invalidation follows (R252). -/
def bringIn (key : Nat) (s : CasSlot) (m : CasMove) (cont : InvCont) (w : World) : World :=
  let n := pageBytes (m.level = 1)
  let pk := pteKey s.owner m.level m.va
  let e := (mgetD w.mem.pte pk 0).toNat
  let w := iter (n / 65536) (fun j w => copyPage (nth s.pages (pteOffPage e + j) 0) (m.frame + 65536 * j) 65536 w) w
  let w := setPte pk (leafWord 1 (pteAttr e) (pteWp e) (pteLegacy e) (bit e 54) m.frame) w
  let w := match objAt w s.owner m.va with
    | some (id, o) => if o.kind = .map then w else updObj id (fun o => { o with kept := mset o.kept m.va m.frame }) w
    | none => w
  invalidate [pk] cont (charge 1 (key / 65536) n (bump w rCAS_BYTES_IN n))

/-- PREFETCH_PAGE_MAPPED: the next page of the running PREFETCH lands; after the last, once its translations are confirmed,
the slot is FREE. A stopped one leaves its slot HOST (R205). -/
def prefetchPage (w : World) : World :=
  match w.cas.run with
  | none => w
  | some r => match casSlot w r.slot, getWork w r.work with
    | some s, some x =>
      if r.op ≠ 2 || casEnding w r.work then w
      else if x.stop ≠ none then finStopped r.work (setSlot r.slot { s with st := .host } (setRun none w))
      else
        match nextOff w r.slot s with
        | none => finWork r.work stOK (casFree r.slot (setRun none w))
        | some m => match allocPage (m.level = 1) (hbmPool w x.part) with
          | none => w
          | some (f, pool) =>
            if !(admits w 1 x.part) then holdReq 1 x.part w
            else
              let more := ((rangeLeaves w s.owner s.va s.len).filter (fun y => offTo r.slot y.2)).length
              bringIn r.slot s { m with frame := f } (if more = 1 then .casDone r.work else .nothing)
                (setPool false x.part pool w)
    | _, _ => setRun none w

def execPrefetchPageMapped (s : State) := run prefetchPage s

/-- DISCARD (R202). -/
def discard (k : Nat) (x : Work) (w : World) : World :=
  match ownSlot w x with
  | none => casReject k stVersion w
  | some none => finWork k stOK w
  | some (some _) => finWork k stOK (casFree (casKey x.part (cSlot x.cmd)) w)

def execDiscard (k : Nat) (s : State) := run (casStart 3 discard k) s

/-- PAGE_IN_COMPLETE: the oldest page-in maps its page, once it has an HBM page. One that a PREFETCH has overtaken
returns it. -/
def pageInComplete (w : World) : World :=
  match w.cas.pageIns with
  | [] => w
  | p :: rest =>
    let r := pageInFrame p w
    let part := p.slot / 65536
    let w := { r.2 with cas := { r.2.cas with pageIns := r.1 :: rest } }
    match r.1.frame, casSlot w p.slot with
    | none, _ => w
    | some f, none => freePages false part (p.level = 1) [f] { w with cas := { w.cas with pageIns := rest } }
    | some f, some s =>
      let e := pteOf w p.ctx p.level p.va
      let done := { w with cas := { w.cas with pageIns := rest } }
      if !(offTo p.slot e) then freePages false part (p.level = 1) [f] done
      else if !(admits w 1 part) then holdReq 1 part w
      else bringIn p.slot s ⟨p.va, p.level, f⟩ .nothing done

def execPageInComplete (s : State) := run pageInComplete s

/-! ### What follows an invalidation (R252) -/

/-- What an invalidation was for. -/
def runCont (c : InvCont) (w : World) : World :=
  match c with
  | .nothing => w
  | .finish work status => memDone work status w
  | .freePages part host frames => forAll frames (fun f w => freePages host part f.2 [f.1] w) w
  | .freeObj id pages slots => finishFree id pages slots w
  | .mapIo => fldSet { w with fe := { w.fe with ctxRun := none } } rFE_CTX_RESULT 63 1 0
  | .casDone k => casConfirmed k w
  | .reloaded frame units part bad =>
    reloadDone (freePages false part (units = 32) [frame] (retirePage bad (unhold frame units w)))
  | .modelHot k => match modelOf w k with
    | some m => updModel k (fun m => { m with waiters := [] }) (forAll m.waiters (fun x w => memDone x stOK w) w)
    | none => w

/-- TLB_INVALIDATE_CONFIRMED: every holder has confirmed the oldest invalidation in progress. -/
def tlbConfirmed (w : World) : World :=
  match w.mem.inval with
  | [] => w
  | r :: rest =>
    let w := { w with mem := { w.mem with inval := rest } }
    let w := bump (tlbDrop r.keys w) rMEM_TLB_SHOOT r.keys.length
    runCont r.cont w

def execTlbInvalidateConfirmed (s : State) := run tlbConfirmed s

end Sys2Proof.Machine
end

