-- ==== Sys2Proof/Machine/Chiplet.lean ====
section
/-!
DEFINITION. The chiplet site (R430 to R434): negotiation, chiplet commands, and the Frame I/O chiplet's own operations.
-/
namespace Sys2Proof.Machine

/-! ### Negotiation (R430 to R432) -/

/-- The IOD's offer: version 1, generation 1, channels 0 to 6, 52 bits of address, and the credits of its receivers (R428). Its
vendor and device are left open. -/
def capOffer (w : World) : List Byte :=
  natLe (freeVal w) 4 ++ [1, 1] ++ natLe 0x7F 2 ++ [52, 0] ++
    (List.range 7).flatMap (fun c => natLe (ownCredits 3 c false) 1 ++ natLe (ownCredits 3 c true) 1) ++ List.replicate 8 0

/-- The credits at the start of a negotiation: the device may spend 2 of headers and 4 of data on MGMT. DESIGN CHOICE: the
chiplet's messages are held to what the IOD offers, from the start, since the IOD does not see when it has the offer. -/
def openSite (w : World) : World :=
  updFlits (fun f => { f with can := mset (mset f.can (creditKey 3 chMgmt false) 2) (creditKey 3 chMgmt true) 4 })
    (openCredits 3 (List.range 7) (closeLink 3 w))

/-- CHIPLET_LINK_ACTIVE: the site's link has trained, and each side sends CAP; a link without a redundant lane left for a
failed one is isolated (R465). -/
def chipletLinkActive (w : World) : World :=
  if !Config.variantA || !(fld w (rPWR_DOM 143) 0 3 = 1 || fld w (rPWR_DOM 143) 0 3 = 2) || fld w (rD2D_LINK_STATUS 3) 0 2 ≠ 1 then w
  else
    let w := fldSet (fldSet w (rD2D_LINK_STATUS 3) 0 2 2) (rD2D_LINK_STATUS 3) 16 8 1
    let w := fldSet (fldSet w rD2D_CHIP_STATUS 0 2 1) rD2D_CHIP_STATUS 4 4 0
    let w := openSite (updD2d (fun d => { d with capAt := some w.now }) w)
    if lanesSpent w 3 then isolate 7 w else
    finovSend 3 0x50 0 0 fvOK (capOffer w) (freeUsed w)

def execChipletLinkActive (s : State) := run chipletLinkActive s

/-- The reason an offer is refused, or 0: version, required channels, then address width and credits. -/
def capReason (b : List Byte) : Nat :=
  let chans := le b 6 2 &&& 0x7F
  if le b 5 1 < 1 then 2
  else if chans &&& 0x53 ≠ 0x53 then 3
  else if le b 8 1 ≠ 57 ||
      (bitList chans 7).any (fun c => le b (10 + 2 * c) 1 < 2 || (carriesData c && le b (11 + 2 * c) 1 < 9)) then 4
  else 0

/-- The credits the chiplet offers are the device's for sending on the channels in use. DESIGN CHOICE: what the device had
spent of MGMT's 2 and 4, and not regained, stays spent. -/
def takeOffer (b : List Byte) (w : World) : World :=
  updFlits (fun f => { f with can := (bitList (le b 6 2) 7).foldl (fun c ch =>
    let spent (data : Bool) (n : Nat) : Nat := if ch = chMgmt then n - mgetD f.can (creditKey 3 ch data) 0 else 0
    mset (mset c (creditKey 3 ch false) (le b (10 + 2 * ch) 1 - spent false 2)) (creditKey 3 ch true)
      (le b (11 + 2 * ch) 1 - spent true 4)) f.can }) w

/-- CAP: the chiplet's offer makes the site ACTIVE at version 1 with the channels both have, or isolates it. -/
def capReceived (m : FinovMsg) (w : World) : World :=
  let b := m.data.flatten
  match w.d2d.capAt with
  | none => w
  | some t =>
    if fld w rD2D_CHIP_STATUS 0 2 ≠ 1 then w
    else if t + 1000000 < w.now then isolate 1 w
    else
      let r := capReason b
      let offered := le b 0 2 * 2 ^ 48 + le b 2 2 * 2 ^ 32 + le b 4 1 * 2 ^ 24
      if r ≠ 0 then isolate r (rgSet w rD2D_CHIP_CAP0 offered)
      else
        let w := takeOffer b (rgSet w rD2D_CHIP_CAP0 (offered + 2 ^ 16 + (le b 6 2 &&& 0x7F)))
        pumpOut 3 chMgmt (fldSet w rD2D_CHIP_STATUS 0 2 2)

def execCap (flits : List Byte) (s : State) := run (finovRx 3 chMgmt 0x50 flits capReceived) s

/-- CAP_TIMEOUT: no CAP within 1 ms. -/
def execCapTimeout (s : State) :=
  run (fun w => match w.d2d.capAt with
    | some t => if fld w rD2D_CHIP_STATUS 0 2 = 1 && t + 1000000 ≤ w.now then isolate 1 w else w
    | none => w) s

/-- CHIPLET_RENEGOTIATE: an ISOLATED site retrains. The 1 ms begins when its link is active again. -/
def renegotiate (w : World) : World :=
  if !(configured w) || fld w rD2D_CHIP_STATUS 0 2 ≠ 3 then w
  else fldSet (fldSet (fldSet w (rD2D_LINK_STATUS 3) 0 2 1) rD2D_CHIP_STATUS 0 2 1) rD2D_CHIP_STATUS 4 4 0

def execChipletRenegotiate (s : State) := run renegotiate s

/-! ### Chiplet commands (R433) -/

/-- An earlier released CHIP command of the partition has not been sent: the chiplet takes each partition's commands in
release order (R344). -/
def chipBehind (w : World) (x : Work) : Bool :=
  w.fe.works.any (fun y => y.2.kind = 9 && y.2.part = x.part && y.2.fin = none && !y.2.begun && decide (y.2.order < x.order))

/-- CHIP: a released command is sent to the chiplet under a tag no running command has; at most 64 run. One of another
version, or while the site is not ACTIVE, is refused. -/
def chipStart (k tag : Nat) (w : World) : World :=
  match workRuns w k 9 with
  | none => w
  | some x =>
    if x.begun then w
    else if x.stop ≠ none then finStopped k w
    else if le x.cmd 0 1 ≠ 1 || !(chipActive w) then finWork k stVersion w
    else if chipBehind w x || 64 ≤ w.d2d.cmds.length || 65536 ≤ tag || w.d2d.cmds.any (·.tag = tag) then w
    else
      let w := updWork k (fun x => { x with begun := true }) w
      let w := updD2d (fun d => { d with cmds := d.cmds ++ [⟨tag, k, x.ctx, none⟩] }) w
      finovSend 3 0x51 tag 0 fvOK (x.cmd.take 64) w

def execChip (k tag : Nat) (s : State) := runFe (chipStart k tag) s

/-- CMD: the chiplet receives a command that was sent, once the message has left; `fields` is what it reads in bytes 63:2,
which the chiplet defines. -/
def cmdReceived (tag : Nat) (fields : List Nat) (w : World) : World :=
  match w.d2d.cmds.find? (·.tag = tag) with
  | none => w
  | some c =>
    if w.d2d.tasks.any (·.tag = tag) || (mgetD w.flits.wait (chanKey 3 chMgmt) []).any (fun m => m.opcode = 0x51 && m.tag = tag) then w
    else match getWork w c.work with
      | some x => updD2d (fun d => { d with tasks := d.tasks ++ [⟨tag, x.cmd.take 64, fields, c.abort.isSome⟩] }) w
      | none => w

def execCmd (tag : Nat) (fields : List Nat) (s : State) := run (cmdReceived tag fields) s

/-- ABORT: a command whose entry is being stopped (R334) is to end at its boundary. -/
def abortSent (tag : Nat) (w : World) : World :=
  match w.d2d.cmds.find? (·.tag = tag) with
  | none => w
  | some c =>
    if c.abort.isSome || !(workStopped w c.work) then w
    else
      let w := updD2d (fun d => { d with
        cmds := d.cmds.map (fun x => if x.tag = tag then { x with abort := some w.now } else x)
        tasks := d.tasks.map (fun x => if x.tag = tag then { x with abort := true } else x) }) w
      finovSend 3 0x52 tag 0 fvOK [] w

def execAbort (tag : Nat) (s : State) := run (abortSent tag) s

/-- The status of a result (R433). -/
def chipStatus (result : Nat) : Nat := match result with
  | 0 => stOK | 1 => stVersion | 2 => stObjGone | 3 => stPoison | _ => stVersion

/-- DONE: the chiplet ends a command. POISON loses its context (R12); a stopped command ends as it was stopped. -/
def chipEnd (tag result : Nat) (w : World) : World :=
  match w.d2d.cmds.find? (·.tag = tag) with
  | none => w
  | some c =>
    let stopped := workStopped w c.work
    let w := updD2d (fun d => { d with
      cmds := d.cmds.filter (·.tag ≠ tag), tasks := d.tasks.filter (·.tag ≠ tag) }) w
    if result = 3 then endByCause c.work stPoison 2 w
    else if stopped then finStopped c.work w
    else finWork c.work (chipStatus result) w

def execDone (flits : List Byte) (s : State) :=
  run (finovRx 3 chMgmt 0x53 flits (fun m => chipEnd m.tag (le m.data.flatten 0 1))) s

/-- ABORT_TIMEOUT: no DONE within 1 s of ABORT. -/
def abortTimeout (tag : Nat) (w : World) : World :=
  match w.d2d.cmds.find? (·.tag = tag) with
  | some c => (match c.abort with
    | some t => if t + 1000000000 ≤ w.now then isolate 5 w else w
    | none => w)
  | none => w

def execAbortTimeout (tag : Nat) (s : State) := run (abortTimeout tag) s

/-! ### The Frame I/O chiplet (R434) -/

/-- The chiplet at the site is the Frame I/O chiplet: what it reports (its addr_width of 57 is one that R431 asks of all). -/
def frameIo (w : World) : Bool :=
  fld w rD2D_CHIP_CAP0 48 16 = 0x4E4C && fld w rD2D_CHIP_CAP0 32 16 = 0x0F10 && fld w rD2D_CHIP_CAP0 24 8 = 1 &&
    fld w rD2D_CHIP_CAP0 0 16 = 0x0053

/-- A task of the Frame I/O chiplet with one op, not asked to stop before it began this part. -/
def taskOf (w : World) (tag op : Nat) : Option (ChipTask × ChipCmd) :=
  if !(frameIo w) then none
  else match w.d2d.tasks.find? (·.tag = tag), w.d2d.cmds.find? (·.tag = tag) with
  | some t, some c => if le t.cmd 1 1 = op && !t.abort then some (t, c) else none
  | _, _ => none

/-- A field the chiplet has read in a command. -/
def taskField (t : ChipTask) (i : Nat) : Nat := nth t.fields i 0

/-- DECODE: the chiplet has decoded frame `i` of a task's bitstream, and writes its bytes to the host tier from its
destination on. DESIGN CHOICE: the frame pitch leads from one frame to the next. What the decoder makes of the bitstream the
spec leaves to the chiplet: the bytes come with the command. A fault is returned to the chiplet, which ends with result 2. -/
def decodeFrame (tag i : Nat) (data : List Byte) (w : World) : World :=
  match taskOf w tag 1 with
  | none => w
  | some (t, c) =>
    let va := taskField t 0 + i * taskField t 1
    let r := rangeState c.ctx va data.length true (some c.work) w
    match r.1.1 with
    | .waits => r.2
    | .fault _ _ => r.2
    | .ready =>
      if (vaPages va data.length).all (fun p => match vaRead r.2 c.ctx p with | some pa => inHost pa | none => false) then
        vaDevWrite byControl c.ctx va data r.2
      else r.2

def execDecode (tag frame : Nat) (data : List Byte) (s : State) := run (decodeFrame tag frame data) s

/-- An output without a new frame puts its last one out again. -/
def sdiRepeat (out : Nat) (w : World) : World := match mget w.d2d.sdi out with
  | some b => emit .chiplet [out] b w
  | none => w

/-- SDI_FRAME, at a frame boundary of an output's genlock: a task's frame whose present key has been reached is read and goes
out; else the last one does. -/
def sdiFrame (tag out : Nat) (w : World) : World :=
  if 4 ≤ out || !(chipActive w) then w
  else match taskOf w tag 2 with
  | none => sdiRepeat out w
  | some (t, c) =>
    let va := taskField t 2
    let n := taskField t 3
    if taskField t 0 ≠ out || !(reachedKey w (taskField t 1)) then sdiRepeat out w
    else
      let r := rangeState c.ctx va n false (some c.work) w
      match r.1.1 with
      | .ready =>
        match poisonAt r.2 c.ctx va n with
        | some pa => sdiRepeat out (chipPoison tag pa r.2)
        | none =>
          let b := vaDevRead byControl c.ctx va n r.2
          emit .chiplet [out] b.1 (updD2d (fun d => { d with sdi := mset d.sdi out b.1 }) b.2)
      | _ => sdiRepeat out r.2

def execSdiFrame (tag out : Nat) (s : State) := run (sdiFrame tag out) s

end Sys2Proof.Machine
end

