-- ==== Sys2Proof/Machine/Cvt.lean ====
section
/-!
DEFINITION. Class CVT of the kernel instruction set (R137, R146, R152): element, block-forming and KB forms.
-/
namespace Sys2Proof.Machine

/-! ### The CVT layout (R137) -/

/-- The rounding mode a code names (R56). -/
def rndOf : Nat → Rnd
  | 1 => .rtz | 2 => .rdn | 3 => .rup | 4 => .rna | 5 => .sr | _ => .rne

/-- A format field that the integer forms leave unused is not 0 (R146, R162). -/
def cvtSpare (i : Iss) : Bool :=
  let op := (clsOp i.w1).2
  ((op = 1 || op = 2) && cvtDst i ≠ 0) || ((op = 3 || op = 4) && cvtSrc i ≠ 0)

/-- The traps of a CVT: reserved codes and modes, fields that the form leaves unused, and formats that do not fit it.
DESIGN CHOICE: sat is ignored by the forms whose rule does not name it; no rule calls it unused there; and a src other than 0
of CVT.KBE, or a dst other than 0 of CVT.KBD, is a format that does not fit, not an unused field: the spec does not say which. -/
def cvtTrap (usesS : Bool) (fits : Nat → Nat → Bool) (i : Iss) : Option Nat :=
  if 11 ≤ cvtSrc i || 11 ≤ cvtDst i || 6 ≤ cvtRnd i || (!usesS && cvtS i ≠ 0) || cvtSpare i then some tIllegal
  else if fits (cvtSrc i) (cvtDst i) then none
  else some tFormat

/-- The random number of a lane under SR (R62, R63). -/
def cvtRand (i : Iss) (seed : W64) (g : Group) (l : Nat) : Nat :=
  if cvtRnd i = 5 then srR seed (BitVec.ofNat 64 (uPair g (cvtCtr i))) (gRead g (cvtIdx i) l) else 0

def cvtMeaning (usesS : Bool) (fits : Nat → Nat → Bool) (eff : Iss → CoreLaunch → Group → Group × Flags) : Meaning :=
  groupMeaning (fun i _ => cvtUses usesS i) (fun i _ => cvtTrap usesS fits i) eff

def execCvtOp (op : Nat) (m : Meaning) (a : At) (s : State) : Host.Outcome State Fault Refusal := run (issue 2 op m a) s

/-- Results per lane, written to g(d) where the guard holds. -/
def cvtPut (i : Iss) (v : Nat → Nat × Flags) (g : Group) : Group × Flags :=
  forAll (lanesOf i.ex) (fun l (r : Group × Flags) =>
    (gWrite (fD i) l (BitVec.ofNat 32 (v l).1) r.1, r.2 ||| (v l).2)) (g, 0)

/-- The source element of a lane after R52: the low bits of g(a). -/
def cvtSource (i : Iss) (ftz : Bool) (g : Group) (l : Nat) : Val × Flags :=
  match fmtOfCode (cvtSrc i) with
  | some f => readElem ftz f (bits (gRead g (fA i) l).toNat 0 (elemBits f))
  | none => (.nan, 0)

/-- Conversion of a value to the destination format. -/
def cvtResult (i : Iss) (ftz : Bool) (r : Nat) (v : Val) : Nat × Flags :=
  match fmtOfCode (cvtDst i) with
  | some f => convElem ftz f (rndOf (cvtRnd i)) (cvtSat i) r false v
  | none => (0, 0)

/-! ### Element forms -/

def execCvt (a : At) (s : State) :=
  execCvtOp 0x00 (cvtMeaning false (fun x y => x ≤ 8 && y ≤ 8) (fun i l g =>
    cvtPut i (fun k =>
      let x := cvtSource i l.ftz g k
      let y := cvtResult i l.ftz (cvtRand i l.seed g k) x.1
      (y.1, x.2 ||| y.2)) g)) a s

/-- Conversion to a 32-bit integer (R59). -/
def cvtToInt (lo hi : Int) : Meaning :=
  cvtMeaning false (fun x y => x ≤ 8 && y = 0) (fun i l g =>
    cvtPut i (fun k =>
      let x := cvtSource i l.ftz g k
      let y := convInt lo hi (rndOf (cvtRnd i)) (cvtRand i l.seed g k) x.1
      (intCode 32 y.1, x.2 ||| y.2)) g)

def execCvtF2s (a : At) (s : State) := execCvtOp 0x01 (cvtToInt (-2147483648) 2147483647) a s
def execCvtF2u (a : At) (s : State) := execCvtOp 0x02 (cvtToInt 0 4294967295) a s

/-- Conversion from a 32-bit integer. -/
def cvtFromInt (signed : Bool) : Meaning :=
  cvtMeaning false (fun x y => x = 0 && y ≤ 8) (fun i l g =>
    cvtPut i (fun k =>
      let x := gRead g (fA i) k
      let v : Int := if signed then x.toInt else (x.toNat : Int)
      cvtResult i l.ftz (cvtRand i l.seed g k) (.fin (v < 0) v.natAbs 1)) g)

def execCvtS2f (a : At) (s : State) := execCvtOp 0x03 (cvtFromInt true) a s
def execCvtU2f (a : At) (s : State) := execCvtOp 0x04 (cvtFromInt false) a s

/-! ### Block-forming forms (R50, R60) -/

/-- The FP32 value a lane contributes: after R52, or +0 when it is inactive. -/
def laneVal (i : Iss) (ftz : Bool) (g : Group) (l : Nat) : Val × Flags :=
  if i.ex.getLsbD l then readElem ftz .fp32 (gRead g (fA i) l).toNat else (.fin false 0 1, 0)

/-- Forms block `b` of `n` lanes of the group `g0` before the instruction: writes the active lanes and the block's scale
byte of u(s). A block with no active lane changes nothing. The flags are those of the active lanes. -/
def cvtBlock (n : Nat) (sf : ScaleFmt) (i : Iss) (l : CoreLaunch) (g0 : Group) (b : Nat) (r : Group × Flags) : Group × Flags :=
  let ls := (List.range n).map (· + b * n)
  if ls.any (fun k => i.ex.getLsbD k) then
    match fmtOfCode (cvtDst i) with
    | none => r
    | some ef =>
      let xs := ls.map (laneVal i l.ftz g0)
      let o := formBlock l.ftz sf ef (rndOf (cvtRnd i)) (xs.map (·.1)) (ls.map (cvtRand i l.seed g0))
      let g := forAll (ls.zip o.2.1) (fun p g =>
        if i.ex.getLsbD p.1 then gWrite (fD i) p.1 (BitVec.ofNat 32 p.2) g else g) r.1
      let g := uWrite (cvtS i) (BitVec.ofNat 32 (setBits (uRead g (cvtS i)).toNat (8 * b) 8 o.1)) g
      (g, r.2 ||| xs.foldl (fun a x => a ||| x.2) o.2.2)
  else r

/-- The formats a block-forming CVT may produce (R46). -/
def cvtBlockMeaning (n : Nat) (sf : ScaleFmt) : Meaning :=
  cvtMeaning true (fun x y => x = 0 && 3 ≤ y && y ≤ 8) (fun i l g =>
    iter (32 / n) (fun b r => cvtBlock n sf i l g b r) (g, 0))

def execCvtB16e (a : At) (s : State) := execCvtOp 0x05 (cvtBlockMeaning 16 .e8m0) a s
def execCvtB16f (a : At) (s : State) := execCvtOp 0x06 (cvtBlockMeaning 16 .fs8) a s
def execCvtB32e (a : At) (s : State) := execCvtOp 0x07 (cvtBlockMeaning 32 .e8m0) a s
def execCvtB32f (a : At) (s : State) := execCvtOp 0x08 (cvtBlockMeaning 32 .fs8) a s

/-! ### KB forms (R44, R45) -/

def execCvtKbe (a : At) (s : State) :=
  execCvtOp 0x09 (cvtMeaning true (fun x y => x = 0 && (y = 9 || y = 10)) (fun i l g =>
    if i.ex = 0 then (g, 0)
    else
      let ls := List.range 32
      let xs := ls.map (laneVal i l.ftz g)
      let o := kbEncode (rndOf (cvtRnd i)) (kbP (cvtDst i = 10)) (xs.map (·.1)) (ls.map (cvtRand i l.seed g))
      let h := forAll (ls.zip o.2.1) (fun p g =>
        if i.ex.getLsbD p.1 then gWrite (fD i) p.1 (BitVec.ofInt 32 p.2) g else g) g
      (uWrite (cvtS i) (BitVec.ofNat 32 o.1) h, xs.foldl (fun a x => a ||| x.2) o.2.2))) a s

def execCvtKbd (a : At) (s : State) :=
  execCvtOp 0x0A (cvtMeaning true (fun x y => (x = 9 || x = 10) && y = 0) (fun i l g =>
    let p := kbP (cvtSrc i = 10)
    let X := bits (uRead g (cvtS i)).toNat 0 8
    cvtPut i (fun k =>
      convFloat l.ftz .fp32 (rndOf (cvtRnd i)) (cvtSat i) (cvtRand i l.seed g k)
        (kbVal p X (sextInt (gRead g (fA i) k).toNat (p + 1)))) g)) a s

end Sys2Proof.Machine
end

