-- ==== Sys2Proof/Machine/Ras.lean ====
section
/-!
DEFINITION. Errors and their repair during a session (R465 to R475): corrected and uncorrectable errors by place,
spares, pages, the reload of a model's page, the log's window, and the reset after a fatal error.
-/
namespace Sys2Proof.Machine

/-! ### Places (R469, R473) -/

/-- Where an error is found. -/
def siteCore : Nat := 0
def siteSlice : Nat := 1
def siteSys : Nat := 2
def siteHbm : Nat := 3
def siteHost : Nat := 4
/-- An L1, constant or instruction cache of a core. -/
def siteCoreCache : Nat := 5
def siteHart : Nat := 6
/-- A cache tag, a directory entry or a front-end microcontroller's memory; the unit is its source unit. -/
def siteTag : Nat := 7
/-- A core's register file, accumulator memory or stationary buffers. -/
def siteCoreRegs : Nat := 8
/-- A unit that has failed as a whole (R463, R465), by its source unit. DESIGN CHOICE: how the device finds that during a session
the spec does not say; it is an error of its own. -/
def siteUnitFailed : Nat := 9

/-- The kind of a log entry for a place. -/
def siteKind (site : Nat) : Nat :=
  if site = siteSlice then kindSlice else if site = siteSys then kindSysCache
  else if site = siteHbm then kindHbm else if site = siteHost then kindLpddr
  else if site = siteHart then kindHart else if site = siteTag then kindTag else kindCore

/-- The source unit of a place. -/
def siteUnit (site unit : Nat) : Nat :=
  if site = siteSlice then 0x040 + unit else if site = siteSys then 0x026
  else if site = siteHbm then 0x030 + unit else if site = siteHost then 0x026
  else if site = siteHart then 0x0E0 + unit else if site = siteTag || site = siteUnitFailed then unit else 0x100 + unit

def siteOk (site unit : Nat) : Bool :=
  if site = siteSlice || site = siteHbm then decide (unit < 12)
  else if site = siteHart then decide (unit < 32)
  else if site = siteTag then (0x040 ≤ unit && unit < 0x04C) || unit = 0x026 || (0x090 ≤ unit && unit < 0x098)
  else if site = siteUnitFailed then
    vitalUnit unit || (0x0E1 ≤ unit && unit < 0x100) || (0x050 ≤ unit && unit < 0x05C) || unit = 0x060 || unit = 0x061
  else if site = siteSys || site = siteHost then true
  else decide (site ≤ 8) && decide (unit < 256)

/-! ### Core retirement (R467) -/

/-- A core is to be retired: when the launch running on it has ended. -/
def askRetire (n : Nat) (w : World) : World :=
  if (coreOf w n).launch.isSome then { w with ras := { w.ras with retiring := sIns w.ras.retiring n } }
  else seeService (retireCore n w)

/-- The key of a row's count. -/
def rowKey (site unit row : Nat) : Nat := (site * 2 ^ 12 + unit) * 2 ^ 32 + row % 2 ^ 32

/-- Is it the key of a row of a core's own SRAM? -/
def coreRow (n key : Nat) : Bool := key / 2 ^ 32 = siteCore * 2 ^ 12 + n || key / 2 ^ 32 = siteCoreRegs * 2 ^ 12 + n

/-- SPARE_SIGNATURE_TEST_COMPLETE: a cluster's spare passes and takes the retired core's number, with no errors counted of
its own rows yet, or is retired too. -/
def spareTest (c : Nat) (ok : Bool) (w : World) : World :=
  match mget w.ras.testing c with
  | none => w
  | some k =>
    let w := { w with ras := { w.ras with testing := mdel w.ras.testing c } }
    if ok then
      let w := rasRefresh { w with ras := { w.ras with
        adopted := mset w.ras.adopted c k, rows := w.ras.rows.filter (fun r => !(coreRow (16 * c + k) r.1)) } }
      treeChange (rasLog kindSpare 0 (0x100 + 16 * c + k) none false 0 w)
    else treeChange (retirePhysical c 16 (16 * c + k) w)

def execSpareSignatureTestComplete (c : Nat) (ok : Bool) (s : State) := run (spareTest c ok) s

/-! ### Corrected errors (R467, R469) -/

/-- Counts a corrected error in a row; answers whether the row is over a limit within the window. -/
def countRow (site unit row limit : Nat) (w : World) : Bool × World :=
  let k := rowKey site unit row
  let win := fld w rRAS_CE_CFG 0 16 * 10 ^ 9
  let ts := (mgetD w.ras.rows k []).filter (fun t => w.now < t + win) ++ [w.now]
  (decide (limit < ts.length), { w with ras := { w.ras with rows := mset w.ras.rows k ts } })

/-- A line leaves a core's caches and is fetched again. -/
def dropCoreLine (n addr : Nat) (w : World) : World :=
  updCore n (fun c => { c with
    l1 := mdel c.l1 (addr / 128), ccache := mdel c.ccache (addr / 128)
    icache := c.icache.filter (fun i => i.1 / 128 ≠ addr / 128) }) w

/-- CORRECTED_ERROR at a place: counted, and logged with no message. `pages` are the 64 KiB pages that hold a byte of
an HBM row; a row of the host tier is counted too, and has no limit (R469). -/
def correctedError (site unit row addr : Nat) (pages : List Nat) (w : World) : World :=
  if !(siteOk site unit) || site = siteUnitFailed then w
  else
    let src := siteUnit site unit
    let w := bump w rRAS_CE_COUNT 1
    let w := { w with ras := { w.ras with ce := mset w.ras.ce src (mgetD w.ras.ce src 0 + 1) } }
    let w := rasLog (siteKind site) 0 src none false addr w
    if site = siteCore || site = siteCoreRegs then
      let r := countRow site unit row (fld w rRAS_CE_CFG 16 16) w
      if r.1 then askRetire unit r.2 else r.2
    else if site = siteHbm then
      let r := countRow site unit row (fld w rRAS_CE_CFG 32 16) w
      if r.1 then forAll pages retirePage r.2 else r.2
    else if site = siteHost then (countRow site unit row 0 w).2
    else if site = siteCoreCache then dropCoreLine unit addr w
    else w

def execCorrectedError (site unit row addr : Nat) (pages : List Nat) (s : State) := run (correctedError site unit row addr pages) s

/-! ### Uncorrectable errors (R470, R472) -/

/-- The 64 KiB unit of a model that an address lies in, its units' frames given. -/
def unitAt (frame : Nat → Nat) (units addr : Nat) : Option Nat :=
  (List.range units).find? (fun j => frame j = addr / 65536 * 65536)

/-- A bad page of a HOT model is to be reloaded, from the warm copy or, if that is the bad one, from the hot copy; until
then accesses to the hot page wait. A bad warm page of a model that is not HOT stays bad. -/
def modelPageBad (addr : Nat) (w : World) : World :=
  forAll w.mem.models (fun x w =>
    let m := x.2
    let big := modelBig m
    let units := m.len / 65536
    let add (j : Nat) (hot : Bool) (w : World) : World :=
      let r : Reload := ⟨x.1, if big then j / 32 else j, hot, addr / 65536, false⟩
      if w.ras.reloads.any (fun y => y.model = r.model && y.page = r.page) then w
      else
        let base := if big then addr / 2 ^ 21 * 32 else addr / 65536
        let hold := if hot then (List.range (if big then 32 else 1)).map (· + base) else []
        fldSet { w with
          ras := { w.ras with reloads := w.ras.reloads ++ [r] }
          mem := { w.mem with held := hold.foldl sIns w.mem.held } } rRAS_STATUS 2 1 1
    match (if m.st = .hot then unitAt (unitFrame big m.frames) units addr else none), unitAt (warmUnit w m) units addr with
    | some j, _ => add j true w
    | none, some j => if m.st = .hot then add j false w else updModel x.1 (fun m => { m with bad := true }) w
    | none, none => w) w

/-- A data line at its home becomes poisoned. -/
def poisonLine (addr : Nat) (w : World) : World := modelPageBad addr (setPoison addr 1 w)

/-- A unit without a spare fails during a session (R465): it is retired, logged and entered in the record, and the tree
changes. A hart is held in reset, Saffron's SAF_CFG reads 0, Cassia has no slots. One that the module cannot do without is
fatal (R463, R468). -/
def retireUnit (u : Nat) (w : World) : World :=
  if vitalUnit u then unserviceable kindUnit u 0 w
  else if w.ras.retired.contains u then w
  else
    let w := addEntry (recEntry 7 (natLe u 2)) { w with ras := { w.ras with retired := sIns w.ras.retired u } }
    let w := rasLog kindUnit 0 u none false 0 w
    treeChange (
      if 0x0E0 ≤ u then hartHeld (u - 0x0E0) (hartFlush (u - 0x0E0) w)
      else if u < 0x060 then rgSet w rSAF_CFG 0
      else forAll (List.range 16) (fun p w => fldSet w (rCAS_PART_CFG p) 0 17 0) w)

/-- UNCORRECTABLE_ERROR at a place: counted and logged with its message. In a core's cache it is one that is corrected
(R469). In a core's register file, accumulators or buffers the address is the number of the word's mark, which its consumer meets. -/
def uncorrectable (site unit addr : Nat) (w : World) : World :=
  if !(siteOk site unit) then w
  else
    let src := siteUnit site unit
    if site = siteCoreCache then correctedError site unit 0 addr [] w
    else
    let w := bump w rRAS_UE_COUNT 1
    if site = siteTag then fatalError kindTag src addr w
    else if site = siteUnitFailed then retireUnit unit w
    else if site = siteHart then
      let line := addr / 64
      if (mget (hartOf w unit).mLines line).isSome then
        poisonLine addr (rasLog kindHart 1 src none false addr (writeBack unit line false w))
      else leaveL1 unit line
        (updHart unit (fun h => { h with sLines := h.sLines.filter (· ≠ line) }) (rasLog kindHart 0 src none false addr w))
    else
      let w := rasLog (siteKind site) 1 src none false addr w
      if site = siteCore then
        askRetire unit (updCore unit (fun c => { c with slmPoison := sIns c.slmPoison (addr / 4) }) w)
      else if site = siteCoreRegs then askRetire unit (updCore unit (fun c => { c with marks := sIns c.marks addr }) w)
      else if isMain addr then poisonLine addr w
      else w

def execUncorrectableError (site unit addr : Nat) (s : State) := run (uncorrectable site unit addr) s

/-- A page of the model's partition for the fresh copy; where the pool has none, evictable peers are evicted first. -/
def freshPage (m : Model) (w : World) : Option (Nat × World) :=
  let big := modelBig m
  match allocPage big (hbmPool w m.part) with
  | some (f, pool) => some (f, setPool false m.part pool w)
  | none => none

/-- A HOT model's bad page has been copied to a fresh one: its leaves are switched. Once every translation is confirmed gone
(R252) accesses go on, the failing page is retired and the rest of its frame is free again. -/
def reloadHot (r : Reload) (m : Model) (f : Nat) (w : World) : World :=
  let n := pageUnits m
  let old := nth m.frames r.page 0
  let w := copyModelPage m r.page (warmUnit w m) (fun j => f + j % n * 65536) w
  let w := updModel r.model (fun m => { m with frames := nthSet m.frames r.page f }) w
  switchLeaves r.model (n * r.page) n (.reloaded old n m.part r.bad)
    { w with ras := { w.ras with reloads := { r with moved := true } :: w.ras.reloads.tail } }

/-- PAGE_RELOAD_COMPLETE: the oldest reload's copy ends, if its fresh page can be had; it waits while peers are evicted. Of a
model that is HOT no more, nothing is left to reload: the page is retired. A bad warm page is copied from the hot one while
there is one, and stays bad else. -/
def pageReload (w : World) : World :=
  match w.ras.reloads with
  | [] => w
  | r :: _ =>
    if r.moved then w
    else match modelOf w r.model with
    | none => reloadDone (if r.hot then
        unhold (r.bad / 32 * 2 ^ 21) 32 (retirePage r.bad w) else w)
    | some m =>
      if !r.hot then
        reloadDone (if m.st = .hot || m.st = .evicting then copyModelPage m r.page (unitFrame (modelBig m) m.frames) (warmUnit w m) w
          else updModel r.model (fun m => { m with bad := true }) w)
      else if m.st ≠ .hot then
        reloadDone (unhold (65536 * (r.bad / pageUnits m * pageUnits m)) (pageUnits m) (retirePage r.bad w))
      else match freshPage m w with
        | some (f, w) => reloadHot r m f w
        | none => (match (victims w m.part).filter (·.1 ≠ r.model) with
          | v :: _ => evict v.1 w
          | [] => w)

def execPageReloadComplete (s : State) := run pageReload s

/-! ### The log's window and the reset (R475, R468) -/

/-- RAS_LOG_SEL_WRITE captures the selected entry. -/
def logSel (v : Nat) (w : World) : World :=
  let e := mgetD w.log (v % 256) ⟨0, 0, 0, 0⟩
  let w := fldSet w rRAS_LOG_SEL 0 8 v
  rgSet (rgSet (rgSet (rgSet w rRAS_LOG_W0 e.w0) rRAS_LOG_W1 e.w1) rRAS_LOG_W2 e.w2) rRAS_LOG_W3 e.w3

def execRasLogSelWrite (v : Nat) (s : State) := run (logSel v) s

/-- FATAL_RESET: after a fatal error the holder reinitialises the module as at power-up. -/
def fatalReset (agent : Nat) (w : World) : World :=
  if fld w rRAS_STATUS 0 1 = 1 && agent = holder w then powerLost false w else w

def execFatalReset (agent : Nat) (s : State) := run (fatalReset agent) s

end Sys2Proof.Machine
end

