-- ==== Sys2Proof/Machine/Descriptor.lean ====
section
/-!
DEFINITION. The unit-descriptor tree as software reads it (R22 to R28). Where in the descriptor space each node
stands, beyond the root, is the model's (DESIGN CHOICE).
-/
namespace Sys2Proof.Machine

/-- A descriptor's fields, but for version, crc and reserved ones. Offsets are node indices here; `none` reads 0 for
child and parent, and all ones for regs. -/
structure Desc where
  kind   : Nat
  unit   : Nat
  count  : Nat
  cap    : Nat
  child  : Option Nat
  parent : Option Nat
  regs   : Option Nat
  size   : Nat
  inst   : Nat
  state  : Nat
  deriving DecidableEq, Repr

/-- Where nodes stand: the module, the partner's module, the module's children, the package's, and so on. -/
def ixPackage : Nat := 2
def ixPkgKids : Nat := 16
def ixSite : Nat := 23
def ixParts : Nat := if Config.variantA then 24 else 23
def ixClusters : Nat := 40
def ixCores : Nat := 56
def ixBase : Nat := 328
def ixIod : Nat := 370
def ixHarts : Nat := 386
def ixChiplet : Nat := 418
def ixCopies : Nat := 419
def ixTwin : Nat := 435

def twinPaired (w : World) : Bool := fld w rNET_TWIN_STATUS 0 2 = 2

/-- The partitions that have nodes, rising (R25). -/
def nodeParts (w : World) : List Nat := if imageLoaded w then (List.range 16).filter (partDefined w) else []

/-- A cluster is in a partition (R343). -/
def clusterInPart (w : World) (c : Nat) : Bool := (nodeParts w).any (fun p => (partClusters w p).contains c)

/-- A core is ENABLED: in service, and in a partition where an image is CONFIGURED. -/
def coreEnabled (w : World) (n : Nat) : Bool := coreServes w n && (!(imageLoaded w) || clusterInPart w (n / 16))

/-- State of a unit that is not a core. -/
def unitState (w : World) (unit : Nat) : Nat := if unitServes w unit then 0 else 2

/-- Lanes of a port in service since boot (R22, R398). -/
def portLanes (w : World) (p : Nat) : Nat :=
  let good := ((List.range 9).filter (fun l => !(bit (mgetD w.ras.lanes p 0) l))).length
  if p < 16 then (if 8 ≤ good then 8 else if 4 ≤ good then 4 else 0) else (if bits (mgetD w.ras.lanes p 0) 0 4 = 0 then 4 else 0)

/-- Cores in service among a list of logical numbers. -/
def servingOf (w : World) (ns : List Nat) : Nat := (ns.filter (coreServes w)).length

def clusterLogical (c : Nat) : List Nat := (List.range 16).map (· + 16 * c)
def dieCores (d : Nat) : List Nat := (List.range 64).map (· + 64 * d)

/-- A node without children. -/
def leafDesc (kind unit parent : Nat) (regs : Option Nat) (size inst state : Nat) : Desc :=
  { kind := kind, unit := unit, count := 0, cap := (Config.nodeCap kind).toNat, child := none, parent := some parent,
    regs := regs, size := size, inst := inst, state := state }

def moduleDesc (w : World) : Desc :=
  { kind := 3, unit := 0x000, count := 14, cap := capWord w (fun _ => true), child := some ixPackage
    parent := if twinPaired w then some ixTwin else none
    regs := none, size := coresServing w, inst := 0, state := 0 }

/-- The partner's MODULE descriptor (R26). -/
def remoteDesc (w : World) : Desc :=
  { kind := 3, unit := 0x000, count := 0, cap := w.net.twin.cap, child := none, parent := some ixTwin, regs := none,
    size := w.net.twin.size, inst := w.net.twin.inst, state := 3 }

def twinDesc (w : World) : Desc :=
  { kind := 2, unit := 0x000, count := 2, cap := capWord w (fun _ => true), child := some 0, parent := none, regs := none,
    size := coresServing w + w.net.twin.size, inst := 0, state := 0 }

def packageDesc (w : World) : Desc :=
  { kind := 4, unit := 0x001, count := 7 + b2n Config.variantA + (nodeParts w).length, cap := capWord w (fun _ => true)
    child := some ixPkgKids, parent := some 0, regs := none, size := coresServing w, inst := 0, state := 0 }

def dieDesc (w : World) (d : Nat) : Desc :=
  { kind := 6, unit := 0x020 + d, count := 4, cap := capWord w (fun n => n / 64 = d), child := some (ixClusters + 4 * d)
    parent := some ixPackage, regs := none, size := servingOf w (dieCores d), inst := d, state := 0 }

def baseDesc (b : Nat) : Desc :=
  { kind := 9, unit := 0x024 + b, count := 21, cap := (Config.nodeCap 9).toNat, child := some (ixBase + 21 * b)
    parent := some ixPackage, regs := none, size := 0, inst := b, state := 0 }

def iodDesc : Desc :=
  { kind := 0x0A, unit := 0x026, count := 16, cap := (Config.nodeCap 0x0A).toNat, child := some ixIod
    parent := some ixPackage, regs := none, size := 0, inst := 0, state := 0 }

def siteDesc : Desc :=
  { kind := 0x18, unit := 0x0B0, count := 1, cap := (Config.nodeCap 0x18).toNat, child := some ixChiplet
    parent := some ixPackage, regs := some 0x800000, size := 0, inst := 0, state := 0 }

/-- Cluster copies of the partitions before one. -/
def copiesBefore (w : World) (p : Nat) : Nat :=
  (((nodeParts w).filter (· < p)).map (fun q => (partClusters w q).length)).sum

def partDesc (w : World) (p : Nat) : Desc :=
  { kind := 5, unit := 0x0C0 + p, count := (partClusters w p).length
    cap := capWord w (fun n => (partClusters w p).contains (n / 16))
    child := some (ixCopies + copiesBefore w p), parent := some ixPackage, regs := none
    size := (partCores w p).length, inst := p, state := 0 }

def clusterDesc (w : World) (c parent : Nat) : Desc :=
  { kind := 7, unit := 0x010 + c, count := 17, cap := capWord w (fun n => n / 16 = c), child := some (ixCores + 17 * c)
    parent := some parent, regs := none, size := servingOf w (clusterLogical c), inst := c, state := 0 }

/-- A core's node: physical core `k` of a cluster. It has a logical number if it serves it, or is retired and no
spare has taken it; a core without one has no unit and no window, and instance 0xFFFFFFFF (DESIGN CHOICE). -/
def coreDesc (w : World) (c k : Nat) : Desc :=
  let retired := bit (fld w (rRAS_CLUSTER c) 0 17) k
  let taken := mget w.ras.adopted c
  let logical : Option Nat :=
    if k = 16 then taken.map (· + 16 * c) else if retired && taken = some k then none else some (16 * c + k)
  let state := if retired then 2 else if k = 16 && taken.isNone then 1
    else if imageLoaded w && !(clusterInPart w c) then 4 else 0
  { kind := 8, unit := match logical with | some n => 0x100 + n | none => 0
    count := 0, cap := capWord w (fun n => some n = logical), child := none, parent := some (ixClusters + c)
    regs := logical.map (fun n => 0x1000000 + 0x10000 * n), size := if state = 0 || state = 4 then 1 else 0
    inst := logical.getD 0xFFFFFFFF, state := state }

/-- Child `i` of base die `b`: slices, Saffron units, the Cassia half, optical ports. DESIGN CHOICE: units that share a
register block name the block's first offset as their regs (slices, stacks and the host tier the memory block, ports the
network block, a front-end microcontroller the front end's), and PCIe and the dies, which have none, all ones; R22 does not say
what such a unit's field holds. -/
def baseKid (w : World) (b i : Nat) : Desc :=
  let up := ixPkgKids + 4 + b
  if i < 6 then leafDesc 0x0C (0x040 + 6 * b + i) up (some 0x300000) (32 * 2 ^ 20) (6 * b + i) 0
  else if i < 12 then
    let u := 6 * b + (i - 6)
    leafDesc 0x0D (0x050 + u) up (some 0x400000) 0 u (unitState w (0x050 + u))
  else if i = 12 then leafDesc 0x0E (0x060 + b) up (some 0x500000) 0 b (unitState w (0x060 + b))
  else
    let p := 8 * b + (i - 13)
    leafDesc 0x12 (portUnit p) up (some 0x700000) (portLanes w p) p (unitState w (portUnit p))

/-- Child `i` of the IOD. DESIGN CHOICE: R29 lists no number for the host tier and the control complex, which read the
IOD's 0x026, nor for a twin pair, which reads 0x000 (`twinDesc`); and the PCIe node is not taken as one of R22's port
kinds, so that its size is 0. -/
def iodKid (w : World) (i : Nat) : Desc :=
  let up := ixPkgKids + 6
  if i = 0 then { leafDesc 0x10 0x026 up (some 0x4000) 0 0 0 with count := 32, child := some ixHarts }
  else if i < 5 then
    let p := 16 + (i - 1)
    leafDesc 0x13 (portUnit p) up (some 0x700000) (portLanes w p) (i - 1) (unitState w (portUnit p))
  else if i = 5 then leafDesc 0x14 0x088 up none 0 0 0
  else if i < 14 then leafDesc 0x15 (0x090 + (i - 6)) up (some 0x100000) 0 (i - 6) 0
  else if i = 14 then leafDesc 0x16 0x0A0 up (some 0x201000) 0 0 0
  else leafDesc 0x17 0x0A1 up (some 0x600000) 0 0 0

/-- The cluster copies of the partitions, in order: each with its partition's node. -/
def copyList (w : World) : List (Nat × Nat) :=
  ((nodeParts w).zipIdx).flatMap (fun p => (partClusters w p.1).map (fun c => (c, ixParts + p.2)))

/-- The node at an index, if there is one. -/
def descAt (w : World) (i : Nat) : Option Desc :=
  if i = 0 then some (moduleDesc w)
  else if i = 1 then (if twinPaired w then some (remoteDesc w) else none)
  else if i = 2 then some (packageDesc w)
  else if i = 3 then
    some (leafDesc 0x0F 0x026 0 (some 0x300000) (if Config.variantA then 2 ^ 40 else 2 ^ 39) 0 0)
  else if i < 16 then some (leafDesc 0x0B (0x030 + (i - 4)) 0 (some 0x300000) (48 * 2 ^ 30) (i - 4) 0)
  else if i < 20 then some (dieDesc w (i - 16))
  else if i < 22 then some (baseDesc (i - 20))
  else if i = 22 then some iodDesc
  else if i = ixSite && Config.variantA then some siteDesc
  else if i < 40 then ((nodeParts w)[i - ixParts]?).map (partDesc w)
  else if i < 56 then some (clusterDesc w (i - 40) (ixPkgKids + (i - 40) / 4))
  else if i < 328 then some (coreDesc w ((i - 56) / 17) ((i - 56) % 17))
  else if i < 370 then some (baseKid w ((i - 328) / 21) ((i - 328) % 21))
  else if i < 386 then some (iodKid w (i - 370))
  else if i < 418 then some (leafDesc 0x11 (0x0E0 + (i - 386)) ixIod none 0 (i - 386) (unitState w (0x0E0 + (i - 386))))
  else if i = 418 then (if Config.variantA then some (leafDesc 0x19 0x0B1 ixSite none 0 0 0) else none)
  else if i < 435 then ((copyList w)[i - 419]?).map (fun c => clusterDesc w c.1 c.2)
  else if i = 435 then (if twinPaired w then some (twinDesc w) else none)
  else none

/-- The register-window offset of a node. -/
def nodeOff (i : Nat) : Nat := 0x10000 + 64 * i

/-- The 64 bytes of a descriptor. -/
def descBytes (d : Desc) : List Byte :=
  let b := [1, BitVec.ofNat 8 d.kind] ++ natLe d.unit 2 ++ natLe d.count 4 ++ natLe d.cap 8 ++
    natLe ((d.child.map nodeOff).getD 0) 8 ++ natLe ((d.parent.map nodeOff).getD 0) 8 ++
    natLe (d.regs.getD (2 ^ 64 - 1)) 8 ++ natLe d.size 8 ++ natLe d.inst 4 ++ natLe d.state 2 ++ List.replicate 6 0
  b ++ natLe (crc32c b) 4

/-- A 64-bit word of the descriptor space; where no descriptor stands it reads 0. -/
def descWord (w : World) (off : Nat) : Nat := match descAt w ((off - 0x10000) / 64) with
  | some d => le (descBytes d) (off % 64) 8
  | none => 0

end Sys2Proof.Machine
end

