-- ==== Sys2Proof/Machine/MatrixUnit.lean ====
section
/-!
DEFINITION. The matrix array (chapter 04; R140, R149, R150, R153, R154): issue checks and the matrix queue, the
array's results, the accumulator interlocks of R104, and the completion of matrix instructions.
-/
namespace Sys2Proof.Machine

/-! ### Classes and depths (R81) -/

/-- The class of an element code: 0 narrow, 1 byte, 2 half; none for every other. -/
def mxClass (e : Nat) : Option Nat :=
  if e = 1 || e = 2 then some 2
  else if e = 3 || e = 4 || e = 8 then some 1
  else if e = 5 || e = 6 || e = 7 then some 0
  else none

def classDepth (c : Option Nat) : Nat := if c = some 0 then 256 else 128

/-- The K depth of one pass for a format word. -/
def fwDepth (f : Nat) : Nat := classDepth (mxClass (fwElem f))

/-- Passes of an MSTREAM (R96). -/
def passesOf (f k : Nat) : Nat := (k + fwDepth f - 1) / fwDepth f

/-- INT8 without block scales (R68). -/
def fwInt (f : Nat) : Bool := fwElem f = 8 && !(fwBs f)

/-- The record of a stationary set fits the integer path: CLEARED fits either (R97). -/
def recInt : Option Nat → Bool
  | none => true
  | some f => fwInt f

/-- The record of a set fits a class (R154). -/
def recClass (r : Option Nat) (c : Option Nat) : Bool := match r with
  | none => true
  | some f => mxClass (fwElem f) = c

/-! ### Stationary buffers (R83 to R85) -/

def bufOf (m : Matrix) (i : Nat) : StatBuf := if i = 0 then m.buf0 else m.buf1

def setBuf (i : Nat) (b : StatBuf) (m : Matrix) : Matrix := if i = 0 then { m with buf0 := b } else { m with buf1 := b }

/-- The projected record of a buffer (R154). -/
def projOf (m : Matrix) (i : Nat) : Option Nat := if i = 0 then m.proj0 else m.proj1

/-- Records a format word for the projected shadow. -/
def projLoad (f : Nat) (m : Matrix) : Matrix :=
  if m.projActive = 0 then { m with proj1 := some f } else { m with proj0 := some f }

def projSwap (m : Matrix) : Matrix := { m with projActive := 1 - m.projActive }

/-- Writes one cell: elements that are +0 are not listed, scales are. -/
def putCell (f k n code : Nat) (scale : Option Nat) (b : StatBuf) : StatBuf :=
  let key := 128 * k + n
  { fmt := some f,
    elems := if code = 0 then mdel b.elems key else mset b.elems key code,
    scale := match scale with
      | some s => mset b.scale key s
      | none => b.scale }

/-- The element codes and scale bytes of a row. -/
def rowCells (d : TensorDesc) (data scales : List Byte) (n : Nat) : List (Nat × Option Nat) :=
  (List.range n).map (fun j =>
    (packedElem (elemBits (fwFmt d.fmt)) data j,
      if fwBs d.fmt then some (scales.getD (j / fwBlock d.fmt) 0).toNat else none))

/-- Reads a stationary set from row `k0` of the first `rows` rows and `cols` columns of its tensor (R84, R97, R501): the
set, and whether poison was read. -/
def loadSetTo (n : Nat) (d : TensorDesc) (xposed : Bool) (k0 rows cols : Nat) (w : World) : (StatBuf × Bool) × World :=
  let depth := fwDepth d.fmt
  let outer := if xposed then min rows 128 else min (rows - k0) depth
  let inner := if xposed then min cols depth else min cols 128
  iter outer (fun i (acc : (StatBuf × Bool) × World) =>
    let r := readRowTo n d (k0 + i) inner acc.2
    let cells := rowCells d (plain r.1.1) (plain r.1.2) inner
    let b := (cells.zipIdx).foldl (fun b x =>
      if xposed then putCell d.fmt x.2 i x.1.1 x.1.2 b else putCell d.fmt i x.2 x.1.1 x.1.2 b) acc.1.1
    ((b, acc.1.2 || anyBad r.1.1 || anyBad r.1.2), r.2))
    (({ StatBuf.reset with fmt := some d.fmt }, false), w)

/-- The set an MLOAD reads: its extents are its descriptor's (R150). -/
def loadSet (n : Nat) (d : TensorDesc) (xposed : Bool) (k0 : Nat) (w : World) : (StatBuf × Bool) × World :=
  loadSetTo n d xposed k0 d.rows d.cols w

/-! ### Products and rows (R80, R88, R96, R97) -/

/-- An operand from an element code, with the flush flag of R52. -/
def mxOperand (ftz : Bool) (f code : Nat) (scale : Option Nat) : DotOperand × Flags :=
  let r := readElem ftz (fwFmt f) code
  (⟨r.1, match scale with
    | some s => scaleVal (fwScale f) s
    | none => some (1, 1)⟩, r.2)

/-- The operand a cell holds; a CLEARED set holds +0 with scale 1. -/
def cellOperand (ftz : Bool) (b : StatBuf) (k n : Nat) : DotOperand × Flags :=
  match b.fmt with
  | none => (⟨.fin false 0 1, some (1, 1)⟩, 0)
  | some f => mxOperand ftz f (mgetD b.elems (128 * k + n) 0) (mget b.scale (128 * k + n))

/-- The integer a cell holds. -/
def cellInt (b : StatBuf) (k n : Nat) : Int := sextInt (mgetD b.elems (128 * k + n) 0) 8

/-- The cell of K index k over the sets of the passes. -/
def setOfK (sets : List StatBuf) (depth k : Nat) : StatBuf := (sets[k / depth]?).getD StatBuf.reset

/-- One output element: the reduction of a streamed row with column n. -/
def mxElement (ftz ipath : Bool) (sets : List StatBuf) (f : Nat) (row : List (Nat × Option Nat)) (c : W32) (n : Nat) :
    W32 × Flags :=
  let depth := fwDepth f
  if ipath then
    dotInt c ((row.zipIdx).map (fun x => (sextInt x.1.1 8, cellInt (setOfK sets depth x.2) (x.2 % depth) n)))
  else
    let ps := (row.zipIdx).map (fun x =>
      (mxOperand ftz f x.1.1 x.1.2, cellOperand ftz (setOfK sets depth x.2) (x.2 % depth) n))
    let r := dotFloat ftz c (ps.map (fun p => (p.1.1, p.2.1)))
    (r.1, ps.foldl (fun fl p => fl ||| p.1.2 ||| p.2.2) r.2)

/-- The outputs of one streamed row, columns 0 to N - 1, from their initial accumulators. -/
def mxRow (ftz ipath : Bool) (sets : List StatBuf) (f : Nat) (row : List (Nat × Option Nat)) (inits : List W32) :
    List W32 × Flags :=
  let es := (inits.zipIdx).map (fun x => mxElement ftz ipath sets f row x.1 x.2)
  (es.map (·.1), es.foldl (fun fl e => fl ||| e.2) 0)

/-! ### Output conversion (R100, R101) -/

def intVal (x : W32) : Val := .fin (x.toInt < 0) x.toInt.natAbs 1

/-- The code an accumulator element is written as, with its flags. -/
def outCode (ftz ipath : Bool) (d : TensorDesc) (rnd : Rnd) (sat : Bool) (seed ctr : W64) (idx : Nat) (x : W32) :
    Nat × Flags :=
  let r := if rnd = .sr then srR seed ctr (BitVec.ofNat 32 idx) else 0
  match fwFmt d.fmt with
  | .fp32 => if ipath && !d.raw32 then convFloat ftz .fp32 rnd sat r (intVal x) else (x.toNat, 0)
  | .int8 => convElem ftz .int8 rnd sat r false (intVal x)
  | ef =>
    let s := readElem ftz .fp32 x.toNat
    let t := convElem ftz ef rnd sat r false s.1
    (t.1, s.2 ||| t.2)

/-- The bytes of one output row, of index `r` within its instruction. -/
def outRow (ftz ipath : Bool) (d : TensorDesc) (rnd : Rnd) (sat : Bool) (seed ctr : W64) (r : Nat) (xs : List W32) :
    List Byte × Flags :=
  let cs := (xs.zipIdx).map (fun x => outCode ftz ipath d rnd sat seed ctr (128 * r + x.2) x.1)
  (packRow (fwFmt d.fmt) (cs.map (·.1)), cs.foldl (fun fl c => fl ||| c.2) 0)

/-- Output formats R100 allows. -/
def outFormat (ipath : Bool) (f : Nat) : Bool :=
  !(fwBs f) && (if ipath then fwElem f = 8 || fwElem f = 0 else fwElem f ≤ 4)

def xSemBad (i : Iss) : Bool := 16 ≤ xSem i && xSem i ≠ 31

def xSemOf (i : Iss) : Option Nat := if xSem i = 31 then none else some (xSem i)

def ctrValue (i : Iss) (g : Group) : W64 := if xRnd i = 5 then BitVec.ofNat 64 (uPair g (xCtr i)) else 0

/-! ### Issue (R93, R106, R153) -/

/-- What a queued instruction checks at issue: an illegal encoding; then, where a guard holds, a disallowed
format, a bad operand, an SLM byte outside the bound. -/
structure QueueCheck where
  illegal : Bool
  format  : Bool
  operand : Bool
  slm     : Bool
  deriving DecidableEq, Repr

/-- The trap of a queued instruction at issue. -/
def queueTrap (c : QueueCheck) (ex : W32) : Option Nat :=
  if ex = 0 then (if c.illegal then some tIllegal else none)
  else firstTrap c.illegal c.format c.operand false c.slm

/-- A matrix instruction: its registers, its checks, the operation it captures and the projected state after it. -/
def mxMeaning (uses : Iss → Uses) (chk : Iss → Group → Core → CoreLaunch → QueueCheck)
    (op : Iss → Group → Core → MxOp) (proj : Iss → Group → Matrix → Matrix) : Meaning :=
  { uses := fun i _ => uses i
    trap := fun i w => queueTrap (chk i (groupOf w i.core i.slot) (coreOf w i.core) (launchOn w i.core)) i.ex
    waits := fun i w => i.ex ≠ 0 && 8 ≤ (coreOf w i.core).mx.queue.length
    eff := fun i w =>
      if i.ex = 0 then w
      else
        let g := groupOf w i.core i.slot
        updCore i.core (fun c =>
          let e : MxEntry :=
            { op := op i g c, sem := xSemOf i, slot := i.slot, number := g.number, mask := i.path, pc := i.pc,
              before := c.nextId, out := [], snap := none, done := 0, since := 0, mhz := 0, wait := 0, paid := 0 }
          let m := proj i g c.mx
          { c with mx := { m with queue := m.queue ++ [e] }, nextId := c.nextId + 1 }) w }

def execMload (a : At) (s : State) :=
  run (issue 7 0 (mxMeaning (fun i => ⟨[], slotUse (xSlot i)⟩)
    (fun i g _ l =>
      let d := descOf g (xSlot i)
      { illegal := fixedBad (fm 45 3 + fm 44 1 + fm 29 5) i || xSemBad i
        format := xSlot i ≠ 0 && (fwBad d.fmt || mxClass (fwElem d.fmt) = none)
        operand := descBad g (xSlot i) true false || d.global
        slm := descOut l d })
    (fun i g _ => .mload (descOf g (xSlot i)) (bit i.w1 44))
    (fun i g m => projLoad (descOf g (xSlot i)).fmt m)) a) s

def execMswap (a : At) (s : State) :=
  run (issue 7 1 (mxMeaning noUses
    (fun i _ _ _ => { illegal := fixedBad (fm 29 5) i || xSemBad i, format := false, operand := false, slm := false })
    (fun _ _ _ => .mswap) (fun _ _ m => projSwap m)) a) s

/-- MSTREAM's scalar operands (R150). -/
def sM (i : Iss) (g : Group) : Nat := bits (uRead g (xQ i)).toNat 0 21
def sK (i : Iss) (g : Group) : Nat := bits (uRead g (xQ i + 1)).toNat 0 13
def sN (i : Iss) (g : Group) : Nat := bits (uRead g (xQ i + 1)).toNat 16 8
def sA (i : Iss) (g : Group) : Nat := bits (uRead g (xQ i + 2)).toNat 0 10
def sInit (i : Iss) : Bool := bit i.w1 34

/-- The path fixed at issue (R68, R97). -/
def streamInt (i : Iss) (g : Group) (m : Matrix) : Bool :=
  let a := descOf g (xSlot i)
  fwInt a.fmt && recInt (projOf m m.projActive) &&
    (sDrain i || passesOf a.fmt (sK i g) ≤ 1 || fwInt (descOf g (xSlot2 i)).fmt)

def usesB (i : Iss) (g : Group) : Bool := sDrain i || 1 < passesOf (descOf g (xSlot i)).fmt (sK i g)

def streamCheck (i : Iss) (g : Group) (c : Core) (l : CoreLaunch) : QueueCheck :=
  let a := descOf g (xSlot i)
  let b := descOf g (xSlot2 i)
  let cls := mxClass (fwElem a.fmt)
  let M := sM i g
  let K := sK i g
  let N := sN i g
  let ip := streamInt i g c.mx
  let spare := bits (uRead g (xQ i)).toNat 21 11 ≠ 0 || bits (uRead g (xQ i + 1)).toNat 13 3 ≠ 0 ||
    bits (uRead g (xQ i + 1)).toNat 24 8 ≠ 0 || (!(sDrain i) && bits (uRead g (xQ i + 2)).toNat 10 22 ≠ 0)
  { illegal := fixedBad (fm 45 3 + fm 42 3 + fm 36 6 + fm 35 1 + fm 34 1 + fm 29 5 + fm 26 3 + fm 25 1 + fm 19 6) i ||
      xSemBad i || 6 ≤ xRnd i
    format := (xSlot i ≠ 0 && (fwBad a.fmt || cls = none)) ||
      (usesB i g && xSlot2 i ≠ 0 && (fwBad b.fmt ||
        (if sDrain i then !(outFormat ip b.fmt) else mxClass (fwElem b.fmt) = none)))
    operand := descBad g (xSlot i) true false || a.global || spare ||
      M = 0 || 2 ^ 20 < M || K = 0 || 16 * classDepth cls < K || N = 0 || 128 < N ||
      a.rows < M || a.cols < K || !(recClass (projOf c.mx c.mx.projActive) cls) ||
      (if sDrain i then
        descBad g (xSlot2 i) true true || b.rows < M || b.cols < N || 1 < passesOf a.fmt K ||
          (!(sInit i) && (fwElem b.fmt ≠ 0 || (ip && !b.raw32)))
      else
        1024 < sA i g + M ||
          (1 < passesOf a.fmt K &&
            (descBad g (xSlot2 i) true false || b.global || mxClass (fwElem b.fmt) ≠ cls || b.rows < K)))
    slm := descOut l a || (usesB i g && descOut l b) }

/-- The projected state after an accumulate-in-place MSTREAM of several passes. -/
def streamProj (i : Iss) (g : Group) (m : Matrix) : Matrix :=
  let a := descOf g (xSlot i)
  if sDrain i then m
  else iter (passesOf a.fmt (sK i g) - 1) (fun _ m => projSwap (projLoad (descOf g (xSlot2 i)).fmt m)) m

def execMstream (a : At) (s : State) :=
  run (issue 7 2 (mxMeaning
    (fun i => ⟨[], slotUse (xSlot i) ++ slotUse (xSlot2 i) ++ [(xQ i, if sDrain i then 2 else 3, 1)] ++ ctrUse i⟩)
    streamCheck
    (fun i g c =>
      .mstream (descOf g (xSlot i)) (if usesB i g then some (descOf g (xSlot2 i)) else none) (sM i g) (sK i g) (sN i g)
        (sA i g) (sDrain i) (sInit i) (streamInt i g c.mx) (rndOf (xRnd i)) (xSat i) (ctrValue i g))
    streamProj) a) s

/-- MDRAIN's scalar operands (R150). -/
def dM (i : Iss) (g : Group) : Nat := bits (uRead g (xQ i)).toNat 0 11
def dStart (i : Iss) (g : Group) : Nat := bits (uRead g (xQ i + 1)).toNat 0 10

def drainCheck (i : Iss) (g : Group) (_ : Core) (l : CoreLaunch) : QueueCheck :=
  let d := descOf g (xSlot i)
  { illegal := fixedBad (fm 45 3 + fm 36 6 + fm 35 1 + fm 34 1 + fm 29 5 + fm 26 3 + fm 25 1 + fm 19 6) i ||
      xSemBad i || 6 ≤ xRnd i
    format := xSlot i ≠ 0 && (fwBad d.fmt || !(outFormat (bit i.w1 35) d.fmt))
    operand := descBad g (xSlot i) true true || bits (uRead g (xQ i)).toNat 11 21 ≠ 0 ||
      bits (uRead g (xQ i + 1)).toNat 10 22 ≠ 0 || dM i g = 0 || 1024 < dM i g || 1024 < dM i g + dStart i g ||
      d.rows < dM i g
    slm := descOut l d }

def execMdrain (a : At) (s : State) :=
  run (issue 7 3 (mxMeaning (fun i => ⟨[], slotUse (xSlot i) ++ [(xQ i, 2, 1)] ++ ctrUse i⟩) drainCheck
    (fun i g _ => .mdrain (descOf g (xSlot i)) (dM i g) (dStart i g) (bit i.w1 35) (bit i.w1 34) (rndOf (xRnd i))
      (xSat i) (ctrValue i g))
    (fun _ _ m => m)) a) s

/-! ### Accumulator rows from the vector side (R104, R149) -/

/-- The accumulator rows an instruction writes, as first and count. -/
def mxWrites : MxOp → Nat × Nat
  | .mstream _ _ m _ _ a drain _ _ _ _ _ => if drain then (0, 0) else (a, m)
  | .mdrain _ m a _ clear _ _ _ => if clear then (a, m) else (0, 0)
  | _ => (0, 0)

/-- The accumulator rows an instruction reads only. -/
def mxReads : MxOp → Nat × Nat
  | .mdrain _ m a _ _ _ _ _ => (a, m)
  | _ => (0, 0)

def touchesTile (t : Nat) (r : Nat × Nat) : Bool := r.2 ≠ 0 && r.1 < 64 * t + 64 && 64 * t < r.1 + r.2

/-- Has a running instruction passed cycle `k` after it left the queue, at the MCLK it left at? -/
def mxReached (now : Nat) (e : MxEntry) (k : Nat) : Bool := e.mhz ≠ 0 && decide (e.since + k * 1000 / e.mhz ≤ now)

/-- Cycles a streamed row takes at the array's entry, and those until its output row is available (R102). -/
def rowCycles (f : Nat) : Nat := if mxClass (fwElem f) = some 2 then 2 else 1
def rowLatency (f : Nat) : Nat := 128 * rowCycles f + 132

/-- The least cycles from one swap of an MSTREAM's passes to the next, whose set loads in between (R84, R86, R103). -/
def passGap (f : Nat) : Nat := if rowCycles f = 2 then 384 else 257

/-- The cycle, from when it left the queue, of the swap slot before pass p + 1 of an MSTREAM of m rows; the first implicit
load begins after `wait` cycles. -/
def swapSlot (f m wait p : Nat) : Nat := max (m * rowCycles f) (wait + 128) + p * max (m * rowCycles f + 1) (passGap f)

/-- The cycle in which the first row of the last of P passes enters. -/
def lastPass (f m passes wait : Nat) : Nat := if passes ≤ 1 then 0 else swapSlot f m wait (passes - 2) + 1

/-- The cycle in which the last implicit load has ended. -/
def loadsEnd (f m passes wait : Nat) : Nat :=
  if passes ≤ 1 then 0 else if passes = 2 then wait + 128 else swapSlot f m wait (passes - 3) + passGap f

/-- Is the last row of a stream that lies in a tile available (R104)? -/
def tileDone (now : Nat) (e : MxEntry) (t : Nat) : Bool := match e.op with
  | .mstream a _ m k _ start _ _ _ _ _ _ =>
    let r := min (m - 1) (64 * t + 63 - start)
    mxReached now e (lastPass a.fmt m (passesOf a.fmt k) e.wait + r * rowCycles a.fmt + rowLatency a.fmt)
  | _ => true

/-- Do the implicit loads of a stream's passes still take the loader (R97)? -/
def passLoads (now : Nat) (e : MxEntry) : Bool := match e.op with
  | .mstream a _ m k _ _ false _ _ _ _ _ =>
    decide (1 < passesOf a.fmt k) && !(mxReached now e (loadsEnd a.fmt m (passesOf a.fmt k) e.wait))
  | _ => false

/-- Cycles the drain port takes for a row (R98). -/
def portCycles (d : TensorDesc) (cols : Nat) : Nat := (rowBytes (fwFmt d.fmt) cols + 255) / 256

/-- The rows of a drain-through stream that have left the array by now, one in `every` cycles from the first on (R102). -/
def rowsBy (now : Nat) (e : MxEntry) (f m every : Nat) : Nat :=
  min (min m e.out.length) (((now - e.since) * e.mhz / 1000 + every - rowLatency f) / every)

/-- The rows the drain port has had the time to write: it takes them as they come, at its own rate. -/
def rowsAvailable (now : Nat) (e : MxEntry) : Nat := match e.op with
  | .mstream a (some d) m _ cols _ true _ _ _ _ _ => rowsBy now e a.fmt m (max (rowCycles a.fmt) (portCycles d cols))
  | _ => e.out.length

/-- The rows of a drain-through stream in the drain FIFO or in front of it. -/
def rowsHeld (now : Nat) (e : MxEntry) : Nat := match e.op with
  | .mstream a (some _) m _ _ _ true _ _ _ _ _ => rowsBy now e a.fmt m (rowCycles a.fmt) - e.done
  | _ => 0

/-- Does the loader write the shadow for a stream's next pass now (R97)? -/
def passLoading (now : Nat) (e : MxEntry) : Bool := match e.op with
  | .mstream a _ m k _ _ false _ _ _ _ _ =>
    (List.range (passesOf a.fmt k - 1)).any (fun p =>
      let first := if p = 0 then e.wait else swapSlot a.fmt m e.wait (p - 1) + passGap a.fmt - 128
      mxReached now e first && !(mxReached now e (first + 128)))
  | _ => false

/-- A tile is write-busy: a queued instruction writes it, or a stream in flight whose last row in it is not available. -/
def writeBusy (now : Nat) (m : Matrix) (t : Nat) : Bool :=
  m.queue.any (fun e => touchesTile t (mxWrites e.op)) ||
    m.streams.any (fun e => touchesTile t (mxWrites e.op) && !(tileDone now e t))

/-- A tile is read-busy: a queued MDRAIN reads it. -/
def readBusy (m : Matrix) (t : Nat) : Bool := m.queue.any (fun e => touchesTile t (mxReads e.op))

def accT (i : Iss) : Nat := bits i.w1 36 4

/-- The accumulator element of a lane. -/
def accKey (i : Iss) (g : Group) (lane : Nat) : Nat :=
  (64 * accT i + ((uRead g (bits i.w1 28 6)).toNat + bits i.w1 22 6) % 64) * 128 + 32 * bits i.w1 34 2 + lane

def accMask : Nat := fm 40 8 + fm 36 4 + fm 34 2 + fm 28 6 + fm 22 6

def execAccRd (a : At) (s : State) :=
  run (issue 7 4
    { uses := fun i _ => accUses i
      trap := fun i _ => ctrlTrap accMask i
      waits := fun i w => (coreOf w i.core).clearBusy || writeBusy w.now (coreOf w i.core).mx (accT i)
      eff := fun i w =>
        let c := coreOf w i.core
        let g := groupOf w i.core i.slot
        match c.marks.find? (fun k => (lanesOf i.ex).any (fun l => k = accMark 0 (accKey i g l))) with
        | some k => corePoison i.core kindCore false k w
        | none => updGroup i.core i.slot (fun g =>
          forAll (lanesOf i.ex) (fun l h => gWrite (yR i) l (mgetD c.mx.acc (accKey i g l) 0) h) g) w } a) s

/-- Writes an accumulator element; 0 is not listed. -/
def accSet (key : Nat) (v : W32) (m : Matrix) : Matrix :=
  { m with acc := if v = 0 then mdel m.acc key else mset m.acc key v }

def execAccWr (a : At) (s : State) :=
  run (issue 7 5
    { uses := fun i _ => accUses i
      trap := fun i _ => ctrlTrap accMask i
      waits := fun i w =>
        let c := coreOf w i.core
        c.clearBusy || writeBusy w.now c.mx (accT i) || readBusy c.mx (accT i)
      eff := fun i w =>
        let g := groupOf w i.core i.slot
        updCore i.core (fun c => unmark (fun k => (lanesOf i.ex).any (fun l => k = accMark 0 (accKey i g l)))
          { c with mx := forAll (lanesOf i.ex) (fun l m => accSet (accKey i g l) (gRead g (yR i) l) m) c.mx }) w } a) s

/-! ### Leaving the queue (R93 to R99) -/

/-- The streamed row of index m: its cells below K, of which alone it is read, and whether poison was read. -/
def streamCells (n : Nat) (a : TensorDesc) (m k : Nat) (w : World) : (List (Nat × Option Nat) × Bool) × World :=
  let r := readRowTo n a m k w
  ((rowCells a (plain r.1.1) (plain r.1.2) k, anyBad r.1.1 || anyBad r.1.2), r.2)

/-- The sets the passes 1 onward load from K rows and `cols` columns of the tensor; each becomes active in turn (R97). What
lies beyond the tensor's extents is +0 with scale 1 (R84). -/
def passSets (n : Nat) (b : TensorDesc) (passes k cols : Nat) (w : World) : (List StatBuf × Bool) × World :=
  iter (passes - 1) (fun p (acc : (List StatBuf × Bool) × World) =>
    let r := loadSetTo n b false ((p + 1) * fwDepth b.fmt) k (min cols b.cols) acc.2
    ((acc.1.1 ++ [r.1.1], acc.1.2 || r.1.2), r.2)) (([], false), w)

def updMx (n : Nat) (f : Matrix → Matrix) (w : World) : World := updCore n (fun c => { c with mx := f c.mx }) w

def orCoreFlags (n : Nat) (fl : Flags) (w : World) : World := updCore n (fun c => { c with flags := c.flags ||| fl }) w

def accRow (m : Matrix) (row cols : Nat) : List W32 := (List.range cols).map (fun j => mgetD m.acc (128 * row + j) 0)

def putAccRow (row : Nat) (xs : List W32) (m : Matrix) : Matrix :=
  (xs.zipIdx).foldl (fun m x => accSet (128 * row + x.2) x.1 m) m

/-- The values of destination row r before a drain-through with init = 0. -/
def destRow (n : Nat) (d : TensorDesc) (r cols : Nat) (w : World) : (List W32 × Bool) × World :=
  let x := readSpace false n d (dRowAt d r) (4 * cols) w
  (((List.range cols).map (fun j => BitVec.ofNat 32 (packedElem 32 (plain x.1) j)), anyBad x.1), x.2)

/-- One row of a drain-through stream: the row it writes, whether poison was read. -/
def drainThrough (n : Nat) (set : StatBuf) (a d : TensorDesc) (r k cols : Nat) (init ipath : Bool) (rnd : Rnd)
    (sat : Bool) (ctr : W64) (w : World) : (List Byte × Bool) × World :=
  let l := launchOn w n
  let c := streamCells n a r k w
  let x := if init then ((List.replicate cols 0, false), c.2) else destRow n d r cols c.2
  let row := mxRow l.ftz ipath [set] a.fmt c.1.1 x.1.1
  let o := outRow l.ftz ipath d rnd sat l.seed ctr r row.1
  ((o.1, c.1.2 || x.1.2), orCoreFlags n (row.2 ||| o.2) x.2)

/-- Does a drain-through stream read its rows' destinations in memory, one return at a time (R98)? -/
def readsDest (d : TensorDesc) (init : Bool) : Bool := !init && d.global

/-- Poison read by the array: the launch stops. -/
def mxConsume (n : Nat) (bad : Bool) (d : TensorDesc) (a : Nat) (w : World) : World :=
  if bad then mxPoison n d a w else w

/-- Does a core mark its active buffer, or an accumulator element of some rows and columns, poisoned (R470)? -/
def mxMarked (c : Core) (start m cols : Nat) : Bool :=
  c.marks.any (fun k => k = bufMark c.mx.active || accMarkIn start m cols k)

/-- An MSTREAM enters the array: accumulate-in-place results reach the accumulator rows in queue order, a
drain-through's rows are held until their writes. The swap slots between its passes and its waits for their loads count in
MX_BUBBLE (R107). -/
def startStream (n : Nat) (e : MxEntry) (a : TensorDesc) (b : Option TensorDesc) (m k cols start : Nat)
    (drain init ipath : Bool) (rnd : Rnd) (sat : Bool) (ctr : W64) (w : World) : World :=
  let set := bufOf (coreOf w n).mx (coreOf w n).mx.active
  let w := bump (bump w (rMX_ROWS n) (m * passesOf a.fmt k)) (rMX_BUBBLE n)
    (lastPass a.fmt m (passesOf a.fmt k) e.wait - (passesOf a.fmt k - 1) * (m * rowCycles a.fmt))
  if drain then
    match b with
    | none => w
    | some d =>
      if readsDest d init then
        mxConsume n (mxMarked (coreOf w n) 0 0 0) { a with global := false } a.base
          (updMx n (fun x => { x with streams := x.streams ++ [{ e with snap := some set }] }) w)
      else
        let r := iter m (fun i (acc : (List (List Byte) × Bool) × World) =>
          let o := drainThrough n set a d i k cols init ipath rnd sat ctr acc.2
          ((acc.1.1 ++ [o.1.1], acc.1.2 || o.1.2), o.2)) (([], mxMarked (coreOf w n) 0 0 0), w)
        mxConsume n r.1.2 { a with global := false } a.base
          (updMx n (fun x => { x with streams := x.streams ++ [{ e with out := r.1.1 }] }) r.2)
  else
    let ps := match b with
      | some d => passSets n d (passesOf a.fmt k) k cols w
      | none => (([], false), w)
    let w := ps.2
    let sets := set :: ps.1.1
    let r := iter m (fun i (acc : Bool × World) =>
      let l := launchOn acc.2 n
      let c := streamCells n a i k acc.2
      let inits := if init then List.replicate cols 0 else accRow (coreOf c.2 n).mx (start + i) cols
      let row := mxRow l.ftz ipath sets a.fmt c.1.1 inits
      (acc.1 || c.1.2, orCoreFlags n row.2 (updMx n (putAccRow (start + i) row.1) c.2)))
      (ps.1.2 || mxMarked (coreOf w n) start (if init then 0 else m) cols, w)
    let loaded := (List.range ps.1.1.length).map (fun p => (1 + p + (coreOf w n).mx.active) % 2)
    let w := updMx n (fun x =>
      let x := ps.1.1.foldl (fun x s => { setBuf (1 - x.active) s x with active := 1 - x.active }) x
      { x with streams := x.streams ++ [e] }) r.2
    let w := updCore n (unmark (fun k => accMarkIn start m cols k || loaded.any (fun b => k = bufMark b))) w
    mxConsume n r.1 a a.base w

/-- An MDRAIN reads and converts its rows, clearing them if asked (R99); their writes follow. -/
def startDrain (n : Nat) (e : MxEntry) (d : TensorDesc) (m start : Nat) (ipath clear : Bool) (rnd : Rnd) (sat : Bool)
    (ctr : W64) (w : World) : World :=
  let l := launchOn w n
  let cols := min d.cols 128
  let x := (coreOf w n).mx
  let rows := (List.range m).map (fun r => outRow l.ftz ipath d rnd sat l.seed ctr r (accRow x (start + r) cols))
  let w := orCoreFlags n (rows.foldl (fun fl r => fl ||| r.2) 0) w
  let bad := (coreOf w n).marks.any (accMarkIn start m cols)
  let w := if clear then updCore n (unmark (accMarkIn start m 128)) w else w
  mxConsume n bad { d with global := false } d.base (updMx n (fun x =>
    let x := if clear then iter m (fun r x => putAccRow (start + r) (List.replicate 128 0) x) x else x
    { x with drainer := some { e with out := rows.map (·.1) } }) w)

/-- Have all rows of a stream entered the array, so that the streamer is free (R93)? One that reads its destinations lets
no row pass its accumulate stage before the read has returned, and a drain-through stream stalls while the 64 rows of the
drain FIFO wait for their writes (R98). -/
def streamEntered (now : Nat) (e : MxEntry) : Bool := match e.op with
  | .mstream a b m k cols _ drain init _ _ _ _ =>
    let inside := rowLatency a.fmt / rowCycles a.fmt
    mxReached now e (lastPass a.fmt m (passesOf a.fmt k) e.wait + m * rowCycles a.fmt) &&
      (match b with
        | some d => !drain || (mxReached now e ((m - 64 - inside) * portCycles d cols + rowLatency a.fmt) && (!(readsDest d init) || decide (m ≤ e.out.length + inside)) && decide (m ≤ e.done + 64 + inside))
        | none => true)
  | _ => true

/-- May the instruction at the head of the queue leave it: its unit is free and its dependences are met? -/
def mxReady (now : Nat) (c : Core) (e : MxEntry) : Bool :=
  !c.clearBusy &&
  (match e.op with
    | .mload _ _ => c.mx.loader.isNone && !(slmWritesOut c e.slot e.number e.before) && !(c.mx.streams.any (passLoads now))
    | .mswap => c.mx.loader.isNone && c.mx.streams.all (streamEntered now)
    | .mstream a _ _ k _ _ _ _ _ _ _ _ =>
      !(slmWritesOut c e.slot e.number e.before) && (passesOf a.fmt k ≤ 1 || c.mx.loader.isNone) &&
        c.mx.streams.all (streamEntered now)
    | .mdrain _ m start _ _ _ _ _ =>
      c.mx.drainer.isNone && !(slmWritesOut c e.slot e.number e.before) &&
        c.mx.streams.all (fun x => let r := mxWrites x.op; r.2 = 0 || start + m ≤ r.1 || r.1 + r.2 ≤ start))

/-- A matrix instruction leaves the units: it has faulted, and sends no further write (R124). -/
def mxGone (n before : Nat) (w : World) : World := updMx n (fun m => { m with
  streams := m.streams.filter (·.before ≠ before), drainer := m.drainer.filter (·.before ≠ before) }) w

/-- Writes the first `upTo` rows of a drain that are not written yet to their destination (R98, R99): nothing while a page
waits or the bucket holds a request, a trap at the first row that faults; otherwise `done` runs once they are written. -/
def drainWrite (n : Nat) (e : MxEntry) (d : TensorDesc) (upTo : Nat) (done : World → World) (w : World) : World :=
  let nb := (e.out.headD []).length
  let l := launchOn w n
  let left := ((e.out.zipIdx).take upTo).drop e.done
  let rs := if d.global then left.map (fun x => (dRowAt d x.2, nb)) else []
  let st := rangesState l.ctx true (some l.work) rs 0 w
  let put (k : Nat) (w : World) : World :=
    (left.take k).foldl (fun w x => writeSpace false n d (dRowAt d x.2) (x.1.map (·, false)) w) w
  match st.1.1 with
  | .waits => st.2
  | .fault c lv => coreFault n e.slot e.mask e.pc c lv st.1.2.1 (mxGone n e.before (put st.1.2.2 st.2))
  | .ready =>
    if chipDown st.2 l.ctx rs then kernelTrap n e.slot e.mask e.pc tMemFault (mxGone n e.before st.2)
    else whenPaid n e.before e.paid rs (fun w => done (put left.length w)) st.2

/-- The drain port writes what the first `k` running streams hold, up to `upTo` rows of each (R98). Answers whether that is
written. -/
def flushStreams (n k : Nat) (upTo : MxEntry → Nat) (w : World) : Bool × World :=
  iter k (fun i (a : Bool × World) =>
    if !a.1 then a
    else match (coreOf a.2 n).mx.streams[i]? with
      | none => a
      | some e => match e.op with
        | .mstream _ (some d) _ _ _ _ true _ _ _ _ _ =>
          let e' := { e with done := max e.done (upTo e), paid := 0 }
          let w := drainWrite n e d (upTo e) (updMx n (fun m => { m with streams := nthSet m.streams i e' })) a.2
          ((coreOf w n).mx.streams[i]? = some e', w)
        | _ => a) (true, w)

/-- Does an instruction read destination rows in the SLM as it starts? -/
def readsSlmDest : MxOp → Bool
  | .mstream _ (some d) _ _ _ _ true false _ _ _ _ => !d.global
  | _ => false

/-- Does an instruction wait for the streamer? -/
def needsStreamer : MxOp → Bool
  | .mswap => true
  | .mstream _ _ _ _ _ _ _ _ _ _ _ _ => true
  | _ => false

/-- Cycles until the loader may write again after the last swap slot: R86's gap, less those that have passed. The slow gap
is that of a half-class MSTREAM whose first row follows the swap at once. -/
def loadWait (now : Nat) (m : Matrix) (f mhz : Nat) : Nat := match m.swapAt with
  | none => 0
  | some t =>
    let cycles := (now - t) * mhz / 1000
    (if rowCycles f = 2 && cycles ≤ 1 then 256 else 129) - cycles

/-- When the last swap slot of an instruction that leaves the queue now is. -/
def lastSwap (now : Nat) (m : Matrix) (e : MxEntry) : Option Nat := match e.op with
  | .mswap => some now
  | .mstream a _ rows k _ _ _ _ _ _ _ _ =>
    if passesOf a.fmt k ≤ 1 then m.swapAt
    else some (now + (lastPass a.fmt rows (passesOf a.fmt k) e.wait - 1) * 1000 / max 1 e.mhz)
  | _ => m.swapAt

/-- MATRIX_DISPATCH: the head of a core's matrix queue goes to its unit. `bubble` is what the wait at the streamer adds
to MX_BUBBLE; an MSWAP's own slot adds 1. The drain port has written by then what it had the time to. -/
def matrixDispatch (n bubble : Nat) (w : World) : World :=
  let c := coreOf w n
  match c.mx.queue with
  | [] => w
  | e :: rest =>
    let w := if needsStreamer e.op then (flushStreams n c.mx.streams.length (rowsAvailable w.now) w).2 else w
    let c := coreOf w n
    let ready := c.mx.queue = e :: rest && mxReady w.now c e
    let f := if ready && readsSlmDest e.op then flushStreams n c.mx.streams.length (·.out.length) w else (ready, w)
    if !f.1 then f.2
    else
      let w := f.2
      let mhz := fld w (rPWR_OP (n / 64)) 0 16
      let fmt := match e.op with | .mstream a _ _ _ _ _ _ _ _ _ _ _ => a.fmt | _ => 0
      let e := { e with since := w.now, mhz := mhz, wait := loadWait w.now c.mx fmt mhz }
      let w := updMx n (fun m => { m with queue := rest, swapAt := lastSwap w.now m e }) w
      match e.op with
      | .mload d xposed =>
        let r := loadSet n d xposed 0 w
        mxConsume n r.1.2 d d.base (updMx n (fun m => { m with loader := some { e with snap := some r.1.1 } }) r.2)
      | .mswap =>
        let w := bump (updMx n (fun m => { m with active := 1 - m.active }) w) (rMX_BUBBLE n) (bubble + 1)
        updCore n (semSignal e.sem) w
      | .mstream a b m k cols start drain init ipath rnd sat ctr =>
        startStream n e a b m k cols start drain init ipath rnd sat ctr (bump w (rMX_BUBBLE n) bubble)
      | .mdrain d m start ipath clear rnd sat ctr => startDrain n e d m start ipath clear rnd sat ctr w

def execMatrixDispatch (n bubble : Nat) (s : State) := run (matrixDispatch n bubble) s

/-! ### Completion (R84, R95, R98, R99) -/

/-- MLOAD_COMPLETE: the loader has written its last row; the set is the shadow. -/
def mloadComplete (n : Nat) (w : World) : World :=
  match (coreOf w n).mx.loader with
  | none => w
  | some e =>
    updCore n (fun c => semSignal e.sem (unmark (fun k => k = bufMark (1 - c.mx.active))
      { c with mx := { setBuf (1 - c.mx.active) (e.snap.getD StatBuf.reset) c.mx with loader := none } })) w

def execMloadComplete (n : Nat) (s : State) := run (mloadComplete n) s

/-- MSTREAM_COMPLETE: the oldest stream's last row is available, or written and acknowledged. `stall` is what the
stream's waits on the drain port and on destination reads add to MX_DRAIN_STALL. -/
def mstreamComplete (n stall : Nat) (w : World) : World :=
  match (coreOf w n).mx.streams with
  | [] => w
  | e :: rest =>
    let fin (w : World) : World :=
      updCore n (fun c => semSignal e.sem { c with mx := { c.mx with streams := rest } })
        (bump w (rMX_DRAIN_STALL n) stall)
    match e.op with
    | .mstream _ b m _ _ _ true _ _ _ _ _ =>
      (match b with
        | some d => if e.out.length = m then drainWrite n e d m fin w else w
        | none => fin w)
    | _ => fin w

def execMstreamComplete (n stall : Nat) (s : State) := run (mstreamComplete n stall) s

/-- The oldest stream that still reads destination rows, with its place. -/
def readingStream (m : Matrix) : Option (MxEntry × Nat) :=
  (m.streams.zipIdx).find? (fun x => match x.1.op with
    | .mstream _ (some d) rows _ _ _ true init _ _ _ _ => readsDest d init && x.1.out.length < rows
    | _ => false)

/-- DRAIN_DESTINATION_READ_RETURN (R98): the next destination row of a drain-through stream with init = 0 returns
from memory, and the row leaves the array for the drain FIFO. The streams before it have written by then, and the FIFO
writes its rows when it holds 64. -/
def drainRead (n : Nat) (w : World) : World :=
  match readingStream (coreOf w n).mx with
  | none => w
  | some (e, idx) =>
    match e.op with
    | .mstream a (some d) _ k cols _ _ init ipath rnd sat ctr =>
      let l := launchOn w n
      let r := e.out.length
      let f := flushStreams n (if 64 ≤ r - e.done then idx + 1 else idx) (·.out.length) w
      let e := if 64 ≤ r - e.done then { e with done := r, paid := 0 } else e
      let st := if f.1 then rangeState l.ctx (dRowAt d r) (4 * cols) false (some l.work) f.2 else ((.waits, 0), f.2)
      (match st.1.1 with
        | .waits => st.2
        | .fault c lv => coreFault n e.slot e.mask e.pc c lv st.1.2 st.2
        | .ready => whenPaid n e.before e.paid (if d.global then [(dRowAt d r, 4 * cols)] else []) (fun w =>
            let o := drainThrough n (e.snap.getD StatBuf.reset) a d r k cols init ipath rnd sat ctr w
            mxConsume n o.1.2 d (dRowAt d r) (updMx n (fun m => { m with
              streams := nthSet m.streams idx { e with out := e.out ++ [o.1.1], paid := 0 } }) o.2)) st.2)
    | _ => w

def execDrainDestinationReadReturn (n : Nat) (s : State) := run (drainRead n) s

/-- MDRAIN_COMPLETE: the drainer's rows are written. -/
def mdrainComplete (n : Nat) (w : World) : World :=
  match (coreOf w n).mx.drainer with
  | none => w
  | some e =>
    match e.op with
    | .mdrain d _ _ _ _ _ _ _ =>
      drainWrite n e d e.out.length (fun w => updCore n (fun c => semSignal e.sem { c with mx := { c.mx with drainer := none } }) w) w
    | _ => w

def execMdrainComplete (n : Nat) (s : State) := run (mdrainComplete n) s

/-- LAUNCH_CLEAR_COMPLETE (R92, R166): the clears of a launch's start have ended on a core. -/
def launchClear (n : Nat) (w : World) : World :=
  updCore n (fun c => if c.clearBusy then
    unmark (accMarkIn 0 1024 128) { c with clearBusy := false, mx := { c.mx with acc := [] }, slm := [], slmPoison := [] } else c) w

def execLaunchClearComplete (n : Nat) (s : State) := run (launchClear n) s

end Sys2Proof.Machine
end

