-- ==== Sys2Proof/Machine/Observe.lean ====
section
/-!
DEFINITION. Snapshots of the byte counters (R476 to R478) and the Starchart record (R484, R485).
-/
namespace Sys2Proof.Machine

/-! ### Counters (R476) -/

/-- The counters of R476, by offset. -/
def dbgCounters : List Nat :=
  (List.range 256).flatMap (fun n => [rDBG_SLM_RD n, rDBG_SLM_WR n, rDBG_L1_HIT n, rDBG_L1_FILL n]) ++
  (List.range 12).flatMap (fun s => [rDBG_SC_RD s, rDBG_SC_WR s, rDBG_HBM_RD s, rDBG_HBM_WR s]) ++
  (List.range 16).flatMap (fun c => [rDBG_HOST_RD c, rDBG_HOST_WR c]) ++ [rDBG_SYSC_RD, rDBG_SYSC_WR] ++
  (List.range 4).flatMap (fun l => [rDBG_D2D_TX l, rDBG_D2D_RX l]) ++
  (List.range 20).flatMap (fun p => [rDBG_PORT_TX p, rDBG_PORT_RX p])

/-- The counter range: windows of cores, then slices, channels, system cache, links and ports. -/
def isDbgCounter (off : Nat) : Bool := (0xB10000 ≤ off && off < 0xB12000) || (0xB20000 ≤ off && off < 0xB20640)

/-- Every counter's value goes into its shadow; a shadow of 0 is not listed. -/
def captureAll (w : World) : World :=
  { w with dbg := { w.dbg with shadow := w.regs.filter (fun r => isDbgCounter r.1) } }

/-- A snapshot is complete: the stamp is that of the capture, gen rises and pending clears. -/
def snapDone (key : Nat) (w : World) : World :=
  let w := rgSet w rDBG_SNAP_STAMP_LO (key % 2 ^ 64)
  let w := { w with dbg := { w.dbg with stampHi := key / 2 ^ 64 + ftbState w * 2 ^ 16 } }
  let w := fldSet w rDBG_SNAP_STATUS 32 32 (fld w rDBG_SNAP_STATUS 32 32 + 1)
  fldSet w rDBG_SNAP_STATUS 0 1 0

/-- SNAPSHOT_CAPTURE: the strobe captures every counter. -/
def snapCapture (w : World) : World :=
  if configured w && fld w rDBG_SNAP_STATUS 0 1 = 0 then
    let st := stampNow (captureAll w)
    snapDone st.1 st.2
  else w

def execSnapshotCapture (s : State) := run snapCapture s

/-- The key armed, in the form of R159. -/
def snapKey (w : World) : Nat := fld w rDBG_SNAP_AT_HI 0 16 * 2 ^ 64 + rg w rDBG_SNAP_AT_LO

/-- SNAPSHOT_ARM: a write of DBG_SNAP_AT_HI with arm = 1. While the FTB does not run, or a snapshot is pending, the arm
is dropped. -/
def snapArm (v : Nat) (w : World) : World :=
  if !(configured w) then w
  else
    let w := fldSet w rDBG_SNAP_AT_HI 0 16 v
    if ftbState w = 0 || fld w rDBG_SNAP_STATUS 0 1 = 1 then w
    else fldSet (fldSet w rDBG_SNAP_AT_HI 63 1 1) rDBG_SNAP_STATUS 0 1 1

def execSnapshotArm (v : Nat) (s : State) := run (snapArm v) s

/-- SNAPSHOT_KEY_REACHED: every domain's replica has reached the key. -/
def snapReached (w : World) : World :=
  if configured w && fld w rDBG_SNAP_AT_HI 63 1 = 1 && reachedKey w (snapKey w) then
    snapDone (snapKey w) (captureAll (fldSet w rDBG_SNAP_AT_HI 63 1 0))
  else w

def execSnapshotKeyReached (s : State) := run snapReached s

/-! ### Starchart: nodes (R485) -/

def nodeKey (n : StarNode) : Nat × Nat := (n.kind, n.id)

/-- DESIGN CHOICE: an id of two parts holds the first in its low 4 bytes and the second above; a detail of two parts
holds 8 bytes each. -/
def two (a b : Nat) : Nat := a + b * 2 ^ 32
def wide (a b : Nat) : Nat := a + b * 2 ^ 64

def inScope (mask p : Nat) : Bool := mask = 0 || bit mask p

/-- Cores in scope that run a launch. -/
def starCores (w : World) (mask : Nat) : List (Nat × Core × CoreLaunch) :=
  w.cores.filterMap (fun c => match c.2.launch with
    | some l => if inScope mask l.part then some (c.1, c.2, l) else none
    | none => none)

/-- Waiting lanes of a group. -/
def waitingLanes (g : Group) : List (Nat × Thread) :=
  (g.threads.zipIdx.filter (fun t => t.1.st ≠ .active && t.1.st ≠ .exited)).map (fun t => (t.2, t.1))

def groupNode (n slot : Nat) (l : CoreLaunch) (g : Group) : StarNode :=
  let ws := waitingLanes g
  let mask := (maskOf (ws.map (·.1))).toNat
  ⟨1, if g.threads.any (fun t => t.st = .active) then 0 else 1, 0x100 + n, l.ctx, two n slot,
    wide mask ((ws.head?.map (fun t => t.2.pc)).getD 0)⟩

def entryId (q seq : Nat) : Nat := q + seq % 2 ^ 48 * 2 ^ 16

/-- The entries a queue has read and not completed, with their sequence numbers (R298). -/
def queueEntries (w : World) (q : Nat) (x : Queue) : List (Nat × Entry) :=
  x.ents.zipIdx.map (fun e => (seqOf w q (x.done + 1 + e.2), e.1))

def queueInScope (w : World) (mask q : Nat) : Bool := inScope mask (ctxPart w (queueCtx w q))

def starQueues (w : World) (mask : Nat) : List (Nat × Queue) := w.fe.queues.filter (fun q => queueInScope w mask q.1)

/-- The work of a queue's first entry, if released. -/
def headWork (w : World) (q : Nat) : Option Work := getWork w (workKey q none)

/-- What the first entry of a queue, once released, waits for: a frame time, another queue's entry, the launch that holds its
partition, for a graph run that of a node, or a pool. -/
def firstEdges (w : World) (q : Nat) (x : Queue) : List StarEdge :=
  let me : Nat × Nat := (4, entryId q (((queueEntries w q x).head?.map (·.1)).getD 0))
  let holder (p : Nat) : List StarEdge := match mget w.fe.launches p with
    | some l => if l.work / 8192 = q then []
      else [⟨8, me, (4, entryId (l.work / 8192) (match queueOf w (l.work / 8192) with
        | some y => seqOf w (l.work / 8192) (y.done + 1)
        | none => 0)), 0⟩]
    | none => []
  match headWork w q with
  | none => []
  | some k =>
    if k.fin ≠ none then []
    else if k.kind = 5 then
      if bit k.arg1 16 then [⟨3, me, (5, waitKey k), 0⟩]
      else [⟨4, me, (4, entryId (bits k.arg1 0 10) k.arg0), 0⟩]
    else if k.kind = 1 then holder k.part
    else
      let nodes := w.fe.works.filter (fun y => y.1 / 8192 = q && y.1 ≠ workKey q none && y.2.kind = 1 && y.2.fin = none)
      let page : List StarEdge := match w.mem.maps.find? (fun m => m.work = some (workKey q none) && m.frames.isEmpty) with
        | some m => [⟨7, me, (7, two m.part (b2n m.host)), m.len / 65536⟩]
        | none => []
      (nodes.flatMap (fun y => holder y.2.part)).eraseDups ++ page

/-- An entry that is released and waits for nothing is ready. -/
def entryNodes (w : World) (q : Nat) (x : Queue) : List StarNode :=
  (queueEntries w q x).zipIdx.map (fun e =>
    let released := e.2 = 0 && (headWork w q).isSome
    let ready := released && (firstEdges w q x).isEmpty
    ⟨4, b2n (!ready), 0x090 + (x.slot.getD 0) / 4, queueCtx w q, entryId q e.1.1, wide (entKind e.1.2) (b2n released)⟩)

/-- DESIGN CHOICE: the id of a barrier counter is its scope, barrier and unit as bytes 0, 1 and 7:4, the unit as a source unit;
the scope of a counter that nothing has reached in this phase is 0. -/
def barId (scope b unit : Nat) : Nat := two (scope + 256 * b) unit

/-- The scope of a core's counter: that of the first arrival of the phase (R388). -/
def coreScope (c : Core) (b : Nat) : Nat := ((arrivalsOf c b).head?.map (fun a => hScope a.handle)).getD 0

/-- Every barrier counter of a cooperative launch (R386), at its cores, clusters and dies that hold groups, and the package. -/
def barNodes (w : World) (p : Nat) (l : Launch) : List StarNode :=
  if !l.coop then []
  else
    let upper (level unit src : Nat) : List StarNode := (List.range 64).map (fun b =>
      let x := mgetD l.bars (barKey level unit b) ⟨0, [], 0⟩
      ⟨3, b2n (x.count ≠ 0), 0x0C0 + p, l.ctx, barId (hScope x.handle) b src, wide x.count (barExpect l level unit)⟩)
    (l.barCores.flatMap (fun n => (List.range 64).map (fun b =>
      let c := coreOf w n
      (⟨3, b2n (!(arrivalsOf c b).isEmpty), 0x100 + n, l.ctx, barId (coreScope c b) b (0x100 + n),
        wide (arrivalsOf c b).length c.expect⟩ : StarNode)))) ++
    (dedupNat (l.barCores.map (· / 16))).flatMap (fun c => upper 1 c (0x010 + c)) ++
    (dedupNat (l.barCores.map (· / 64))).flatMap (fun d => upper 2 d (0x020 + d)) ++
    (if l.barCores.isEmpty then [] else upper 3 0 0x001)

/-- The keys that groups or entries wait for. -/
def frameKeys (w : World) (mask : Nat) : List Nat :=
  let cs := (starCores w mask).flatMap (fun c => c.2.1.groups.flatMap (fun g => (waitingLanes g.2).filterMap (fun t =>
    match t.2.st with
    | .waitFrame k => some k
    | _ => none)))
  let qs := (starQueues w mask).filterMap (fun q => match headWork w q.1 with
    | some x => if x.kind = 5 && bit x.arg1 16 then some (waitKey x) else none
    | none => none)
  (cs ++ qs).eraseDups

/-- The record's nodes. A FRAME_TIME node is told from another by its target key. -/
def starNodes (w : World) (mask : Nat) : List StarNode :=
  let cs := starCores w mask
  let parts := (List.range 16).filter (fun p => partDefined w p && inScope mask p)
  let ins := w.cas.pageIns.filter (fun p => inScope mask (ctxPart w p.ctx))
  let maps := w.mem.maps.filter (fun m => inScope mask m.part)
  cs.flatMap (fun c => c.2.1.groups.map (fun g => groupNode c.1 g.1 c.2.2 g.2)) ++
  (parts.flatMap (partCores w)).flatMap (fun c => (List.range 16).map (fun n =>
    (⟨2, 0, 0x100 + c, ((coreOf w c).launch.map (·.ctx)).getD devCtx, two c n, (mgetD (coreOf w c).sems n 0).toNat⟩ : StarNode))) ++
  (w.fe.launches.filter (fun l => inScope mask l.1)).flatMap (fun l => barNodes w l.1 l.2) ++
  (starQueues w mask).flatMap (fun q => entryNodes w q.1 q.2) ++
  (frameKeys w mask).map (fun k => (⟨5, 0, 0x0A1, devCtx, 0, k⟩ : StarNode)) ++
  [⟨6, 0, 0x060, devCtx, 0x060, b2n (w.cas.run.isSome) + 2 ^ 32 * b2n (ins.any (·.frame = none)) +
      2 ^ 64 * b2n (!ins.isEmpty)⟩,
   ⟨6, 0, 0x050, devCtx, 0x050, b2n (!w.saf.cmds.isEmpty)⟩,
   ⟨6, 0, 0x026, devCtx, 0x026, b2n (!maps.isEmpty) + 2 ^ 32 * b2n (maps.any (fun m => m.frames.isEmpty))⟩] ++
  parts.flatMap (fun p => [(⟨7, 0, 0x0C0 + p, devCtx, two p 0, poolFree (hbmPool w p)⟩ : StarNode),
    ⟨7, 0, 0x0C0 + p, devCtx, two p 1, poolFree (hostPool w p)⟩]) ++
  (w.nbgs.filter (fun g => inScope mask (nbgPart w g.1))).flatMap (fun g => g.2.phases.map (fun b =>
    (⟨8, b2n (g.2.inflight.contains b.1), 0x026, g.2.ctx.getD devCtx, two g.1 b.1, wide b.2.phase b.2.arrived.length⟩ : StarNode))) ++
  (w.sched.saved.filter (fun s => inScope mask s.1)).flatMap (fun s => s.2.map (fun x =>
    (⟨9, 2, 0x0C0 + s.1, x.launch.ctx, two s.1 (x.launch.work / 8192), x.launch.epoch⟩ : StarNode)))

/-! ### Starchart: edges -/

/-- The edges of a group's waiting lanes, each wait once. -/
def groupEdges (n slot : Nat) (c : Core) (g : Group) : List StarEdge :=
  let me : Nat × Nat := (1, two n slot)
  ((waitingLanes g).map (fun t => match t.2.st with
    | .waitSem m target => (⟨1, me, (2, two n m), target.toNat⟩ : StarEdge)
    | .waitBar b _ => ⟨2, me, (3, barId (coreScope c b) b (0x100 + n)), mgetD c.phases b 0⟩
    | .waitFrame k => ⟨3, me, (5, k), 0⟩
    | .waitJoin m => ⟨6, me, me, m.toNat⟩
    | _ => ⟨0, me, me, 0⟩)).eraseDups

/-- The edges of a queue's entries: ORDER to the one before, and what the first waits for. -/
def entryEdges (w : World) (q : Nat) (x : Queue) : List StarEdge :=
  let es := queueEntries w q x
  (es.zip (es.drop 1)).map (fun p => (⟨5, (4, entryId q p.2.1), (4, entryId q p.1.1), 0⟩ : StarEdge)) ++ firstEdges w q x

/-- The edges of page-ins that wait for a page, and of network barriers that wait for a child or the parent. -/
def unitEdges (w : World) (mask : Nat) : List StarEdge :=
  (w.cas.pageIns.filter (fun p => p.frame = none && inScope mask (ctxPart w p.ctx))).map (fun p =>
    (⟨7, (6, 0x060), (7, two (ctxPart w p.ctx) 0), if p.level = 1 then 32 else 1⟩ : StarEdge)) ++
  (w.nbgs.filter (fun g => inScope mask (nbgPart w g.1))).flatMap (fun g => g.2.inflight.flatMap (fun b =>
    let me : Nat × Nat := (8, two g.1 b)
    let ph := phaseOf w g.1 b
    let missing := (nbgChildren w g.1).zipIdx.filter (fun c => !(ph.arrived.contains c.2))
    if missing.isEmpty && ph.sent.isSome then [(⟨9, me, me, nbgParent w g.1⟩ : StarEdge)]
    else missing.map (fun c => ⟨9, me, me, c.1⟩)))

def starEdges (w : World) (mask : Nat) : List StarEdge :=
  (starCores w mask).flatMap (fun c => c.2.1.groups.flatMap (fun g => groupEdges c.1 g.1 c.2.1 g.2)) ++
  (starQueues w mask).flatMap (fun q => entryEdges w q.1 q.2) ++ unitEdges w mask

/-! ### Starchart: the record and the build -/

def nodeBytes (n : StarNode) : List Byte :=
  [BitVec.ofNat 8 n.kind, BitVec.ofNat 8 n.st] ++ natLe n.unit 2 ++ natLe n.ctx 4 ++ natLe n.id 8 ++ natLe n.detail 16

/-- The place of a node in the record; FRAME_TIME nodes are found by their key. -/
def nodeAt (ns : List StarNode) (k : Nat × Nat) : Nat :=
  (ns.findIdx? (fun n => n.kind = k.1 && (if k.1 = 5 then n.detail = k.2 else n.id = k.2))).getD 0xFFFFFFFF

def edgeBytes (ns : List StarNode) (e : StarEdge) : List Byte :=
  natLe (nodeAt ns e.fromN) 4 ++ natLe (nodeAt ns e.toN) 4 ++ [BitVec.ofNat 8 e.kind, 0, 0, 0] ++ natLe e.value 4

/-- The record, cut to what fits in `len` bytes, and whether it was cut. -/
def starRecord (r : StarRun) (ns : List StarNode) (es : List StarEdge) (len : Nat) : List Byte × Bool :=
  let nn := min ns.length ((len - 64) / 32)
  let ne := min es.length ((len - 64 - 32 * nn) / 16)
  let cut := nn < ns.length || ne < es.length || len < 64
  let header := [1, BitVec.ofNat 8 (b2n r.freeze + 2 * b2n cut)] ++ natLe r.mask 2 ++ natLe nn 4 ++ natLe ne 4 ++
    natLe r.stamp 10 ++ List.replicate 42 0
  ((header ++ (ns.take nn).flatMap nodeBytes ++ (es.take ne).flatMap (edgeBytes ns)).take len, cut)

/-- BUILD, unless a build runs. DESIGN CHOICE: one that freezes reads everything now, so that no wait satisfied before it ends
shows; one that does not reads at its end. -/
def starBuild (mask : Nat) (freeze : Bool) (w : World) : World :=
  if !(configured w) || w.dbg.star.isSome then w
  else
    let st := stampNow w
    let m := mask % 2 ^ 16
    let read := if freeze then some (starNodes w m, starEdges w m) else none
    fldSet { st.2 with dbg := { st.2.dbg with star := some ⟨m, freeze, st.1, read⟩ } } rDBG_STAR_STATUS 63 1 1

def execBuild (mask : Nat) (freeze : Bool) (s : State) := run (starBuild mask freeze) s

/-- STARCHART_BUILD_COMPLETE: the record is written, the freeze ends, busy clears and a message is sent. -/
def starComplete (w : World) : World :=
  match w.dbg.star with
  | none => w
  | some r =>
    let ns := (r.read.map (·.1)).getD (starNodes w r.mask)
    let es := (r.read.map (·.2)).getD (starEdges w r.mask)
    let r2 := starRecord r ns es (fld w rDBG_STAR_LEN 0 32)
    let dest := rg w rDBG_STAR_DEST
    let w := if isMain dest then devWrite byControl dest r2.1 w else w
    let w := rgSet w rDBG_STAR_STATUS (b2n r2.2 * 2 ^ 62 + es.length % 2 ^ 24 * 2 ^ 32 + ns.length % 2 ^ 24)
    sendMsg 0x026 devCtx stOK (6 * 2 ^ 57) { w with dbg := { w.dbg with star := none } }

def execStarchartBuildComplete (s : State) := run starComplete s

end Sys2Proof.Machine
end

