-- ==== Sys2Proof/Machine/SafMath.lean ====
section
/-!
DEFINITION. The arithmetic of Saffron (R214 to R225): micro-ops, the hard-wired rules, bias correction, the
gradient, preconditioning, and the rounding of a record's blocks. A value travels with the flags it raised.
-/
namespace Sys2Proof.Machine

/-- A value of FP32 with the flags raised on the way to it. -/
abbrev FVal := W32 × Flags

def fmulV (ftz : Bool) (a b : FVal) : FVal := let r := fp32Mul ftz a.1 b.1; (r.1, a.2 ||| b.2 ||| r.2)
def faddV (ftz : Bool) (a b : FVal) : FVal := let r := fp32Add ftz a.1 b.1; (r.1, a.2 ||| b.2 ||| r.2)
def ffmaV (ftz : Bool) (a b c : FVal) : FVal := let r := fp32Fma ftz a.1 b.1 c.1; (r.1, a.2 ||| b.2 ||| c.2 ||| r.2)
def rcpV (ftz : Bool) (a : FVal) : FVal := let r := fpFunc ftz rcpVal a.1; (r.1, a.2 ||| r.2)
def negV (a : FVal) : FVal := (a.1 ^^^ 0x80000000#32, a.2)
def oneV : FVal := (0x3F800000#32, 0)

/-- sign (R216): a NaN gives the canonical NaN, a zero itself. -/
def signV (ftz : Bool) (a : FVal) : FVal :=
  let x := ftz32 ftz a.1
  let v := f32Val x.1
  let r : W32 := if v = .nan then nan32 else if isZeroVal v then x.1
    else if x.1.getLsbD 31 then 0xBF800000#32 else 0x3F800000#32
  (r, a.2 ||| x.2)

/-- select: a > +0 ? b : c. R52 applies to every operand. -/
def selectV (ftz : Bool) (a b c : W32) : FVal :=
  let g := fp32Cmp 4 ftz a 0
  let x := ftz32 ftz b
  let y := ftz32 ftz c
  (if g.1 then x.1 else y.1, g.2 ||| x.2 ||| y.2)

/-! ### Update programs (R222 to R224) -/

def mOp (m : W32) : Nat := bits m.toNat 29 3
def mD (m : W32) : Nat := bits m.toNat 25 4
/-- Operand a, b or c: its number and its neg bit. -/
def mA (m : W32) : Nat × Bool := (bits m.toNat 20 5, bit m.toNat 9)
def mB (m : W32) : Nat × Bool := (bits m.toNat 15 5, bit m.toNat 8)
def mC (m : W32) : Nat × Bool := (bits m.toNat 10 5, bit m.toNat 7)

/-- Operands an operation reads. -/
def mArity (op : Nat) : Nat := match op with
  | 0 => 2 | 1 => 2 | 2 => 3 | 3 => 1 | 4 => 1 | 5 => 2 | _ => 3

/-- A micro-op that passes R222's check. -/
def microOk (m : W32) : Bool :=
  bits m.toNat 0 7 = 0 && (3 ≤ mArity (mOp m) || mC m = (0, false)) && (2 ≤ mArity (mOp m) || mB m = (0, false))

/-- The operation's result. -/
def microVal (ftz : Bool) (op : Nat) (a b c : W32) : FVal := match op with
  | 0 => fp32Add ftz a b
  | 1 => fp32Mul ftz a b
  | 2 => fp32Fma ftz a b c
  | 3 => fpFunc ftz rsqVal a
  | 4 => signV ftz (a, 0)
  | 5 => fp32MinMax true ftz a b
  | 6 =>
    let m := fp32MinMax true ftz a b
    let r := fp32MinMax false ftz m.1 c
    (r.1, m.2 ||| r.2)
  | _ => selectV ftz a b c

/-- One micro-op on the registers r0 to r15, with the constants c0 to c15. -/
def microStep (ftz : Bool) (cs : List W32) (s : List W32 × Flags) (m : W32) : List W32 × Flags :=
  let get (x : Nat × Bool) : W32 :=
    let v := if x.1 < 16 then nth s.1 x.1 0 else nth cs (x.1 - 16) 0
    if x.2 then v ^^^ 0x80000000#32 else v
  let r := microVal ftz (mOp m) (get (mA m)) (get (mB m)) (get (mC m))
  (nthSet s.1 (mD m) r.1, s.2 ||| r.2)

/-- A micro-op without negations, from its fields. -/
def micro (op d a b c : Nat) : W32 := BitVec.ofNat 32 (op * 2 ^ 29 + d * 2 ^ 25 + a * 2 ^ 20 + b * 2 ^ 15 + c * 2 ^ 10)

/-- Rule 1, AdamW, as the program of R218. -/
def adamw : List W32 :=
  [micro 1 4 20 0 0, micro 2 2 19 2 4, micro 1 5 0 0 0, micro 1 5 22 5 0, micro 2 3 21 3 5, micro 1 6 3 25 0,
   micro 0 6 6 23 0, micro 3 6 6 0 0, micro 1 7 2 24 0, micro 1 7 7 6 0, micro 1 8 1 18 0, micro 2 1 17 7 8]

/-! ### The rules (R217 to R219, R224) -/

/-- What a rule makes of one element: w', m', v' and the flags. -/
structure Elem3 where
  w : W32
  m : W32
  v : W32
  fl : Flags

/-- Hyperparameters h0 to h7. -/
def hyper (h : List W32) (i : Nat) : FVal := (nth h i 0, 0)

def rule0 (ftz nesterov : Bool) (h : List W32) (g w m v : W32) : Elem3 :=
  let m' := ffmaV ftz (hyper h 3) (m, 0) (g, 0)
  let d := if nesterov then ffmaV ftz (hyper h 3) m' (g, 0) else m'
  let w' := ffmaV ftz (hyper h 1) d (fmulV ftz (w, 0) (hyper h 2))
  ⟨w'.1, m'.1, v, m'.2 ||| w'.2⟩

def rule2 (ftz : Bool) (h : List W32) (g w m v : W32) : Elem3 :=
  let c := ffmaV ftz (hyper h 3) (m, 0) (fmulV ftz (hyper h 4) (g, 0))
  let w' := ffmaV ftz (hyper h 1) (signV ftz c) (fmulV ftz (w, 0) (hyper h 2))
  let m' := ffmaV ftz (hyper h 5) (m, 0) (fmulV ftz (hyper h 6) (g, 0))
  ⟨w'.1, m'.1, v, w'.2 ||| m'.2⟩

/-- An update program on one element, with the bias corrections k1 and k2. -/
def ruleProg (ftz : Bool) (prog h : List W32) (k1 k2 g w m v : W32) : Elem3 :=
  let cs := (List.range 8).map (fun i => nth h i 0) ++ [k1, k2, 0x3F800000#32] ++ List.replicate 5 0
  let r := prog.foldl (microStep ftz cs) ([g, w, m, v] ++ List.replicate 12 0, 0)
  ⟨nth r.1 1 0, nth r.1 2 0, nth r.1 3 0, r.2⟩

/-! ### Bias correction (R215) -/

/-- The power of a decay by squaring, bit by bit from bit 0; the state is the result, the square and the flags. -/
def bpow (ftz : Bool) (b : W32) (t : Nat) : FVal :=
  let r := (List.range 24).foldl (fun (s : W32 × W32 × Flags) i =>
    let m := if bit t i then fp32Mul ftz s.1 s.2.1 else (s.1, 0)
    let q := fp32Mul ftz s.2.1 s.2.1
    (m.1, q.1, s.2.2 ||| m.2 ||| q.2)) (0x3F800000#32, b, 0)
  (r.1, r.2.2)

def biasOf (ftz : Bool) (b : W32) (t : Nat) (wrapped : Bool) : FVal :=
  if wrapped || 2 ^ 24 ≤ t then oneV else rcpV ftz (faddV ftz oneV (negV (bpow ftz b t)))

/-! ### The gradient (R211, R214, R216, R220) -/

/-- Element `i` of gradient bytes with its block scale, by the format word. -/
def gradElem (ftz : Bool) (f : Nat) (data scales : List Byte) (i : Nat) : DotOperand × Flags :=
  let ef := fwFmt f
  let n := elemBits ef / 8
  let x := readElem ftz ef (leNat ((data.drop (n * i)).take n))
  let sc := if fwBs f then scaleVal (fwScale f) ((scales.getD (i / fwBlock f) 0).toNat) else some (1, 1)
  (⟨x.1, sc⟩, x.2)

/-- The exact value of an operand with its scale (R70). -/
def scaledVal (o : DotOperand) : Val := match o.scale, o.val with
  | none, _ => .nan
  | some (n, d), .fin s a b => .fin s (a * n) (b * d)
  | some _, v => v

/-- A decoded gradient value below the FP32 normal range is flushed as an operand of gscale. -/
def flushVal (ftz : Bool) (v : Val) : Val × Flags := match v with
  | .fin s n d => if ftz && n ≠ 0 && fracLt n d 1 (2 ^ 126) then (.fin s 0 1, flagFlush) else (v, 0)
  | _ => (v, 0)

/-- gscale times a decoded gradient value, rounded once. DESIGN CHOICE: a value that its block's scale takes above FP32's
greatest number is multiplied exactly, not as an infinity: R49 decodes it without rounding, and R216 calls it an FP32
operand. -/
def gscaleMul (ftz : Bool) (h0 : W32) (v : Val) : FVal :=
  let h := ftz32 ftz h0
  let x := flushVal ftz v
  let p := valMul (f32Val h.1) x.1
  let r := toF32 ftz p.1
  (r.1, h.2 ||| x.2 ||| p.2 ||| r.2)

/-- The scaled gradient of a record whose 32 elements are given. -/
def plainGrad (ftz : Bool) (f : Nat) (h0 : W32) (data scales : List Byte) : List FVal :=
  (List.range 32).map (fun i =>
    let o := gradElem ftz f data scales i
    let r := gscaleMul ftz h0 (scaledVal o.1)
    (r.1, o.2 ||| r.2))

/-- Column `c` of a slice preconditioned by the 256 × 256 BF16 block in a factor slot (R220). -/
def precondition (ftz : Bool) (f : Nat) (data scales : List Byte) (q : Map Byte) (c : Nat) : FVal :=
  let ps := (List.range 256).map (fun k =>
    let x := gradElem ftz f data scales k
    let y := readElem ftz .bf16 (bytesAt q (512 * k + 2 * c) 2)
    ((x.1, (⟨y.1, some (1, 1)⟩ : DotOperand)), x.2 ||| y.2))
  let r := dotFloat ftz 0 (ps.map (·.1))
  (r.1, ps.foldl (fun a p => a ||| p.2) r.2)

/-- The scaled, preconditioned gradient of record `j` of its slice of 8. -/
def slicedGrad (ftz : Bool) (f : Nat) (h0 : W32) (data scales : List Byte) (q : Map Byte) (j : Nat) : List FVal :=
  (List.range 32).map (fun i => fmulV ftz (h0, 0) (precondition ftz f data scales q (32 * j + i)))

/-! ### Blocks of a record (R45, R225) -/

/-- The 32 values of a KB block. -/
def blockVals (ftz : Bool) (p : Nat) (bs : List Byte) : List FVal :=
  (List.range 32).map (fun i =>
    let c := convFloat ftz .fp32 .rne false 0 (kbElem p bs i)
    (BitVec.ofNat 32 c.1, c.2))

/-- A KB block encoded from 32 values. `blk` is 0 for W, 1 for M, 2 for V. -/
def blockBytes (sr : Bool) (p blk seed ctr tag : Nat) (vs : List W32) : List Byte × Flags :=
  let c := BitVec.ofNat 64 (ctr ^^^ (blk * 2 ^ 62) ^^^ (tag / 2 ^ 27))
  let rs := (List.range 32).map (fun i =>
    if sr then srR (BitVec.ofNat 64 seed) c (BitVec.ofNat 32 (tag % 2 ^ 27 * 32 + i)) else 0)
  let e := kbEncode (if sr then .sr else .rne) p (vs.map f32Val) rs
  (kbBytes p e.1 e.2.1, e.2.2)

end Sys2Proof.Machine
end

