-- ==== Sys2Proof/Machine/Saffron.lean ====
section
/-!
DEFINITION. Saffron (R207 to R229): its commands, which unit takes which record, one step on one record, loads of
factors and programs, failures and completion.
-/
namespace Sys2Proof.Machine

/-! ### The command (R209, R211) -/

def sOp (c : List Byte) : Nat := le c 1 1
def sRule (c : List Byte) : Nat := le c 2 1
def sFlag (c : List Byte) (i : Nat) : Bool := bit (le c 3 1) i
def sRows (c : List Byte) : Nat := le c 4 4
def sRowRecs (c : List Byte) : Nat := le c 8 4
def sFactor (c : List Byte) : Nat := bits (le c 12 1) 0 3
def sRecBase (c : List Byte) : Nat := le c 16 8
def sRecStride (c : List Byte) : Nat := le c 24 8
def sGradBase (c : List Byte) : Nat := le c 32 8
def sGradStride (c : List Byte) : Nat := le c 40 8
def sFmt (c : List Byte) : Nat := le c 48 2
def sScaleOff (c : List Byte) : Int := sextInt (le c 52 4) 32
def sScaleStride (c : List Byte) : Nat := le c 56 4
def sHyper (c : List Byte) : List W32 := (List.range 8).map (fun i => BitVec.ofNat 32 (le c (80 + 4 * i) 4))
/-- A PROG_LOAD's micro-ops, kept behind its 128 bytes. -/
def sProg (c : List Byte) : List W32 :=
  (List.range ((c.length - 128) / 4)).map (fun i => BitVec.ofNat 32 (le c (128 + 4 * i) 4))

/-- The gradient formats of R211. -/
def sFmtOk (f : Nat) : Bool :=
  !(fwBad f) && (fwElem f = 0 || fwElem f = 1 || fwElem f = 4) && (!(fwBs f) || fwElem f = 4)

/-- Bytes of an element, and scale bytes of a record. -/
def sElem (c : List Byte) : Nat := elemBits (fwFmt (sFmt c)) / 8
def sScales (c : List Byte) : Nat := if fwBs (sFmt c) then 32 / fwBlock (sFmt c) else 0

/-- Addresses of record (r, j), of its gradient and of its scale bytes. -/
def recVa (c : List Byte) (r j : Nat) : Nat := sRecBase c + r * sRecStride c + 256 * j
def gradVa (c : List Byte) (r j : Nat) : Nat := sGradBase c + r * sGradStride c + 32 * sElem c * j
def scaleVa (c : List Byte) (r j : Nat) : Int :=
  (sGradBase c : Int) + sScaleOff c + ((r * sScaleStride c + sScales c * j : Nat) : Int)

/-- A field of a load that must be 0 is not. -/
def loadBad (c : List Byte) : Bool :=
  (if sOp c = 2 then sRule c ≠ 0 else le c 12 1 ≠ 0) || le c 3 1 ≠ 0 || le c 4 8 ≠ 0 || le c 13 3 ≠ 0 ||
  le c 24 104 ≠ 0

/-- An UPDATE's addresses are addresses: bits [63:57] are 0 (R209). -/
def basesOk (c : List Byte) : Bool := decide (sRecBase c < 2 ^ 57) && decide (sGradBase c < 2 ^ 57)

/-- An UPDATE's counts, and its addresses, lie in R209's ranges. -/
def sizesOk (c : List Byte) : Bool :=
  1 ≤ sRows c && decide (sRows c ≤ 2 ^ 24) && 1 ≤ sRowRecs c && decide (sRowRecs c ≤ 2 ^ 24) &&
    decide (sRows c * sRowRecs c < 2 ^ 32) && basesOk c

/-- A PROG_LOAD's target is a program slot. -/
def progTarget (c : List Byte) : Bool := 16 ≤ sRule c && decide (sRule c < 32)

/-- R209's table is broken, or a count is out of range. -/
def sBad (c : List Byte) : Bool :=
  le c 0 1 ≠ 1 || sOp c = 0 || decide (3 < sOp c) || decide (2 ^ 57 ≤ sRecBase c) || decide (8 ≤ le c 12 1) ||
  (if sOp c = 1 then
    decide (16 ≤ le c 3 1) || !(sizesOk c) || le c 13 3 ≠ 0 || le c 50 2 ≠ 0 || le c 60 4 ≠ 0 || le c 112 16 ≠ 0
  else loadBad c)

/-! ### Slots (R221) -/

/-- The Saffron units. -/
def safUnits : List Nat := List.range 12

def factorValid (w : World) (s : Nat) : Bool := safUnits.all (fun u => (mget w.saf.factors (8 * u + s)).isSome)
def progValid (w : World) (s : Nat) : Bool := safUnits.all (fun u => (mget w.saf.progs (16 * u + s)).isSome)

/-- A rule that an UPDATE may name (R212). -/
def ruleArmed (w : World) (rule : Nat) : Bool :=
  if rule < 4 then fld w rSAF_CFG rule 1 = 1
  else 16 ≤ rule && decide (rule < 32) && fld w rSAF_CFG 4 1 = 1 && progValid w (rule - 16)

/-- R212's VERSION_MISMATCH of an UPDATE. -/
def updateBad (w : World) (c : List Byte) : Bool :=
  let al := if sRule c = 3 then 2048 else 256
  !(ruleArmed w (sRule c)) || !(sFmtOk (sFmt c)) || sRecBase c % al ≠ 0 || sRecStride c % al ≠ 0 ||
  (sRule c = 3 && (sRowRecs c % 8 ≠ 0 || decide (8 < sFactor c + sRowRecs c / 8) ||
    !((List.range (sRowRecs c / 8)).all (fun i => factorValid w (sFactor c + i)))))

/-! ### Release (R212) -/

/-- Every page of a range is mapped and NORMAL, and its objects are not gone (R327). -/
def rangeNormal (w : World) (ctx va n stamp : Nat) : Bool :=
  !(rangeGone w ctx va n stamp) && (vaPages va n).all (fun p => match walk w ctx p with
    | .ok l => pteAttr l.pte = 0
    | .error _ => false)

/-- The byte ranges of an UPDATE, row by row: records, and gradients and scales where the format gives their size. -/
def updateRanges (c : List Byte) : List (Int × Nat) :=
  (List.range (sRows c)).flatMap (fun r => ((recVa c r 0 : Nat), 256 * sRowRecs c) ::
    (if sFmtOk (sFmt c) then
      [((gradVa c r 0 : Nat), 32 * sElem c * sRowRecs c), (scaleVa c r 0, sScales c * sRowRecs c)] else []))

def rangesNormal (w : World) (ctx stamp : Nat) (rs : List (Int × Nat)) : Bool :=
  rs.all (fun r => r.2 = 0 || (0 ≤ r.1 && rangeNormal w ctx r.1.toNat r.2 stamp))

def safReject (k st : Nat) (w : World) : World := finWork k st (bump w rSAF_REJECT 1)

/-- Adds a checked command to the units, at its place in release order. -/
def safAdd (k : Nat) (x : Work) (c : List Byte) (poison : Bool) (w : World) : World :=
  let s : SafCmd :=
    { work := k, ctx := x.ctx, cmd := c, flags := 0, poison := poison, version := false, gone := false, failed := []
      waits := [], skipped := [], done := [], loaded := [] }
  let earlier (c : SafCmd) : Bool := (getWork w c.work).any (fun y => y.order < x.order)
  { w with saf := { w.saf with cmds := w.saf.cmds.takeWhile earlier ++ [s] ++ w.saf.cmds.dropWhile earlier } }

/-- The command of a work that the units hold. -/
def safOf (w : World) (k : Nat) : Option SafCmd := w.saf.cmds.find? (·.work = k)

def updSaf (k : Nat) (f : SafCmd → SafCmd) (w : World) : World :=
  { w with saf := { w.saf with cmds := w.saf.cmds.map (fun c => if c.work = k then f c else c) } }

/-! ### Units and order (R213) -/

/-- The unit that takes what lies at a physical address. -/
def unitOf (w : World) (pa : Nat) : Nat :=
  if inHbm pa then stackOf w pa else (pa - 0x1000000000000) / 4096 % 12

/-- The unit of record number `i` of an UPDATE; none while its page is not in memory. -/
def recUnit (w : World) (s : SafCmd) (i : Nat) : Option Nat :=
  (vaRead w s.ctx (recVa s.cmd (i / sRowRecs s.cmd) (i % sRowRecs s.cmd))).map (unitOf w)

def recCount (s : SafCmd) : Nat := sRows s.cmd * sRowRecs s.cmd

/-- Has a unit finished a command? -/
def unitDone (w : World) (s : SafCmd) (u : Nat) : Bool :=
  if sOp s.cmd = 1 then
    (List.range (recCount s)).all (fun i => s.done.contains i || (match recUnit w s i with
      | some v => v ≠ u
      | none => false))
  else s.loaded.contains u

/-- A command released earlier has not been checked yet. -/
def uncheckedBefore (w : World) (k : Nat) : Bool :=
  w.fe.works.any (fun y => y.2.kind = 3 && y.2.fin = none && (safOf w y.1).isNone &&
    (getWork w k).any (fun x => y.2.order < x.order))

/-- Has a unit finished every command released before this one? -/
def unitReached (w : World) (k u : Nat) : Bool :=
  (w.saf.cmds.takeWhile (fun s => s.work ≠ k && !((getWork w s.work).any (fun y =>
    (getWork w k).any (fun x => x.order < y.order))))).all (fun s => unitDone w s u) && !(uncheckedBefore w k)

/-- A unit's slot is no longer valid. -/
def dropLoad (c : List Byte) (u : Nat) (w : World) : World :=
  if sOp c = 2 then { w with saf := { w.saf with factors := mdel w.saf.factors (8 * u + sFactor c) } }
  else { w with saf := { w.saf with progs := mdel w.saf.progs (16 * u + (sRule c - 16)) } }

/-- A load that stops leaves its slot invalid in every unit that has not finished its copy (R221), once those units have
finished the commands released before it. -/
def stopLoad (k : Nat) (c : List Byte) (loaded : List Nat) (w : World) : Bool × World :=
  let us := safUnits.filter (fun u => !(loaded.contains u))
  if us.all (unitReached w k) then (true, forAll us (dropLoad c) w) else (false, w)

/-- A command stopped before its check: a load still leaves its slot invalid. -/
def stopUnchecked (k : Nat) (x : Work) (w : World) : World :=
  let loads := sOp x.cmd = 2 || (sOp x.cmd = 3 && progTarget x.cmd)
  if sBad x.cmd || !loads then finStopped k w
  else
    let r := stopLoad k x.cmd [] w
    if r.1 then finStopped k r.2 else w

/-- Releases a command of one op to the units. One stopped before that ends at once. A structure of another version, or of
a reserved op, names no range. -/
def safStart (op : Nat) (f : Nat → Work → World → World) (k : Nat) (w : World) : World :=
  match workRuns w k 3 with
  | none => w
  | some x =>
    if (safOf w k).isSome then w
    else if x.stop ≠ none then stopUnchecked k x w
    else if le x.cmd 0 1 ≠ 1 || sOp x.cmd = 0 || 3 < sOp x.cmd then safReject k stVersion w
    else if sOp x.cmd ≠ op then w
    else f k x w

/-- UPDATE's check, OBJECT_GONE before VERSION_MISMATCH (R13). DESIGN CHOICE: a base with bits above 56 names no range, so
it is a broken field only. -/
def safUpdate (k : Nat) (x : Work) (w : World) : World :=
  if basesOk x.cmd && !(rangesNormal w x.ctx x.stamp (updateRanges x.cmd)) then safReject k stObjGone w
  else if sBad x.cmd || updateBad w x.cmd then safReject k stVersion w
  else safAdd k x x.cmd false w

def execUpdate (k : Nat) (s : State) := run (safStart 1 safUpdate k) s

def factorLoad (k : Nat) (x : Work) (w : World) : World :=
  if sRecBase x.cmd < 2 ^ 57 && !(rangeNormal w x.ctx (sRecBase x.cmd) 131072 x.stamp) then safReject k stObjGone w
  else if sBad x.cmd || sRecBase x.cmd % 256 ≠ 0 then safReject k stVersion w
  else safAdd k x x.cmd false w

def execFactorLoad (k : Nat) (s : State) := run (safStart 2 factorLoad k) s

/-- PROG_LOAD reads the program and checks it (R222). A page that is not here is waited for. A program that holds poison
cannot be checked: each unit meets the poison as it copies it. DESIGN CHOICE: the check's reads train unit 0's detectors
(R241), since one read serves every unit's check. -/
def progLoad (k : Nat) (x : Work) (w : World) : World :=
  let src := sRecBase x.cmd
  if 2 ^ 57 ≤ src then safReject k stVersion w else
  let ok (n : Nat) (w : World) : VaState × World :=
    if rangeNormal w x.ctx src n x.stamp then (let r := rangeState x.ctx src n false (some k) w; (r.1.1, r.2)) else (.fault 1 0, w)
  let head := ok 4 w
  match head.1 with
  | .waits => head.2
  | .fault _ _ => safReject k stObjGone head.2
  | .ready =>
    let h := streamRead bySaffron 0x050 0 x.ctx src 4 head.2
    let n := le h.1 1 1
    if (poisonAt h.2 x.ctx src 4).isSome then
      if sBad x.cmd || !(progTarget x.cmd) then safReject k stVersion h.2 else safAdd k x x.cmd true h.2
    else if n = 0 || 64 < n then safReject k stVersion h.2
    else
      let body := ok (4 + 4 * n) h.2
      match body.1 with
      | .waits => body.2
      | .fault _ _ => safReject k stObjGone body.2
      | .ready =>
        let b := streamRead bySaffron 0x050 0 x.ctx (src + 4) (4 * n) body.2
        let poison := (poisonAt b.2 x.ctx (src + 4) (4 * n)).isSome
        let bad := sBad x.cmd || le h.1 0 1 ≠ 1 || le h.1 2 2 ≠ 0 || !(progTarget x.cmd) ||
          (!poison && !((sProg (x.cmd ++ b.1)).all microOk))
        if bad then safReject k stVersion b.2 else safAdd k x (x.cmd ++ b.1) poison b.2

def execProgLoad (k : Nat) (s : State) := run (safStart 3 progLoad k) s

/-- May a unit take record `i` now: it is its own, not done, and no earlier record of the row is still to be done by
the unit? -/
def mayTake (w : World) (s : SafCmd) (u i : Nat) : Bool :=
  let n := sRowRecs s.cmd
  i < recCount s && !(s.done.contains i) && recUnit w s i = some u &&
    (List.range (i % n)).all (fun j => s.done.contains (i / n * n + j) || (match recUnit w s (i / n * n + j) with
      | some v => v ≠ u
      | none => false))

/-! ### Failures and messages (R227, R228) -/

/-- The first failure, or skip, of a command in a unit sends its message. -/
def safTell (u ctx cause va : Nat) (told : Bool) (w : World) : World :=
  if told then w else sendMsg (0x050 + u) ctx stOK (cause * 2 ^ 57 + va % 2 ^ 57) w

/-- A failed record: its message, and the log. Causes: 1 crc, 2 poison, 3 version, 4 rule. -/
def recordFault (k u cause va : Nat) (s : SafCmd) (w : World) : World :=
  let w := safTell u s.ctx cause va (s.failed.contains u) w
  let first := fld w rSAF_ERR 63 1 = 0
  let w := recordErr w rSAF_ERR (cause * 2 ^ 56 + u * 2 ^ 52 + s.ctx * 2 ^ 32)
  let w := if first then rgSet w rSAF_ERR_VA (va % 2 ^ 57) else w
  updSaf k (fun c => { c with
    failed := sIns c.failed u
    poison := c.poison || decide (cause ≤ 2)
    version := c.version || decide (3 ≤ cause) }) w

/-- A Saffron unit consumes poison (R471, R473). -/
def safPoison (u ctx pa : Nat) (w : World) : World :=
  rasLog (if inHbm pa then kindHbm else kindLpddr) 2 (0x050 + u) (some ctx) false pa (bump w rRAS_POISON_CONSUMED 1)

/-! ### One step on one record (R214) -/

/-- Blocks of a record. -/
def recW (b : List Byte) : List Byte := (b.drop 25).take 97
def recM (b : List Byte) : List Byte := (b.drop 122).take 65
def recV (b : List Byte) : List Byte := (b.drop 187).take 65
def recTag (b : List Byte) : Nat := le b 8 8

/-- The step counter after one update, and whether it has wrapped (R215). -/
def advance (b : List Byte) : Nat × Bool :=
  if le b 4 4 = 0xFFFFFFFF then (0, true) else (le b 4 4 + 1, bit (le b 2 1) 0)

/-- What a step makes of a record: its new bytes and the flags, or a skip with the flags of its gradient. -/
inductive Stepped where
  | skip (fl : Flags)
  | done (b : List Byte) (wrapped : Bool) (fl : Flags)

def orFl (vs : List FVal) : Flags := vs.foldl (fun a v => a ||| v.2) 0

/-- The rule's program; rules 0 and 2 have none. -/
def ruleElem (c : List Byte) (prog : List W32) (k1 k2 g w m v : W32) : Elem3 :=
  let ftz := sFlag c 1
  let h := sHyper c
  if sRule c = 0 then rule0 ftz (sFlag c 0) h g w m v
  else if sRule c = 2 then rule2 ftz h g w m v
  else ruleProg ftz (if sRule c < 4 then adamw else prog) h k1 k2 g w m v

/-- A value that is a NaN or an infinity. -/
def nonFinite (v : FVal) : Bool := match f32Val v.1 with | .fin .. => false | _ => true

/-- A step on the bytes of a record with its scaled gradient. With apply_nonfinite = 0 a non-finite gradient skips the record
(R228), and so does a block that is non-finite on entry (R229). DESIGN CHOICE: R214's procedure names the gradient only;
R229's table decides. -/
def stepRecord (c : List Byte) (prog : List W32) (b : List Byte) (gs : List FVal) : Stepped :=
  let ftz := sFlag c 1
  let ws := blockVals ftz 23 (recW b)
  let ms := blockVals ftz 15 (recM b)
  let vs := blockVals ftz 15 (recV b)
  let bad := (gs ++ ws ++ ms ++ vs).any nonFinite
  let fl0 := orFl gs ||| orFl ws ||| orFl ms ||| orFl vs
  if bad && !(sFlag c 3) then .skip fl0
  else
    let t := advance b
    let k1 := biasOf ftz (nth (sHyper c) 3 0) t.1 t.2
    let k2 := biasOf ftz (nth (sHyper c) 5 0) t.1 t.2
    let es := (List.range 32).map (fun i =>
      ruleElem c prog k1.1 k2.1 (nth gs i (0, 0)).1 (nth ws i (0, 0)).1 (nth ms i (0, 0)).1 (nth vs i (0, 0)).1)
    let enc (p blk : Nat) (xs : List W32) := blockBytes (sFlag c 2) p blk (le c 64 8) (le c 72 8) (recTag b) xs
    let w' := enc 23 0 (es.map (·.w))
    let m' := enc 15 1 (es.map (·.m))
    let v' : List Byte × Flags := if sRule c = 0 || sRule c = 2 then (recV b, 0) else enc 15 2 (es.map (·.v))
    let head := b.take 2 ++ natLe (le b 2 1 ||| b2n t.2) 1 ++ (b.drop 3).take 1 ++ natLe t.1 4 ++ (b.drop 8).take 17
    let body := head ++ w'.1 ++ m'.1 ++ v'.1
    let fl := es.foldl (fun a e => a ||| e.fl) (fl0 ||| k1.2 ||| k2.2 ||| w'.2 ||| m'.2 ||| v'.2)
    .done (body ++ natLe (crc32c body) 4) (le b 4 4 = 0xFFFFFFFF) fl

/-! ### RECORD_UPDATE -/

/-- The ranges a record's step reads beside the record: its gradient and scales, or those of its slice. -/
def gradRanges (c : List Byte) (r j : Nat) : List (Nat × Nat) :=
  let j0 := if sRule c = 3 then j / 8 * 8 else j
  let n := if sRule c = 3 then 8 else 1
  [(gradVa c r j0, 32 * sElem c * n), ((scaleVa c r j0).toNat, sScales c * n)]

/-- What a record's step reads, in its order: the record, its gradient and its scales. -/
def recordReads (u : Nat) (s : SafCmd) (r j : Nat) (w : World) : (List Byte × List Byte × List Byte) × World :=
  let read (a n : Nat) := streamRead bySaffron (0x050 + u) 0 s.ctx a n
  let gr := nth (gradRanges s.cmd r j) 0 (0, 0)
  let sr := nth (gradRanges s.cmd r j) 1 (0, 0)
  let b := read (recVa s.cmd r j) 256 w
  let g := read gr.1 gr.2 b.2
  let q := if sr.2 = 0 then ([], g.2) else read sr.1 sr.2 g.2
  ((b.1, g.1, q.1), q.2)

/-- Applies one step to the record at `va`, all of whose bytes can be read. DESIGN CHOICE: an UPDATE whose slot has lost its
factor or program since its check computes with an all-zero factor, or a program of no instructions (R221 does not say);
`stopLoad` lets a stopped load drop its slot only after the UPDATEs before it. -/
def updateRecord (k u r j : Nat) (s : SafCmd) (w : World) : World :=
  let c := s.cmd
  let va := recVa c r j
  let rd := recordReads u s r j w
  let b := rd.1.1
  let w := bump rd.2 rSAF_RD_BYTES (256 + 32 * sElem c + sScales c)
  let bad := ((va, 256) :: (gradRanges c r j).filter (fun x => x.2 ≠ 0)).findSome? (fun x => poisonAt w s.ctx x.1 x.2)
  match bad with
  | some pa => recordFault k u 2 va s (safPoison u s.ctx pa w)
  | none =>
    if crc32c (b.take 252) ≠ le b 252 4 then recordFault k u 1 va s w
    else if le b 0 1 ≠ 1 then recordFault k u 3 va s w
    else if le b 1 1 ≠ sRule c then recordFault k u 4 va s w
    else
      let ftz := sFlag c 1
      let h0 := nth (sHyper c) 0 0
      let gs := if sRule c = 3 then
          slicedGrad ftz (sFmt c) h0 rd.1.2.1 rd.1.2.2 (mgetD w.saf.factors (8 * u + sFactor c + j / 8) []) (j % 8)
        else plainGrad ftz (sFmt c) h0 rd.1.2.1 rd.1.2.2
      match stepRecord c (mgetD w.saf.progs (16 * u + (sRule c - 16)) []) b gs with
      | .skip fl =>
        let w := safTell u s.ctx 5 va (s.skipped.contains u) (bump w rSAF_SKIPPED 1)
        updSaf k (fun x => { x with skipped := sIns x.skipped u, flags := x.flags ||| fl }) w
      | .done b' wrapped fl =>
        let w := if wrapped then bump w rSAF_WRAPS 1 else w
        let w := vaDevWrite bySaffron s.ctx va b' (bump (bump w rSAF_RECORDS 1) rSAF_WR_BYTES 256)
        updSaf k (fun x => { x with flags := x.flags ||| fl }) w

/-- The state of several ranges, of which an empty one needs nothing: that of the first that is not ready. -/
def safRanges (ctx k : Nat) (rs : List (Nat × Nat)) (w : World) : VaState × World :=
  rs.foldl (fun (a : VaState × World) g =>
    if a.1 ≠ .ready || g.2 = 0 then a
    else let q := rangeState ctx g.1 g.2 false (some k) a.2; (q.1.1, q.2)) (.ready, w)

/-- Bytes of line requests that a record's step makes. -/
def recordBytesMoved (c : List Byte) (r j : Nat) : Nat :=
  512 + 128 * ((gradRanges c r j).map (fun x => (linesOf x.1 x.2).length)).sum

/-- RECORD_UPDATE: unit `u` takes record `i` of an UPDATE. The record's page, when it is off-loaded, is asked for first:
its unit follows from where it lands (R213, R203). DESIGN CHOICE: a record whose page faults after the release check (a
DISCARD freed it) is passed over and its context kept; the command ends with OBJECT_GONE, ahead of VERSION_MISMATCH (R251
leaves it to the chapter, which names no case). -/
def recordUpdate (u k i : Nat) (w : World) : World :=
  match safOf w k, getWork w k with
  | some s, some x =>
    let r := i / sRowRecs s.cmd
    let j := i % sRowRecs s.cmd
    let mark (w : World) : World := updSaf k (fun c => { c with done := sIns c.done i, waits := mdel c.waits u }) w
    let wait (w : World) : World := updSaf k (fun c => { c with waits := mset c.waits u i }) w
    if sOp s.cmd ≠ 1 || 12 ≤ u || x.stop ≠ none || !(unitReached w k u) then w
    else if i < recCount s && !(s.done.contains i) && (recUnit w s i).isNone then
      let q := rangeState s.ctx (recVa s.cmd r j) 256 false (some k) w
      match q.1.1 with
      | .fault _ _ => mark (updSaf k (fun c => { c with gone := true }) q.2)
      | _ => wait q.2
    else if !(mayTake w s u i) then w
    else if !(admits w 0 x.part) then holdReq 0 x.part w
    else
      let st := safRanges s.ctx k ((recVa s.cmd r j, 256) :: gradRanges s.cmd r j) w
      match st.1 with
      | .waits => wait st.2
      | .fault _ _ => mark (updSaf k (fun c => { c with gone := true }) st.2)
      | .ready => mark (updateRecord k u r j s (charge 0 x.part (recordBytesMoved s.cmd r j) st.2))
  | _, _ => w

def execRecordUpdate (u k n : Nat) (s : State) := run (recordUpdate u k n) s

/-! ### Loads (R221, R222) -/

/-- FACTOR_LOAD_COPY_COMPLETE: a unit's copy of a factor or program slot is complete. One that holds poison is not
loaded (R471). DESIGN CHOICE: a unit's load that meets poison is logged and told as a failed record at its source, which
R227 says of records only; a source whose page faults after the release check leaves the slot invalid and ends the load with
OBJECT_GONE, its context kept. -/
def copyComplete (u k : Nat) (w : World) : World :=
  match safOf w k, getWork w k with
  | some s, some x =>
    let c := s.cmd
    let src := sRecBase c
    if sOp c = 1 || 12 ≤ u || s.loaded.contains u || x.stop ≠ none || !(unitReached w k u) then w
    else if !(admits w 0 x.part) then holdReq 0 x.part w
    else
      let mark (w : World) : World := updSaf k (fun c => { c with loaded := sIns c.loaded u, waits := mdel c.waits u }) w
      let read (n : Nat) := streamRead bySaffron (0x050 + u) 0 s.ctx src n
      if sOp c = 3 then
        let n := 4 + 4 * (sProg c).length
        let w := bump (read n (charge 0 x.part n w)).2 rSAF_RD_BYTES n
        if s.poison then
          let pa := match poisonAt w s.ctx src n, vaRead w s.ctx src with
            | some pa, _ => pa
            | none, some pa => pa / 64 * 64
            | none, none => 0
          mark (dropLoad c u (recordFault k u 2 src s (safPoison u s.ctx pa w)))
        else mark { w with saf := { w.saf with progs := mset w.saf.progs (16 * u + (sRule c - 16)) (sProg c) } }
      else
        let st := rangeState s.ctx src 131072 false (some k) w
        match st.1.1 with
        | .waits => updSaf k (fun c => { c with waits := mset c.waits u 0 }) st.2
        | .fault _ _ => mark (dropLoad c u (updSaf k (fun c => { c with gone := true }) st.2))
        | .ready =>
          let r := read 131072 (charge 0 x.part 131072 st.2)
          let w := bump r.2 rSAF_RD_BYTES 131072
          match poisonAt w s.ctx src 131072 with
          | some pa => mark (dropLoad c u (recordFault k u 2 src s (safPoison u s.ctx pa w)))
          | none => mark { w with saf := { w.saf with
              factors := mset w.saf.factors (8 * u + sFactor c) (listSet [] 0 r.1) } }
  | _, _ => w

def execFactorLoadCopyComplete (u k : Nat) (s : State) := run (copyComplete u k) s

/-! ### Completion (R213, R227, R229) -/

/-- SAFFRON_COMMAND_COMPLETE: every unit has finished the command, or it is being stopped and each unit has reached a
record boundary. Its flags go into the context's word. -/
def safComplete (k : Nat) (w : World) : World :=
  match safOf w k, getWork w k with
  | some s, some x =>
    let all := if sOp s.cmd = 1 then s.done.length = recCount s else safUnits.all (fun u => s.loaded.contains u)
    let left := if sOp s.cmd = 1 then (true, w) else stopLoad k s.cmd s.loaded w
    if (!all && x.stop = none) || !left.1 then w
    else
      let w := left.2
      let w := orCtxFlags s.ctx s.flags { w with saf := { w.saf with cmds := w.saf.cmds.filter (·.work ≠ k) } }
      if s.poison && (all || !s.failed.isEmpty) then endByCause k stPoison 2 w
      else if x.stop ≠ none && !all then finStopped k w
      else finWork k (if s.gone then stObjGone else if s.version then stVersion else stOK) w
  | _, _ => w

def execSaffronCommandComplete (k : Nat) (s : State) := run (safComplete k) s

end Sys2Proof.Machine
end

