-- ==== Sys2Proof/Machine/Views.lean ====
section
/-!
DEFINITION. What a register reads (R6 to R8): most hold what is stored; those here show other state of the block. A
read of a register that captures others does so.
-/
namespace Sys2Proof.Machine

/-! ### Front end (R317, R318) -/

def feGraphView (w : World) : Nat := w.fe.nodes.length * 2 ^ 32 + w.fe.graphs.length

/-- The oldest stamp among works that run (R314), as a distance back from the present epoch. -/
def epochView (w : World) : Nat :=
  let cur := fld w rFE_EPOCH 0 32
  let age (e : Nat) : Nat := (cur + 2 ^ 32 - e) % 2 ^ 32
  let engine (x : Work) : Bool := x.fin = none && (x.kind = 2 || x.kind = 3 || x.kind = 4 || x.kind = 8 || x.kind = 9)
  let stamps := (w.fe.works.filter (fun p => engine p.2)).map (·.2.epoch) ++ w.fe.launches.map (·.2.epoch) ++
    w.sched.saved.flatMap (fun p => p.2.map (·.launch.epoch))
  let oldest := stamps.foldl (fun o e => if age o < age e then e else o) cur
  oldest * 2 ^ 32 + cur

def slotView (w : World) (s : Nat) : Nat :=
  match w.fe.queues.find? (fun p => p.2.slot = some s) with
  | none => 0
  | some (q, x) =>
    let pre := w.fe.preloads.any (fun p => p.2.ready && p.2.work / 8192 = q)
    queueCtx w q * 2 ^ 32 + q * 2 ^ 16 + (match x.ents with | e :: _ => entKind e % 16 | [] => 0) * 2 ^ 8 +
      b2n pre * 4 + b2n ((getWork w (workKey q none)).isSome) * 2 + 1

def qstatView (w : World) (q : Nat) : Nat :=
  let base := fld w (rFE_QSTAT q) 56 8 * 2 ^ 56 + fld w (rFE_QSTAT q) 0 1
  match queueOf w q with
  | none => base
  | some x =>
    let st := if x.destroying then 4 else if x.slot.isSome then 3 else if openEntries x = 0 then 1 else 2
    base + st * 2 ^ 48 + (match x.slot with | some s => s * 2 ^ 32 | none => 0)

/-! ### Contexts (R341) -/

def ctxStCode : CtxState → Nat
  | .live => 1 | .lost => 2 | .destroying => 3

def ctxInfoView (w : World) : Nat :=
  let n := fld w rFE_CTX_SEL 0 20
  match ctxOf w n with
  | none => 0
  | some c =>
    let lost := if c.st = .lost then c.cause else 0
    ctxStCode c.st * 2 ^ 60 + b2n c.cc * 2 ^ 59 + c.part * 2 ^ 52 + lost * 2 ^ 48 + (ctxQueues w n).length * 2 ^ 32 +
      (w.mem.objs.filter (fun o => o.2.ctx = n && !o.2.freeing)).length

def ctxFlagsView (w : World) : Nat := match ctxOf w (fld w rFE_CTX_SEL 0 20) with
  | some c => c.flags.toNat % 128
  | none => 0

def ctxStampView (w : World) : Nat := match ctxOf w (fld w rFE_CTX_SEL 0 20) with
  | some c => c.stamp
  | none => 0

def ctxLiveView (w : World) : Nat := w.fe.subs.length * 2 ^ 16 + w.fe.ctxs.length

/-! ### Scheduler (R366) -/

def partStatusView (w : World) (p : Nat) : Nat :=
  let base := (savedOf w p).length * 2 ^ 24 + ((partCtxs w p).filter (fun c => residencyOf w c = .resident)).length * 2 ^ 16 +
    b2n (swapBusy w p) * 8 + b2n (w.sched.preempt.contains p) * 4 + b2n ((mget w.sched.hold p).isSome) * 2
  match mget w.fe.launches p with
  | some l => base + l.ctx * 2 ^ 32 + l.work / 8192 * 2 ^ 6 + 1
  | none => base

def residencyCode : Residency → Nat
  | .resident => 0 | .swappingOut => 1 | .swapped => 2 | .swappingIn => 3

def schedCtxView (w : World) : Nat :=
  let n := fld w rSCHED_CTX_SEL 0 20
  match ctxOf w n with
  | none => 0
  | some c =>
    let moved := mgetD w.sched.moved n []
    let pages := (moved.map (fun m => if m.key / 2 ^ 41 % 8 = 1 then 32 else 1)).sum
    pages * 2 ^ 32 + b2n ((savedOf w c.part).any (fun s => s.launch.ctx = n)) * 8 + b2n (runnable w c.part n) * 4 +
      residencyCode (residencyOf w n)

/-! ### Memory (R261) -/

def poolView (p : Pool) : Nat := p.total * 2 ^ 32 + poolFree p

def memStatusView (w : World) : Nat :=
  let busy := w.mem.models.any (fun m => m.2.st = .loading || m.2.st = .evicting)
  w.mem.invBusy * 2 ^ 16 + b2n busy * 2 + b2n (w.mem.maps.any (fun m => m.frames.isEmpty))

/-! ### Saffron (R230) and Cassia (R206) -/

/-- Does what a unit waits with (record `i`, or its copy of a load) lie on a page that is being paged in? -/
def unitAwaits (c : SafCmd) (i : Nat) (p : PageIn) : Bool :=
  let n := sRowRecs c.cmd
  let rs := if sOp c.cmd = 1 then (recVa c.cmd (i / n) (i % n), 256) :: gradRanges c.cmd (i / n) (i % n)
    else [(sRecBase c.cmd, 131072)]
  p.ctx = c.ctx && rs.any (fun r => decide (r.1 < p.va + 2 ^ levelShift p.level) && decide (p.va < r.1 + r.2))

/-- What a Saffron unit runs: the first command it has reached and not finished. Records in flight are a matter of time, so
their number is open while an UPDATE runs. -/
def safUnitView (w : World) (u : Nat) : Nat × World :=
  let left := w.saf.cmds.filter (fun c => !(unitDone w c u))
  let unchecked := w.fe.works.filter (fun p => p.2.kind = 3 && p.2.fin = none && (safOf w p.1).isNone)
  let depth := (left.length + unchecked.length) * 2 ^ 16
  match left.find? (fun c => unitReached w c.work u) with
  | none => (depth, w)
  | some c =>
    let waits := match mget c.waits u with
      | some i => w.cas.pageIns.any (unitAwaits c i)
      | none => false
    (c.ctx * 2 ^ 32 + depth + sOp c.cmd % 4 * 2 ^ 14 +
      (if sOp c.cmd = 1 && unitServes w (0x050 + u) then freeVal w % 513 * 16 else 0) + b2n waits * 2 + 1, freeUsed w)

def safSlotsView (w : World) : Nat :=
  let us := (List.range 12).filter (fun u => unitServes w (0x050 + u))
  let all (held : Nat → Bool) : Bool := !us.isEmpty && us.all held
  ((List.range 8).map (fun k => b2n (all (fun u => (mget w.saf.factors (8 * u + k)).isSome)) * 2 ^ (16 + k))).sum +
    ((List.range 16).map (fun k => b2n (all (fun u => (mget w.saf.progs (16 * u + k)).isSome)) * 2 ^ k)).sum

def casStatusView (w : World) : Nat :=
  let held := (w.fe.works.filter (fun p => p.2.kind = 2 && p.2.fin = none)).length
  let wait := w.cas.pageIns.any (fun p => p.frame.isNone) || prefetchWaits w
  let base := held * 2 ^ 16 + b2n wait * 4 + b2n (!w.cas.pageIns.isEmpty) * 2
  match w.cas.run with
  | some r => base + (match getWork w r.work with | some x => x.ctx * 2 ^ 32 | none => 0) + r.op % 4 * 2 ^ 8 + 1
  | none => base

def slotStCode : SlotSt → Nat
  | .free => 0 | .out => 1 | .host => 2 | .inn => 3 | .retained => 4

/-- The selected slot: INFO, VA, HOST. -/
def casSlotViews (w : World) : Nat × Nat × Nat :=
  let p := fld w rCAS_SLOT_SEL 16 4
  let k := fld w rCAS_SLOT_SEL 0 16
  match mget w.cas.slots (casKey p k) with
  | none => (0, 0, 0)
  | some s =>
    if s.st = .free || fld w (rCAS_PART_CFG p) 0 17 ≤ k then (0, 0, 0)
    else (s.owner * 2 ^ 40 + s.len / 65536 % 2 ^ 24 * 2 ^ 16 + slotStCode s.st, s.va, s.pages.length)

/-- A read of CAS_SLOT_INFO captures the selected slot's registers. -/
def casCapture (w : World) : Nat × World :=
  let v := casSlotViews w
  (v.1, rgSet (rgSet w rCAS_SLOT_VA v.2.1) rCAS_SLOT_HOST v.2.2)

/-- A captured register, or what it would capture. -/
def captured (w : World) (off live : Nat) : Nat := match mget w.regs off with
  | some v => v.toNat
  | none => live

/-! ### Frame time, twin journal and snapshot stamps (R392, R413, R477) -/

/-- A read of a LO register captures its HI register. -/
def captureHi (lo hi hiReg : Nat) (w : World) : Nat × World := (lo % 2 ^ 64, rgSet w hiReg hi)

def ftbNowRead (w : World) : Nat × World :=
  let k := if ftbState w = 0 then 0 else ftbKey w
  captureHi k (k / 2 ^ 64 + ftbState w * 2 ^ 16) rFTB_NOW_HI w

/-! ### Network (R419) -/

def shardView (w : World) : Nat :=
  let s := fld w rNET_SHARD_SEL 0 12
  let copy (c : Nat) : Nat := match mget w.net.twin.hold (2 * s + c) with | some h => h.st | none => 0
  let n := mgetD w.net.twin.newest s 0
  let recs := match mget w.net.twin.hold (2 * s + n) with | some h => if h.st = 2 then h.len / 256 else 0 | none => 0
  recs * 2 ^ 32 + n * 16 + copy 1 * 4 + copy 0

def connView (w : World) (f : Conn → Nat) : Nat := match connOf w (connSel w) with
  | some c => f c
  | none => 0

/-! ### Cores (R104, R128, R188, R393) -/

def kxStatusView (w : World) (n : Nat) : Nat :=
  let c := coreOf w n
  let inQ (q : Nat) : Nat := (c.groups.filter (fun g => g.1 / 16 = q)).length
  (match c.launch with | some l => rAlloc l.regs / 8 * 2 ^ 40 | none => 0) + c.groups.length * 2 ^ 32 +
    inQ 3 * 2 ^ 24 + inQ 2 * 2 ^ 16 + inQ 1 * 2 ^ 8 + inQ 0

/-- MX_STATUS (R107), once the drain port has written what it had the time to. An MSWAP waits under R86 while the loader
writes its shadow. -/
def mxStatusView (w : World) (n : Nat) : Nat × World :=
  let w := (flushStreams n (coreOf w n).mx.streams.length (rowsAvailable w.now) w).2
  let c := coreOf w n
  let m := c.mx
  let swap := match m.queue with | e :: _ => decide (e.op = .mswap) && m.loader.isSome | [] => false
  (m.queue.length * 2 ^ 12 + b2n c.clearBusy * 2 ^ 8 + b2n (64 ≤ (m.streams.map (rowsHeld w.now)).sum) * 2 ^ 7 +
    b2n m.drainer.isSome * 2 ^ 6 + b2n (!m.streams.isEmpty) * 2 ^ 5 + b2n swap * 2 ^ 4 +
    b2n (m.loader.isSome || m.streams.any (passLoading w.now)) * 2 ^ 3 + m.active % 2, w)

def cmStatusView (w : World) (n : Nat) : Nat :=
  let c := coreOf w n
  (match c.launch with | some l => slmBound l / 1024 * 2 ^ 32 | none => 0) + b2n c.clearBusy * 2 ^ 8 + c.tmq.length

/-- The wait record of the selected thread: INFO and FRAME. -/
def waitViews (w : World) (n : Nat) : Nat × Nat :=
  let sel := rg w (rSY_WAIT_SEL n)
  match mget (coreOf w n).groups (bits sel 5 6) with
  | none => (6 * 2 ^ 60, 0)
  | some g => match (g.threads[bits sel 0 5]?).map (·.st) with
    | some (TState.waitSem s t) => (1 * 2 ^ 60 + s * 2 ^ 52 + t.toNat, 0)
    | some (TState.waitFrame k) => (2 * 2 ^ 60 + k % 2 ^ 32, k / 2 ^ 32)
    | some (TState.waitJoin m) => (3 * 2 ^ 60 + m.toNat, 0)
    | some (TState.waitBar b s) => (4 * 2 ^ 60 + s * 2 ^ 52 + b * 2 ^ 46, 0)
    | some TState.exited => (5 * 2 ^ 60, 0)
    | _ => (0, 0)

/-- A register of a core's window. -/
def coreReg (n off : Nat) (w : World) : Nat × World :=
  let o := off % 0x10000
  if o = 0x3000 then (kxStatusView w n, w)
  else if o = 0x4000 then mxStatusView w n
  else if o = 0x5000 then (cmStatusView w n, w)
  else if 0x6000 ≤ o && o < 0x6080 then ((mgetD (coreOf w n).sems ((o - 0x6000) / 8) 0).toNat, w)
  else if o = 0x6088 then ((waitViews w n).1, w)
  else if o = 0x6090 then ((waitViews w n).2, w)
  else (rg w off, w)

/-! ### Observability (R478, R486) -/

/-- The core whose counters an offset of the DBG block holds. -/
def counterCore (off : Nat) : Option Nat := if 0xB10000 ≤ off && off < 0xB12000 then some ((off - 0xB10000) / 0x20) else none

/-- The traffic of the device's own transfers between its dies is not modelled, so a counter of an internal link has grown by
an open amount when it is read; all that passes the chiplet's link is counted. -/
def linkCounter (off : Nat) (w : World) : Nat × World :=
  let w := bump (freeUsed w) off (freeVal w)
  (rg w off, w)

def isLinkCounter (off : Nat) : Bool :=
  (0x800300 ≤ off && off < 0x800360 && off % 32 < 16) || (0xB20400 ≤ off && off < 0xB20430)

def dbgCounterRead (off : Nat) (w : World) : Nat × World :=
  match counterCore off with
  | some n => if !(coreEnabled w n) then (0, w)
    else if fld w rDBG_SNAP_CTL 1 1 = 1 then ((mgetD w.dbg.shadow off 0).toNat, w) else (rg w off, w)
  | none =>
    if fld w rDBG_SNAP_CTL 1 1 = 1 then ((mgetD w.dbg.shadow off 0).toNat, w)
    else if isLinkCounter off then linkCounter off w else (rg w off, w)

/-- The registers of the selected Clove slot. -/
def cloveView (w : World) (off : Nat) : Nat :=
  let s := cloveOf w (cloveSel w)
  if off = rDBG_CLOVE_CFG then s.st * 2 ^ 62 + s.ctx * 2 ^ 32 + s.parts.length * 2 ^ 16 + s.expect
  else if off = rDBG_CLOVE_TAG then s.tag
  else if off = rDBG_CLOVE_DEST then s.dest
  else if s.st = 2 then le s.record (off - rDBG_CLOVE_REC 0) 8 else 0

/-! ### Registers by partition -/

/-- The partition a per-partition register belongs to (R206, R261, R366). -/
def partReg (off : Nat) : Option Nat :=
  if (0x200000 ≤ off && off < 0x200380) || (0x300100 ≤ off && off < 0x300280) || (0x500100 ≤ off && off < 0x500180) ||
      (0x500200 ≤ off && off < 0x500280) then some (off / 8 % 16) else none

/-- Is it a register of a partition the image does not define? -/
def partAbsent (w : World) (off : Nat) : Bool := match partReg off with
  | some p => !(partDefined w p)
  | none => false

/-! ### Every register -/

/-- The front end's registers. -/
def feReg (off : Nat) (w : World) : Nat :=
  if off = rFE_GRAPH then feGraphView w
  else if off = rFE_EPOCH then epochView w
  else if rFE_SLOT 0 ≤ off && off < rFE_SLOT 32 then slotView w ((off - rFE_SLOT 0) / 8)
  else if 0x110000 ≤ off && off < 0x120000 && off % 64 = 0x30 then qstatView w ((off - 0x110000) / 64)
  else if off = rFE_CTX_INFO then ctxInfoView w
  else if off = rFE_CTX_FLAGS then ctxFlagsView w
  else if off = rFE_CTX_STAMP then ctxStampView w
  else if off = rFE_CTX_LIVE then ctxLiveView w
  else rg w off

/-- The scheduler's, the MEM block's. -/
def schedMemReg (off : Nat) (w : World) : Nat :=
  if rSCHED_PART_CFG 0 ≤ off && off < rSCHED_PART_CFG 16 then
    setBits (rg w off) 16 9 (partCores w ((off - rSCHED_PART_CFG 0) / 8)).length
  else if rSCHED_PART_STATUS 0 ≤ off && off < rSCHED_PART_STATUS 16 then partStatusView w ((off - rSCHED_PART_STATUS 0) / 8)
  else if off = rSCHED_CTX_INFO then schedCtxView w
  else if off = rMEM_STATUS then memStatusView w
  else if rMEM_POOL_HBM 0 ≤ off && off < rMEM_POOL_HBM 16 then poolView (hbmPool w ((off - rMEM_POOL_HBM 0) / 8))
  else if rMEM_POOL_HOST 0 ≤ off && off < rMEM_POOL_HOST 16 then poolView (hostPool w ((off - rMEM_POOL_HOST 0) / 8))
  else rg w off

/-- Saffron's, Cassia's. -/
def engineReg (off : Nat) (w : World) : Nat × World :=
  if rSAF_UNIT_STATUS 0 ≤ off && off < rSAF_UNIT_STATUS 12 then safUnitView w ((off - rSAF_UNIT_STATUS 0) / 8)
  else if off = rSAF_SLOTS then (safSlotsView w, w)
  else if off = rCAS_STATUS then (casStatusView w, w)
  else if off = rCAS_SLOT_INFO then casCapture w
  else if off = rCAS_SLOT_VA then (captured w off (casSlotViews w).2.1, w)
  else if off = rCAS_SLOT_HOST then (captured w off (casSlotViews w).2.2, w)
  else (rg w off, w)

/-- The FTB's, barrier groups', NET's. -/
def timeNetReg (off : Nat) (w : World) : Nat × World :=
  if off = rFTB_NOW_LO then ftbNowRead w
  else if rBT_NBG_STATUS 0 ≤ off && off < 0x602000 && off % 128 = 0x40 then
    let g := (off - rBT_NBG_STATUS 0) / 128
    let x := nbgOf w g
    (rg w off % 4 + x.inflight.length * 2 ^ 16 + x.ctx.getD 0 * 2 ^ 32, w)
  else if off = rNET_CONN_CFG then (connView w (fun c => c.cfg % 2 ^ 61 + c.st * 2 ^ 61 + bits c.cfg 63 1 * 2 ^ 63), w)
  else if off = rNET_CONN_PEER then (connView w (·.peer), w)
  else if off = rNET_CONN_PSN then (connView w (·.psn), w)
  else if off = rNET_REG_CFG then ((regionOf w (regSel w)).cfg, w)
  else if off = rNET_REG_VA then ((regionOf w (regSel w)).va, w)
  else if off = rNET_REG_LEN then ((regionOf w (regSel w)).len, w)
  else if off = rNET_TJ_SEQ then ((mgetD w.net.twin.mirror (fld w rNET_TJ_SEL 0 10) (BitVec.allOnes 64)).toNat, w)
  else if off = rNET_TJ_STAMP_LO then captureHi w.net.twin.stampLo w.net.twin.stampHi rNET_TJ_STAMP_HI w
  else if off = rNET_SHARD_INFO then (shardView w, w)
  else (rg w off, w)

/-- D2D's, PWR's, DBG's. -/
def lateReg (off : Nat) (w : World) : Nat × World :=
  if off = rD2D_CHIP_STATUS then (setBits (rg w off) 8 8 w.d2d.cmds.length, w)
  else if 0x800000 ≤ off && isLinkCounter off && off < 0x900000 then linkCounter off w
  else if rPWR_DOM 0 ≤ off && off < rPWR_DOM 144 then
    (setBits (rg w off) 4 1 (b2n (2 ≤ bootPhase w && offAllowed w ((off - rPWR_DOM 0) / 8))), w)
  else if isDbgCounter off then dbgCounterRead off w
  else if off = rDBG_SNAP_STAMP_LO then captureHi (rg w off) w.dbg.stampHi rDBG_SNAP_STAMP_HI w
  else if rDBG_CLOVE_CFG ≤ off && off < rDBG_CLOVE_REC 12 && off ≠ rDBG_CLOVE_CMD then (cloveView w off, w)
  else (rg w off, w)

/-- The value of the register at an offset, in a block that responds. -/
def readReg (off : Nat) (w : World) : Nat × World :=
  if partAbsent w off then (0, w)
  else if 0x1000000 ≤ off then
    let n := (off - 0x1000000) / 0x10000
    if coreEnabled w n then coreReg n off w else (0, w)
  else if off = rCC_IRQ_STATUS then (setBits (rg w off) 0 9 w.irq.waiting.length, w)
  else if 0x10000 ≤ off && off < 0x100000 then (descWord w off, w)
  else if off < 0x100000 then (rg w off, w)
  else if off < 0x200000 then (feReg off w, w)
  else if off < 0x400000 then (schedMemReg off w, w)
  else if off < 0x600000 then engineReg off w
  else if off < 0x800000 then timeNetReg off w
  else lateReg off w

end Sys2Proof.Machine
end

