-- ==== Sys2Proof/Machine/RegWrite.lean ====
section
/-!
DEFINITION. Register accesses (R5 to R8, R31): which offsets hold a register, what a write does, and the three commands
of the bus itself. A write whose effect is a command of its own is that command. Agents: 0 the external host over PCIe, 1 the harts, 2 any other (Finov's
DBG and MGMT channels).
-/
namespace Sys2Proof.Machine

/-! ### Where registers are (R8, R22, R30, R31) -/

/-- Does an aligned 64-bit offset hold a register or a word of the descriptor space? -/
def regExists (off : Nat) : Bool :=
  (0x10000 ≤ off && off < 0x100000) || (regSpec off).isSome || (isDbgCounter off && dbgCounters.contains off)

/-- Does the block of an offset respond? GLB, PWR and RAS always do (R31). -/
def blockResponds (w : World) (off : Nat) : Bool :=
  off < 0x100000 || (0x900000 ≤ off && off < 0xB00000) || configured w

/-- RAS_BIST_CTL or RAS_BIST_STATUS in a life-cycle state in which the test engine is reachable (R459). Their places in the
RAS block and their layouts stand in no file of the spec. -/
def bistReachable (w : World) (off : Nat) : Bool :=
  0xA00000 ≤ off && off < 0xB00000 && !(regExists off) && fld w rRAS_LIFECYCLE 0 2 ≠ 1 && Config.bistReg off

/-- An access that R8 lets through: 64 or 32 bits, aligned, to a register of a block that responds. -/
def accessOk (w : World) (off size : Nat) : Bool :=
  (size = 8 || size = 4) && off % size = 0 &&
    ((regExists (off / 8 * 8) && blockResponds w off) || bistReachable w (off / 8 * 8))

/-- An unmapped access is logged (R8, R473). -/
def unmapped (off : Nat) (w : World) : World :=
  rasLog kindUnmapped 4 0x026 none false off (bump w rRAS_ACCESS_ERR 1)

/-- A read by software: 32 bits reach the half they address. DESIGN CHOICE: of a descriptor too, of which R22 states only the
aligned 64-bit read. The test engine's registers read a free value. -/
def busRead (off size : Nat) (w : World) : Nat × World :=
  if !(accessOk w off size) then (0, unmapped off w)
  else
    let r := if bistReachable w (off / 8 * 8) then (freeVal w, freeUsed w) else readReg (off / 8 * 8) w
    if size = 8 then r else (bits r.1 (8 * (off % 8)) 32, r.2)

/-! ### Storing a register (R6) -/

/-- Clears the bits of `x` that `m` has. -/
def andNot (x m : Nat) : Nat := x - (x &&& m)

/-- A write of `v` to the bits `m` of a register stores its RW fields, clears W1C bits and sets W1S bits. -/
def storeReg (off v m : Nat) (w : World) : World :=
  match regSpec off with
  | none => w
  | some r =>
    let old := rg w off
    let x := andNot old (r.rw &&& m) ||| (v &&& (r.rw &&& m))
    rgSet w off (andNot x (v &&& m &&& r.w1c) ||| (v &&& m &&& r.w1s))

/-- Replaces a field of a written value that may not be below a least value. -/
def atLeast (lo n least v : Nat) : Nat := if bits v lo n < least then setBits v lo n least else v

def atMost (lo n most v : Nat) : Nat := if most < bits v lo n then setBits v lo n most else v

/-! ### GLB and the control complex -/

/-- The 64-bit value a write gives: the half not addressed keeps its RW fields. -/
def wholeValue (w : World) (off v m : Nat) : Nat := match regSpec off with
  | some r => (v &&& m) ||| andNot ((readReg off w).1 &&& r.rw) m
  | none => v &&& m

def glbWrite (agent off v m : Nat) (w : World) : World :=
  if off = rGLB_BOOT_CMD then
    (if bit m 0 then (match bits v 0 8 with | 1 => bootFetch w | 2 => skipRecord w | _ => w) else w)
  else if off = rGLB_LLYN_CMD then (if bit m 0 && bits v 0 8 = 1 then quiesce agent w else w)
  else if rCC_NQ_BASE 0 ≤ off && off < rCC_NQ_BASE 64 then
    let n := (off - rCC_NQ_BASE 0) / 64
    match off % 64 with
    | 0 => if ringOn w n then w else storeReg off v m w
    | 8 => if bit v 0 then ringEnable n v true w else ringDisable n v w
    | 16 => ringHeadWrite n v w
    | _ => w
  else storeReg off v m w

/-! ### Front end -/

def ctxCommand (agent op : Nat) (w : World) : World :=
  match op with
  | 1 => ctxCmd (ctxCreate (agent = 1)) w
  | 2 => ctxCmd ctxKill w
  | 3 => ctxCmd ctxDestroy w
  | 4 => ctxCmd ctxMemcmd w
  | 5 => ctxCmd ctxMapIo w
  | 6 => ctxCmd ctxSubscribe w
  | 7 => ctxCmd ctxUnsubscribe w
  | _ => ctxOther w

def queueWrite (off v m : Nat) (w : World) : World :=
  let q := (off - rFE_QBASE 0) / 64
  let on := (queueOf w q).isSome
  match off % 64 with
  | 0 => if on then w else storeReg off v m w
  | 8 => if on then w else storeReg off v m w
  | 16 =>
    if !(bit m 0) then w
    else if bit v 1 then queueDestroy q w
    else if bit v 0 then queueEnable q w
    else queueDisable q w
  | 24 => if on then w else storeReg off v m w
  | _ => storeReg off v m w

def feWrite (agent off v m : Nat) (w : World) : World :=
  if rFE_QBASE 0 ≤ off && off < rFE_QBASE 1024 then queueWrite off v m w
  else if rFE_HN_BASE 0 ≤ off && off < rFE_HN_BASE 64 then
    let n := (off - rFE_HN_BASE 0) / 64 + 64
    match off % 64 with
    | 0 => if ringOn w n then w else storeReg off v m w
    | 8 => if bit v 0 then ringEnable n v w.pwr.pcieDown.isNone w else ringDisable n v w
    | 16 => ringHeadWrite n v w
    | _ => w
  else if rFE_CTX_SEL ≤ off && off ≤ rFE_CTX_ARG2 then (if w.fe.ctxRun.isSome then w else storeReg off v m w)
  else if off = rFE_CTX_CMD then (if bit m 0 then ctxCommand agent (bits v 0 8) w else w)
  else if off = rFE_CTX_FLAGS then flagsClear (v &&& m) w
  else storeReg off v m w

/-! ### Scheduler, memory and engines -/

/-- Registers of SCHED, MEM, SAF and CAS, with the values they do not take as written. -/
def midWrite (agent off v m : Nat) (w : World) : World :=
  if rSCHED_PART_POL 0 ≤ off && off < rSCHED_PART_POL 16 then storeReg off (atLeast 40 8 1 v) (2 ^ 64 - 1) w
  else if rSCHED_REG_HBM 0 ≤ off && off < rSCHED_REG_NET 16 then
    storeReg off (if bits v 0 16 ≠ 0 then atLeast 32 16 1 v else v) (2 ^ 64 - 1) w
  else if off = rMEM_PRIO then storeReg off (atLeast 0 4 1 (atLeast 4 4 1 (atLeast 8 4 1 v))) (2 ^ 64 - 1) w
  else if off = rMEM_PF_CTL then storeReg off (atMost 1 4 8 (atLeast 1 4 1 v)) (2 ^ 64 - 1) w
  else if off = rMEM_THERM_CFG then byHolder agent (storeReg off v m) w
  else if off = rCAS_SLOT_SEL then
    let w := storeReg off v m w
    { w with regs := mdel (mdel w.regs rCAS_SLOT_VA) rCAS_SLOT_HOST }
  else storeReg off v m w

/-! ### Frame time, barrier groups, network -/

def ftbWrite (off v m : Nat) (w : World) : World :=
  if off = rFTB_SERVO then storeReg off (atMost 32 16 1000 (atLeast 32 16 1 v)) (2 ^ 64 - 1) w
  else if off = rFTB_CTL then (if bit (v &&& m) 0 then ftbResync w else w)
  else if off = rFTB_ALIGN then (if bit (v &&& m) 63 then ftbAlignArm (bits v 0 48) w else storeReg off v m w)
  else if rBT_NBG_CFG 0 ≤ off && off < rBT_NBG_CFG 16 then
    let g := (off - rBT_NBG_CFG 0) / 128
    let on := fld w (rBT_NBG_STATUS g) 0 1 = 1
    if off % 128 = 0x40 then
      (if !(bit m 0) then w else if bit v 0 then nbgEnable g w else fldSet w off 0 1 0)
    else if on then w
    else if off % 128 = 0 then storeReg off (atLeast 48 16 1 v) (2 ^ 64 - 1) w
    else storeReg off v m w
  else storeReg off v m w

def netWrite (off v m : Nat) (w : World) : World :=
  let c := (connOf w (connSel w)).getD blankConn
  let r := regionOf w (regSel w)
  if off = rNET_NODETAB then
    (if bit v 0 then nodeTableEnable v w
    else if fld w off 0 1 = 1 then fldSet w off 0 1 0 else storeReg off v m w)
  else if off = rNET_CONN_CFG then (if bit v 63 then connInstall v w else connReset v w)
  else if off = rNET_CONN_PEER then (if bit c.cfg 63 then w else setConn (connSel w) { c with peer := bits v 0 20 } w)
  else if off = rNET_CONN_PSN then (if bit c.cfg 63 then w else setConn (connSel w) { c with psn := bits v 0 48 } w)
  else if off = rNET_REG_CFG then (if bit v 63 then regionEnable v w else regionDisable v w)
  else if off = rNET_REG_VA then (if rOn r then w else setRegion (regSel w) { r with va := bits v 0 57 } w)
  else if off = rNET_REG_LEN then (if rOn r then w else setRegion (regSel w) { r with len := bits v 0 41 } w)
  else if off = rNET_TWIN_TIMER then storeReg off (atLeast 0 32 100 v) (2 ^ 64 - 1) w
  else if off = rNET_TWIN_CTL then
    storeReg off v m (if bit (v &&& m) 1 then commandedDetach w else w)
  else if rNET_FR_RX_BASE 0 ≤ off && off < rNET_FR_RX_BASE 20 then
    let base := off / 64 * 64
    match off % 64 with
    | 0 => if frOn w base then w else storeReg off v m w
    | 8 => frCfgWrite base v w
    | 16 => if off % 256 < 64 then frHeadWrite base v w else w
    | _ => w
  else storeReg off v m w

/-! ### Finov, power, errors, observability -/

/-- A write of PWR_CMD: op, target and argument (R457). -/
def pwrCommand (agent v : Nat) (w : World) : World :=
  let target := bits v 8 24
  let arg := bits v 32 32
  match bits v 0 8 with
  | 1 => pwCmd agent 1 target (domainOn target) w
  | 2 => pwCmd agent 2 target (domainOff target) w
  | 3 => pwCmd agent 3 target (setOp target arg) w
  | 4 => pwCmd agent 4 0 (setFsp arg) w
  | 5 => pwCmd agent 5 target (shutdownCmd target) w
  | 6 => pwCmd agent 6 target (hartRestart target) w
  | 7 => pwCmd agent 7 target (hartReset target) w
  | op => pwOther agent op w

/-- PWR_TRIP takes no threshold above its fused one (R439). -/
def tripValue (v : Nat) : Nat := atMost 0 8 Config.tjTrip.toNat (atMost 8 8 Config.hbmTrip.toNat v)

def pwrWrite (agent off v m : Nat) (w : World) : World :=
  if off = rPWR_AUTH then (if bit m 0 then authWrite agent v w else w)
  else if off = rPWR_CMD then (if bit m 0 then pwrCommand agent v w else byHolder agent id w)
  else if off = rPWR_TRIP then byHolder agent (storeReg off (tripValue v) (2 ^ 64 - 1)) w
  else if holderReg off then byHolder agent (storeReg off v m) w
  else if off = rRAS_CTL then (if bit (v &&& m) 0 then fatalReset agent w else w)
  else if off = rRAS_CE_CFG then storeReg off (atLeast 0 16 1 v) (2 ^ 64 - 1) w
  else if off = rRAS_LOG_SEL then (if bit m 0 then logSel v w else w)
  else storeReg off v m w

/-- The selected Clove slot's registers; CFG is dropped while the slot is ARMED. -/
def cloveWrite (off v : Nat) (w : World) : World :=
  let k := cloveSel w
  let s := cloveOf w k
  if off = rDBG_CLOVE_CFG then
    (if s.st = 1 then w
    else setClove k { s with ctx := bits v 32 20, expect := max 1 (min 256 (bits v 0 9)) } w)
  else if off = rDBG_CLOVE_TAG then setClove k { s with tag := v } w
  else if off = rDBG_CLOVE_DEST then setClove k { s with dest := bits v 5 47 * 32 } w
  else w

def dbgWrite (off v m : Nat) (w : World) : World :=
  if off = rDBG_SNAP_CTL then
    let w := storeReg off v m w
    if bit (v &&& m) 0 then snapCapture w else w
  else if off = rDBG_SNAP_AT_HI then
    (if bit (v &&& m) 63 then snapArm (bits v 0 16) w else fldSet w off 0 16 (bits v 0 16))
  else if rDBG_CLOVE_CFG ≤ off && off ≤ rDBG_CLOVE_DEST then cloveWrite off v w
  else if off = rDBG_CLOVE_CMD then
    (if bit m 0 then (match bits v 0 8 with | 1 => cloveArm w | 2 => cloveClose w | 3 => cloveDisarm w | _ => w) else w)
  else if off = rDBG_STAR_CMD then
    (if bit m 0 && bits v 0 8 = 1 then starBuild (bits v 16 16) (bit v 8) w else w)
  else storeReg off v m w

/-! ### A write -/

/-- A write of the bits `m` of the register at an aligned 64-bit offset, in a block that responds. -/
def writeReg (agent off v m : Nat) (w : World) : World :=
  let v := wholeValue w off v m
  if partAbsent w off then w
  else if 0x1000000 ≤ off then
    (if coreEnabled w ((off - 0x1000000) / 0x10000) then storeReg off v m w else w)
  else if 0x10000 ≤ off && off < 0x100000 then w
  else if off < 0x100000 then glbWrite agent off v m w
  else if off < 0x200000 then feWrite agent off v m w
  else if off < 0x600000 then midWrite agent off v m w
  else if off < 0x700000 then ftbWrite off v m w
  else if off < 0x800000 then netWrite off v m w
  else if off < 0x900000 then
    (if off = rD2D_CHIP_CTL then
      let w := if bit (v &&& m) 0 then isolate 6 w else w
      if bit (v &&& m) 1 then renegotiate w else w
    else storeReg off v m w)
  else if off < 0xB00000 then pwrWrite agent off v m w
  else dbgWrite off v m w

/-- A write by software. -/
def busWrite (agent off size v : Nat) (w : World) : World :=
  if !(accessOk w off size) then unmapped off w
  else if size = 8 then writeReg agent off (v % 2 ^ 64) (2 ^ 64 - 1) w
  else
    let sh := 8 * (off % 8)
    writeReg agent (off / 8 * 8) (v % 2 ^ 32 * 2 ^ sh) ((2 ^ 32 - 1) * 2 ^ sh) w

/-! ### The commands -/

/-- REGISTER_WRITE. -/
def execRegisterWrite (agent off size v : Nat) (s : State) := run (busWrite agent off size v) s

/-- UNMAPPED_ACCESS: an access that R8 does not let through. -/
def execUnmappedAccess (off size : Nat) (s : State) := run (fun w => if accessOk w off size then w else unmapped off w) s

/-- REGISTER_READ_CAPTURE: a read by the external host, which completes with the register's value. -/
def execRegisterReadCapture (off size tag : Nat) (s : State) :=
  run (fun w => let r := busRead off size w; emit .pcie [tag, 0] (natLe r.1 size) r.2) s

/-- REG_RD over DBG or MGMT: an 8-byte register read, answered with REG_RSP; an access R8 does not let through
answers ERR. -/
def finovRegRead (l : Nat) (m : FinovMsg) (w : World) : World :=
  let r := busRead m.addr 8 w
  finovSendFrom (linkUnit l) m.channel l 0x42 m.tag m.addr (if accessOk w m.addr 8 then fvOK else fvErr) (natLe r.1 16) r.2

def execRegRd (l : Nat) (dbg : Bool) (flits : List Byte) (s : State) :=
  run (finovRx l (if dbg then chDbg else chMgmt) 0x40 flits (finovRegRead l)) s

/-- REG_WR over DBG or MGMT: the data is in bytes 7:0 of the slot. -/
def finovRegWrite (l : Nat) (m : FinovMsg) (w : World) : World :=
  finovSendFrom (linkUnit l) m.channel l 0x42 m.tag m.addr (if accessOk w m.addr 8 then fvOK else fvErr) (natLe 0 16)
    (busWrite 2 m.addr 8 (le m.data.flatten 0 8) w)

def execRegWr (l : Nat) (dbg : Bool) (flits : List Byte) (s : State) :=
  run (finovRx l (if dbg then chDbg else chMgmt) 0x41 flits (finovRegWrite l)) s

end Sys2Proof.Machine
end

