-- ==== Sys2Proof/Machine/Harts.lean ====
section
/-!
DEFINITION. The harts' memory operations (R262 to R286): coherence of their copies, the store buffer and the combining
buffer, ordering, reservations, traps, and the timer. A command carries the physical address its hart has translated
to, with the page's PBMT (R271) and whether the hart is in M-mode.
-/
namespace Sys2Proof.Machine

/-! ### Coherence (R267, R268, R278) -/

/-- Another hart's reservation holds off a recall for a write (R279). -/
def heldByOther (w : World) (h line : Nat) : Bool := heldBy w (some h) line

/-- Is the line reserved by the hart itself? Its requests then do not wait behind a write that the reservation holds. -/
def ownReserved (w : World) (h line : Nat) : Bool := match (hartOf w h).resv with
  | some r => r.granule = line
  | none => false

/-- A hart's request of a line waits behind a write that a reservation holds there (R268), but for one of its own. -/
def waitsBehind (w : World) (h line : Nat) : Bool := laterAt w line && !(ownReserved w h line)

/-- A hart's request reaches the home behind the writes whose hold has ended. -/
def behindLater (line : Nat) (w : World) : World := awaitLater (64 * line) 64 w

/-- The one of some lines that replacement takes: a free choice, which affects only timing, but for a reserved line (R279). -/
def victimOf (w : World) (h : Nat) (ls : List Nat) : Option Nat :=
  let ls := ls.filter (fun l => !(ownReserved w h l))
  ls[freeVal w % ls.length]?

/-- A line comes into a hart's L1 data cache of 1,024 lines. -/
def l1Touch (h line : Nat) (w : World) : World :=
  let ls := mgetD w.harts.l1 h []
  if ls.contains line then w
  else
    let w := if ls.length < 1024 then w
      else match victimOf w h ls with
        | some v => leaveL1 h v (freeUsed w)
        | none => w
    { w with harts := { w.harts with l1 := mset w.harts.l1 h (line :: mgetD w.harts.l1 h []) } }

/-- Room for one more line in a hart's L2 of 16,384 lines, which includes its L1: an S copy is dropped without telling
the home, an M copy's data is written to it (R266 to R268). -/
def l2Room (h : Nat) (w : World) : World :=
  let x := hartOf w h
  let ls := x.mLines.map (·.1) ++ x.sLines
  if ls.length < 16384 then w
  else match victimOf w h ls with
    | some v => leaveL1 h v (updHart h (fun x => { x with sLines := x.sLines.filter (· ≠ v) }) (writeBack h v false (freeUsed w)))
    | none => w

/-- Every other hart loses its copy of a line and its reservation on it. -/
def dropOthers (h line : Nat) (w : World) : World :=
  let w := forAll ((holdersOf w line).filter (· ≠ h)) (fun k => leaveL1 k line) (dropCode line w)
  { w with harts := { w.harts with hart := w.harts.hart.map (fun (k, x) =>
    if k = h then (k, x) else (k, { loseResv line x with sLines := x.sLines.filter (· ≠ line) })) } }

/-- Another hart that holds the line M answers for it, and keeps an S copy or none. -/
def forwardFrom (h line : Nat) (keepS : Bool) (w : World) : Bool × World :=
  match ownerOf w line with
  | some o => if o = h then (false, w) else (true, writeBack o line keepS (bump w rCC_FWD 1))
  | none => (false, w)

/-- A read miss: the hart gets S. -/
def getS (h line : Nat) (w : World) : World :=
  let x := hartOf w h
  if (mget x.mLines line).isSome || x.sLines.contains line then w
  else
    let f := forwardFrom h line true (l2Room h (behindLater line w))
    let w := if f.1 then f.2 else countHome (64 * line) 64 false (touchLine byControl .read (64 * line) f.2)
    updHart h (fun x => { x with sLines := sIns x.sLines line }) w

/-- A write miss or an upgrade: the hart gets M. -/
def getM (h line : Nat) (w : World) : World :=
  let x := hartOf w h
  if (mget x.mLines line).isSome then dropOthers h line w
  else
    let w := behindLater line w
    let f := forwardFrom h line false (if x.sLines.contains line then w else l2Room h w)
    let w := if f.1 || x.sLines.contains line then f.2
      else countHome (64 * line) 64 false (touchLine byControl .read (64 * line) f.2)
    let w := dropOthers h line w
    updHart h (fun x => { x with
      mLines := mset x.mLines line (listAt w.mem.bytes (64 * line) 64)
      sLines := x.sLines.filter (· ≠ line) }) w

/-- Bytes of one line as a hart that holds it sees them. -/
def ownBytes (w : World) (h pa n : Nat) : List Byte :=
  match mget (hartOf w h).mLines (pa / 64) with
  | some bs => (bs.drop (pa % 64)).take n
  | none => listAt w.mem.bytes pa n

/-- Writes bytes into a line held M. -/
def ownWrite (h pa : Nat) (bs : List Byte) (w : World) : World :=
  updHart h (fun x => { x with
    mLines := mupd x.mLines (pa / 64) (fun l => l.take (pa % 64) ++ bs ++ l.drop (pa % 64 + bs.length)) }) w

/-! ### Checks (R264, R265, R271) -/

/-- Can the hart execute an instruction now? -/
def hartRuns (w : World) (h : Nat) : Bool :=
  h < 32 && unitServes w (0x0E0 + h) && domState w (128 + h / 4) = 2 && (hartOf w h).run = .running &&
    (hartOf w h).trap = none

/-- Is the address in an I/O range of R264? -/
def isIoRange (pa : Nat) : Bool := inRegs pa || inPcie pa || inChip pa || inHartLocal pa

/-- 0 PMA, 1 NC, 2 IO (R271): PBMT takes effect only on main memory. -/
def memType (pa pbmt : Nat) : Nat := if isMain pa then pbmt else 2

/-- Addresses of the hart-local range that hold something: interrupt files, the timer, doorbells (R286, R294). -/
def localKnown (pa : Nat) : Bool :=
  let o := pa - 0x5000000000000
  o < 0x20000 || (0x1000000 ≤ o && o < 0x1100000 && o % 0x8000 < 0x5000) || (0x2000000 ≤ o && o < 0x2000100) ||
    (0x2007FF8 ≤ o && o < 0x2008000) || (0x10000000 ≤ o && o < 0x10400000)

/-- Does the first of a hart's 16 PMP entries that covers a byte of an access deny it (R263, R282)? An M-mode access only
a locked entry denies. PRESUMED: the entries mean what the RISC-V privileged architecture says. DESIGN CHOICE: an access
that no entry covers passes in every mode, since no command sets the entries that a hart's software would have set. -/
def pmpDenies (w : World) (h pa n kind : Nat) (mmode : Bool) : Bool :=
  match ((csrsOf w h).pmp.take 16).find? (fun e => decide (e.lo ≤ (pa + n - 1) / 4096) && decide (pa / 4096 < e.hi)) with
  | some e => (!mmode || e.lock) && !(if kind = 0 then e.r else if kind = 1 then e.w else e.x)
  | none => false

/-- What an access of `n` bytes raises, if anything: RISC-V cause codes. `kind`: 0 load, 1 store, 2 fetch. -/
def hartFault (w : World) (h pa n pbmt kind : Nat) (mmode : Bool) : Option Nat :=
  let access := if kind = 0 then 5 else if kind = 1 then 7 else 1
  if pmpDenies w h pa n kind mmode then some access
  else if isMain pa then
    if pbmt = 3 then some (if kind = 0 then 13 else if kind = 1 then 15 else 12)
    else if pa < w.mem.tableRoom && !mmode then some access
    else if !(isMain (pa + n - 1)) then some access
    else if pbmt = 2 && pa % n ≠ 0 then some (if kind = 1 then 6 else 4)
    else none
  else if !(isIoRange pa) || kind = 2 then some access
  else if pa % n ≠ 0 then some (if kind = 1 then 6 else 4)
  else if inHartLocal pa && !(localKnown pa) then some access
  else none

/-- A running hart executes an instruction in the privilege mode that its software has it in. DESIGN CHOICE: no row moves a
hart to another mode but a trap and a reset, so the command that accesses memory says which mode it is in. -/
def inMode (h : Nat) (mmode : Bool) (f : World → World) (w : World) : World :=
  if hartRuns w h then f (updHart h (fun x => { x with mmode := mmode }) w) else w

/-- The instruction ends with an exception. -/
def hartExc (h op cause : Nat) (w : World) : World := hartOut h op (1 + cause) [] (hartRaise h cause w)

/-! ### IO accesses (R273, R286) -/

/-- mtime, in 10 ns ticks. -/
def mtime (w : World) : Nat := (w.harts.mtimeBase + w.now / 10) % 2 ^ 64

/-- What satp, or with `guest` hgatp, holds after a write of `v` (R263): a mode that is not Bare, Sv39, Sv48 or Sv57 (for
hgatp their x4 forms) leaves the register as it was; the address space has 16 bits, a guest's 14. PRESUMED: fields and mode
numbers are the RISC-V privileged architecture's. -/
def rootAfter (guest : Bool) (old v : Nat) : Nat :=
  if [0, 8, 9, 10].contains (bits v 60 4) then
    bits v 60 4 * 2 ^ 60 + bits v 44 (if guest then 14 else 16) * 2 ^ 44 + bits v 0 44
  else old

/-- The registers of R263 as their hart's software reads them, by CSR number: mvendorid, marchid, mimpid, mhartid, satp,
hgatp, mie, mhpmcounter3 to 31 and time. PRESUMED: the numbers are the RISC-V privileged architecture's. -/
def hartCsr (w : World) (h csr : Nat) : Option Nat :=
  let c := csrsOf w h
  if csr = 0xF11 then some 0xA3D
  else if csr = 0xF12 then some 0x8000000000000E01
  else if csr = 0xF13 then some (fld w rGLB_ID 24 8)
  else if csr = 0xF14 then some h
  else if csr = 0x180 then some c.satp
  else if csr = 0x680 then some c.hgatp
  else if csr = 0x304 then some c.mie
  else if 0xB03 ≤ csr && csr ≤ 0xB1F then some (nth c.hpm (csr - 0xB03) 0)
  else if csr = 0xC01 then some (mtime w)
  else none

/-- A hart's wait ends. -/
def wake (x : Hart) : Hart := { x with run := match x.run with | .wrs _ => .running | y => y }

/-- The machine timer's pending bit follows the comparison; setting it ends a wait. -/
def timerCheck (h : Nat) (w : World) : World :=
  let due := decide ((mgetD w.harts.mtimecmp h 0) ≤ mtime w)
  let w := updHart h (fun x => { x with mtip := due }) w
  if due then wakeFor h 7 w else w

/-- Replaces `n` bytes of a 64-bit register at byte `o`. -/
def patch64 (old o n v : Nat) : Nat := setBits old (8 * o) (8 * n) v

/-- A hart's store to the hart-local range. -/
def localStore (pa n v : Nat) (w : World) : World :=
  let o := pa - 0x5000000000000
  let file (h f : Nat) (w : World) : World :=
    let id := if o % 0x1000 = 0 then v % 2 ^ 32 else leNat ((natLe v 4).reverse)
    if n = 4 && (o % 0x1000 = 0 || o % 0x1000 = 4) && 1 ≤ id && id ≤ 255 then imsicStore h f id w else w
  if o < 0x20000 then file (o / 0x1000) 0 w
  else if 0x1000000 ≤ o && o < 0x1100000 then file ((o - 0x1000000) / 0x8000) (1 + o % 0x8000 / 0x1000) w
  else if 0x2000000 ≤ o && o < 0x2000100 then
    let h := (o - 0x2000000) / 8
    let v := patch64 (mgetD w.harts.mtimecmp h 0) (o % 8) n v
    timerCheck h { w with harts := { w.harts with mtimecmp := mset w.harts.mtimecmp h v } }
  else if 0x2007FF8 ≤ o && o < 0x2008000 then
    let v := patch64 (mtime w) (o % 8) n v
    { w with harts := { w.harts with mtimeBase := (v + 2 ^ 64 - w.now / 10 % 2 ^ 64) % 2 ^ 64 } }
  else if 0x10000000 ≤ o && o % 0x1000 < 8 then doorbell ((o - 0x10000000) / 0x1000) v (n = 8) w
  else w

/-- A hart's load from the hart-local range: interrupt files and doorbells read 0. -/
def localLoad (pa n : Nat) (w : World) : Nat :=
  let o := pa - 0x5000000000000
  if 0x2000000 ≤ o && o < 0x2000100 then bits (mgetD w.harts.mtimecmp ((o - 0x2000000) / 8) 0) (8 * (o % 8)) (8 * n)
  else if 0x2007FF8 ≤ o && o < 0x2008000 then bits (mtime w) (8 * (o % 8)) (8 * n)
  else 0

/-- A hart's own write of a line at its home, behind the writes whose hold has ended, keeps the hart's reservation and its
wait (R278, R280). -/
def keepResv (h line : Nat) (f : World → World) (w : World) : World :=
  let w := behindLater line w
  let x := hartOf w h
  updHart h (fun y => { y with resv := x.resv, run := x.run }) (f w)

/-- An IO store leaves for its target; `none` while the target does not take it. Whether a PCIe completer reports an error
on a posted store the spec leaves to it: a free choice, and then nothing is stored and the error is logged (R282). -/
def ioStore (h pa n v : Nat) (w : World) : Option World :=
  if isMain pa then
    if heldByOther w h (pa / 64) || laterAt w (pa / 64) then none
    else some (keepResv h (pa / 64) (writeHome byControl pa (natLe v n)) w)
  else if inRegs pa then some (busWrite 1 (pa - 0x2000000000000) n v w)
  else if inPcie pa then
    if w.pwr.pcieDown.isSome then none
    else some (if freeVal w % 2 = 1 then storeError h pa (freeUsed w) else devWrite byControl pa (natLe v n) (freeUsed w))
  else if inChip pa then
    some (if chipActive w then chipWriteLine (.hartStore h pa) pa (natLe v n) w else storeError h pa w)
  else some (localStore pa n v w)

/-- IO stores of a hart to the chiplet that it has not acknowledged. -/
def chipStoresOut (w : World) (h : Nat) : Bool :=
  w.d2d.reqs.any (fun r => match r.user with | .hartStore k _ => k = h | _ => false)

/-- IO stores of a hart that their targets have not acknowledged. -/
def ioStoresOut (w : World) (h : Nat) : Bool := (hartOf w h).sb.any (·.io) || chipStoresOut w h

/-- IO loads of a hart that have not returned. -/
def ioLoadsOut (w : World) (h : Nat) : Bool :=
  w.d2d.reqs.any (fun r => match r.user with
    | .hartLoad k _ _ => k = h
    | .hartPair k _ _ => k = h
    | _ => false)

/-- IO accesses of a hart that are not performed yet (R273). -/
def ioOut (w : World) (h : Nat) : Bool := ioStoresOut w h || ioLoadsOut w h

/-! ### The buffers (R274, R275) -/

/-- A store-buffer entry, and a combining-buffer entry, with bytes of a range. -/
def sbOverlaps (pa n : Nat) (e : StoreEnt) : Bool := e.addr < pa + n && pa < e.addr + e.size

def combBits (pa n block : Nat) : Nat :=
  (((List.range n).map (· + pa)).filter (fun a => a / 64 = block)).foldl (fun m a => m ||| 2 ^ (a % 64)) 0

def cbOverlaps (pa n : Nat) (e : CombEnt) : Bool := e.mask &&& combBits pa n e.block ≠ 0

/-- A block's masked write at its home, over the hart's own copies too; the hart's own reservation stays (R278). -/
def flushComb (h : Nat) (e : CombEnt) (w : World) : Option World :=
  if heldByOther w h e.block || laterAt w e.block then none
  else
    let sh := 64 * (e.block % 2)
    let bs := if e.block % 2 = 0 then e.data ++ List.replicate 64 0 else List.replicate 64 0 ++ e.data
    let w := keepResv h e.block (homeMasked (e.block / 2 * 128) (e.mask * 2 ^ sh) bs) w
    some (updHart h (fun x => { x with cb := x.cb.filter (·.block ≠ e.block) }) w)

/-- The head of the store buffer leaves, where it can: an IO store once the IO accesses before it are performed (R273),
and a store behind an older combining-buffer entry with bytes of its own after that entry (RVWMO's order of one hart's
stores to one place, R272). -/
def drainHead (h : Nat) (w : World) : Option World :=
  match (hartOf w h).sb with
  | [] => none
  | e :: _ =>
    let pop (w : World) : World := updHart h (fun x => { x with sb := x.sb.drop 1 }) w
    if (hartOf w h).cb.any (cbOverlaps e.addr e.size) then none
    else if e.io then
      (if ioLoadsOut w h || (chipStoresOut w h && !(inChip e.addr)) then none else (ioStore h e.addr e.size e.data w).map pop)
    else if heldByOther w h (e.addr / 64) then none
    else some (pop (l1Touch h (e.addr / 64) (ownWrite h e.addr (natLe e.data e.size) (getM h (e.addr / 64) w))))

/-- The oldest store that may not stay: of the store buffer's entries, or of the combining buffer's, that `p` and `q`
choose. A store-buffer entry takes those before it along. -/
def drainOne (h : Nat) (p : StoreEnt → Bool) (q : CombEnt → Bool) (w : World) : Option World :=
  let x := hartOf w h
  let cs := x.cb.filter q
  let oldest := cs.foldl (fun (m : Option CombEnt) c => match m with
    | some d => if c.seq < d.seq then some c else m
    | none => some c) none
  match x.sb.find? p, oldest with
  | none, none => none
  | some _, none => drainHead h w
  | none, some c => flushComb h c w
  | some e, some c => if e.seq < c.seq then drainHead h w else flushComb h c w

/-- Are such stores buffered? -/
def anyStore (w : World) (h : Nat) (p : StoreEnt → Bool) (q : CombEnt → Bool) : Bool :=
  (hartOf w h).sb.any p || (hartOf w h).cb.any q

/-- Drains the stores that `p` and `q` choose, as far as their targets take them. -/
def drainWhere (h : Nat) (p : StoreEnt → Bool) (q : CombEnt → Bool) (w : World) : World :=
  iter 40 (fun _ w => (drainOne h p q w).getD w) w

def drainAll (h : Nat) (w : World) : World := drainWhere h (fun _ => true) (fun _ => true) w

def drainOver (h pa n : Nat) (w : World) : World := drainWhere h (sbOverlaps pa n) (cbOverlaps pa n) w

def overlapped (w : World) (h pa n : Nat) : Bool := anyStore w h (sbOverlaps pa n) (cbOverlaps pa n)

/-- The bytes a load takes from the youngest store that overlaps it, where that store covers the whole load (R276). Bytes
in both buffers are younger in the store buffer (`combStore`). -/
def forwarded (w : World) (h pa n : Nat) : Option (List Byte) :=
  let x := hartOf w h
  let s := (x.sb.filter (sbOverlaps pa n)).getLast?
  let c := (x.cb.filter (cbOverlaps pa n)).getLast?
  let fromSb (e : StoreEnt) : Option (List Byte) :=
    if e.addr ≤ pa && pa + n ≤ e.addr + e.size then some (((natLe e.data e.size).drop (pa - e.addr)).take n) else none
  let fromCb (e : CombEnt) : Option (List Byte) :=
    let m := combBits pa n e.block
    if pa / 64 = (pa + n - 1) / 64 && e.mask &&& m = m then some ((e.data.drop (pa % 64)).take n) else none
  match s, c with
  | some e, _ => fromSb e
  | none, some d => fromCb d
  | none, none => none

/-- A store takes its place in the store buffer. A PMA store's line is asked for M (R274); a reservation may hold the
request, which the head then makes again. -/
def pushStore (h pa n v : Nat) (io : Bool) (w : World) : World :=
  let w := updHart h (fun x => { x with
    sb := x.sb ++ [{ addr := pa, size := n, data := v % 2 ^ (8 * n), io := io, seq := x.stores }]
    stores := x.stores + 1 }) w
  if io || (mget (hartOf w h).mLines (pa / 64)).isSome || heldByOther w h (pa / 64) then w else getM h (pa / 64) w

def sbRoom (w : World) (h n : Nat) : Bool := (hartOf w h).sb.length + n ≤ 32

/-- Bytes of a store merged into a block's bytes. -/
def mergeBytes (data : List Byte) (off n v : Nat) : List Byte := data.take off ++ natLe v n ++ data.drop (off + n)

/-- A store within one block goes to the combining buffer: it merges, or takes an entry, for which the oldest may have
to leave; a full mask leaves at once. `none` where nothing can leave. DESIGN CHOICE: stores of the hart to the same bytes
in the store buffer drain first, so that they keep their order. -/
def combStore (h pa n v : Nat) (w : World) : Option World :=
  let w := drainWhere h (sbOverlaps pa n) (fun _ => false) w
  let block := pa / 64
  let m := combBits pa n block
  let full (w : World) : World := match (hartOf w h).cb.find? (fun e => e.block = block) with
    | some e => if e.mask = 2 ^ 64 - 1 then (flushComb h e w).getD w else w
    | none => w
  if (hartOf w h).sb.any (sbOverlaps pa n) then none
  else if (hartOf w h).cb.any (·.block = block) then
    some (full (updHart h (fun x => { x with
      cb := x.cb.map (fun e => if e.block = block then
        { e with mask := e.mask ||| m, data := mergeBytes e.data (pa % 64) n v, last := w.now } else e)
      stores := x.stores + 1 }) w))
  else
    let room : Option World := if (hartOf w h).cb.length < 8 then some w else drainOne h (fun _ => false) (fun _ => true) w
    room.map (fun w => full (updHart h (fun x => { x with
      cb := x.cb ++ [{ block := block, mask := m, data := mergeBytes (List.replicate 64 0) (pa % 64) n v,
                       last := w.now, seq := x.stores }]
      stores := x.stores + 1 }) w))

/-! ### Loads (R272, R273, R276) -/

/-- Poison a hart consumes (R471). -/
def hartPoison (h pa : Nat) (w : World) : World :=
  rasLog (if inHbm pa then kindHbm else kindLpddr) 2 (0x0E0 + h) none false pa (bump w rRAS_POISON_CONSUMED 1)

/-- The lines of a range. -/
def lines64 (pa n : Nat) : List Nat := granules pa n

/-- A line that a hart fetches from is in its instruction cache of 1,024 lines, through its L2 (R266). -/
def codeTouch (h line : Nat) (w : World) : World :=
  let ls := mgetD w.harts.code h []
  if ls.contains line then w
  else
    let w := getS h line w
    let kept := if ls.length < 1024 then ls else ls.eraseIdx (freeVal w % 1024)
    let w := if ls.length < 1024 then w else freeUsed w
    { w with harts := { w.harts with code := mset w.harts.code h (line :: kept) } }

/-- A load of main memory that takes nothing from a buffer; it waits behind a held write (R268). An IO load of 16 bytes is
two of 8 (R277). -/
def memLoad (h pa n typ : Nat) (fetch : Bool) (w : World) : World :=
  if (lines64 pa n).any (fun l => if typ = 0 then waitsBehind w h l else laterAt w l) then w else
  let r : List Byte × World :=
    if typ = 0 then
      let w := forAll (lines64 pa n) (fun l w => if fetch then codeTouch h l w else l1Touch h l (getS h l w)) w
      ((lines64 pa n).flatMap (fun l =>
        let a := max pa (64 * l)
        ownBytes w h a (min (pa + n) (64 * l + 64) - a)), w)
    else if typ = 2 && n = 16 then
      let a := devRead byControl pa 8 w
      let b := devRead byControl (pa + 8) 8 a.2
      (a.1 ++ b.1, b.2)
    else devRead byControl pa n w
  if homePoisoned r.2 pa n then hartExc h 0 (if fetch then 1 else 5) (hartPoison h pa r.2)
  else hartOut h 0 0 r.1 r.2

/-- A load of at most 8 bytes from an I/O range. -/
def ioLoad (pa n : Nat) (w : World) : List Byte × World :=
  if inRegs pa then
    let r := busRead (pa - 0x2000000000000) n w
    (natLe r.1 n, r.2)
  else if inPcie pa then devRead byControl pa n w
  else (natLe (localLoad pa n w) n, w)

/-- Sizes of hart accesses: scalars, and a 16-byte pair of vector elements within its aligned block. -/
def hartSize (pa n : Nat) : Bool := n = 1 || n = 2 || n = 4 || n = 8 || (n = 16 && pa % 16 = 0)

/-- HART_LOAD, or an instruction fetch. -/
def hartLoad (h pa n pbmt : Nat) (mmode fetch : Bool) (w : World) : World :=
  if !(hartRuns w h) || !(hartSize pa n) then w
  else match hartFault w h pa n pbmt (if fetch then 2 else 0) mmode with
    | some c => hartExc h 0 c w
    | none =>
      let typ := memType pa pbmt
      if typ = 2 then
        if ioOut w h then w
        else if isMain pa then
          let w := drainOver h pa n w
          if overlapped w h pa n then w else memLoad h pa n 2 fetch w
        else if inChip pa then
          (if chipActive w then chipRequest (.hartLoad h pa n) 1 (chipOff pa / 128 * 128) [] w else hartExc h 0 5 w)
        else if n = 16 then
          let a := ioLoad pa 8 w
          let b := ioLoad (pa + 8) 8 a.2
          hartOut h 0 0 (a.1 ++ b.1) b.2
        else
          let r := ioLoad pa n w
          hartOut h 0 0 r.1 r.2
      else if fetch then memLoad h pa n typ true w
      else match forwarded w h pa n with
        | some bs => hartOut h 0 0 bs w
        | none =>
          let w := drainOver h pa n w
          if overlapped w h pa n then w else memLoad h pa n typ false w

def execHartLoad (h pa n pbmt : Nat) (mmode fetch : Bool) (s : State) := run (inMode h mmode (hartLoad h pa n pbmt mmode fetch)) s

/-! ### Stores (R265, R274, R275) -/

/-- The aligned parts of a store: one, or two where it is misaligned. -/
def storeParts (pa n v : Nat) : List (Nat × Nat × Nat) :=
  if pa % n = 0 then [(pa, n, v % 2 ^ (8 * n))]
  else
    let k := n - pa % n
    [(pa, k, v % 2 ^ (8 * k)), (pa + k, n - k, v / 2 ^ (8 * k) % 2 ^ (8 * (n - k)))]

/-- Does the hart hold the line of an address? -/
def holdsLine (w : World) (h pa : Nat) : Bool :=
  (mget (hartOf w h).mLines (pa / 64)).isSome || (hartOf w h).sLines.contains (pa / 64)

/-- One part of a store of main memory or I/O. -/
def storePart (h pa n v typ : Nat) (ntl : Bool) (w : World) : Option World :=
  if typ = 1 || (typ = 0 && ntl && !(holdsLine w h pa)) then combStore h pa n v w
  else if typ = 2 && n = 16 then
    (if sbRoom w h 2 then some (pushStore h (pa + 8) 8 (v / 2 ^ 64) true (pushStore h pa 8 v true w)) else none)
  else if sbRoom w h 1 then some (pushStore h pa n v (typ = 2) w)
  else none

/-- HART_STORE: after its checks it enters a buffer; one that finds no room stalls. `ntl` says that an NTL.ALL hint
stands immediately before it. -/
def hartStore (h pa n v pbmt : Nat) (ntl mmode : Bool) (w : World) : World :=
  if !(hartRuns w h) || !(hartSize pa n) then w
  else match hartFault w h pa n pbmt 1 mmode with
    | some c => hartExc h 1 c w
    | none =>
      let typ := memType pa pbmt
      let parts := storeParts pa n v
      if typ ≠ 1 && !(sbRoom w h 2) && !(sbRoom w h parts.length) then w
      else
        let r := parts.foldl (fun (a : Option World) p => a.bind (storePart h p.1 p.2.1 p.2.2 typ ntl)) (some w)
        match r with
        | some w => hartOut h 1 0 [] w
        | none => w

def execHartStore (h pa n v pbmt : Nat) (ntl mmode : Bool) (s : State) := run (inMode h mmode (hartStore h pa n v pbmt ntl mmode)) s

/-- STORE_BUFFER_DRAIN. -/
def execStoreBufferDrain (h : Nat) (s : State) := run (fun w => (drainHead h w).getD w) s

/-- COMBINING_IDLE_TIMEOUT: 256 HCLK cycles (3 per ns) after an entry's last merge. -/
def combTimeout (h block : Nat) (w : World) : World :=
  match (hartOf w h).cb.find? (·.block = block) with
  | some e => if 256 ≤ 3 * (w.now - e.last) then (flushComb h e w).getD w else w
  | none => w

def execCombiningIdleTimeout (h block : Nat) (s : State) := run (combTimeout h block) s

/-! ### AMO, CBO.ZERO (R277) -/

/-- The new value of an AMO of `n` bytes: 0 swap, 1 add, 2 xor, 3 and, 4 or, 5 min, 6 max, 7 minu, 8 maxu, 9 cas. -/
def amoNew (op n old v cmp : Nat) : Nat :=
  let sx (x : Nat) : Int := sextInt x (8 * n)
  match op with
  | 0 => v % 2 ^ (8 * n)
  | 1 => (old + v) % 2 ^ (8 * n)
  | 2 => (old ^^^ v) % 2 ^ (8 * n)
  | 3 => (old &&& v) % 2 ^ (8 * n)
  | 4 => (old ||| v) % 2 ^ (8 * n)
  | 5 => if sx v < sx old then v % 2 ^ (8 * n) else old
  | 6 => if sx old < sx v then v % 2 ^ (8 * n) else old
  | 7 => min old (v % 2 ^ (8 * n))
  | 8 => max old (v % 2 ^ (8 * n))
  | _ => if old = cmp % 2 ^ (8 * n) then v % 2 ^ (8 * n) else old

/-- An AMO's exception (R265, R271, R277). -/
def amoFault (w : World) (h pa n op pbmt : Nat) (mmode : Bool) : Option Nat :=
  if pa % n ≠ 0 then some 6
  else match hartFault w h pa n pbmt 1 mmode with
    | some c => some c
    | none =>
      let typ := memType pa pbmt
      if typ = 2 || (n = 16 && (typ = 1 || op ≠ 9)) then some 7 else none

/-- The stores that an AMO, LR or SC follows have drained: those of its bytes, and with the release bit `rl` every one of
the store buffer (R272). -/
def drainFor (h pa n : Nat) (rl : Bool) (w : World) : Bool × World :=
  let w := drainOver h pa n (if rl then drainWhere h (fun _ => true) (fun _ => false) w else w)
  (!(overlapped w h pa n) && !(rl && !(hartOf w h).sb.isEmpty), w)

/-- HART_AMO: in the L1 for PMA, at the home for NC. -/
def hartAmo (h pa op n v cmp pbmt : Nat) (rl mmode : Bool) (w : World) : World :=
  if !(hartRuns w h) || 9 < op || !(n = 4 || n = 8 || n = 16) then w
  else match amoFault w h pa n op pbmt mmode with
    | some c => hartExc h 2 c w
    | none =>
      let r := drainFor h pa n rl w
      if !r.1 || heldByOther r.2 h (pa / 64) then r.2
      else if memType pa pbmt = 0 then
        let w := getM h (pa / 64) r.2
        if homePoisoned w pa n then hartExc h 2 7 (hartPoison h pa w)
        else
          let old := ownBytes w h pa n
          hartOut h 2 0 old (l1Touch h (pa / 64) (ownWrite h pa (natLe (amoNew op n (leNat old) v cmp) n) w))
      else if laterAt r.2 (pa / 64) then r.2
      else
        let w := keepResv h (pa / 64) (recallWrite (pa / 64)) r.2
        let w := countHome pa n true (countHome pa n false (touchLine byControl .merge pa w))
        if homePoisoned w pa n then hartExc h 2 7 (hartPoison h pa w)
        else
          let old := listAt w.mem.bytes pa n
          hartOut h 2 0 old (putBytes pa (natLe (amoNew op n (leNat old) v cmp) n) w)

def execHartAmo (h pa op n v cmp pbmt : Nat) (rl mmode : Bool) (s : State) :=
  run (inMode h mmode (hartAmo h pa op n v cmp pbmt rl mmode)) s

/-- CBO_ZERO: the block is written as one, after the hart's earlier stores to it. It is half a line, whose poison stays
(R470). -/
def cboZero (h pa pbmt : Nat) (mmode : Bool) (w : World) : World :=
  let a := pa / 64 * 64
  if !(hartRuns w h) then w
  else match hartFault w h a 1 pbmt 1 mmode with
    | some c => hartExc h 5 c w
    | none =>
      if memType a pbmt = 2 then hartExc h 5 7 w
      else
        let w := drainOver h a 64 w
        if overlapped w h a 64 || heldByOther w h (a / 64) || (memType a pbmt ≠ 0 && laterAt w (a / 64)) then w
        else
          let zeros : List Byte := List.replicate 64 0
          let w := if memType a pbmt = 0 then l1Touch h (a / 64) (ownWrite h a zeros (getM h (a / 64) w))
            else keepResv h (a / 64) (writeHome byControl a zeros) w
          hartOut h 5 0 [] w

def execCboZero (h pa pbmt : Nat) (mmode : Bool) (s : State) := run (inMode h mmode (cboZero h pa pbmt mmode)) s

/-! ### Reservations (R278 to R280) -/

/-- LR: a load that reserves its granule. DESIGN CHOICE: a denied LR raises cause 7, the store/AMO access fault (R264 says only
a load, store/AMO or instruction access fault). -/
def loadReserved (h pa n pbmt : Nat) (rl mmode : Bool) (w : World) : World :=
  if !(hartRuns w h) || !(n = 4 || n = 8) then w
  else if pa % n ≠ 0 then hartExc h 3 4 w
  else match hartFault w h pa n pbmt 0 mmode with
    | some c => hartExc h 3 (if c = 5 then 7 else c) w
    | none =>
      if memType pa pbmt ≠ 0 then hartExc h 3 7 w
      else
        let r := drainFor h pa n rl w
        let w := r.2
        if !r.1 || waitsBehind w h (pa / 64) then w
        else
          let w := l1Touch h (pa / 64) (getS h (pa / 64) w)
          if homePoisoned w pa n then hartExc h 3 5 (hartPoison h pa w)
          else hartOut h 3 0 (ownBytes w h pa n)
            (settleLater (updHart h (fun x => { x with resv := some ⟨pa / 64, w.now, false⟩ }) w))

def execLr (h pa n pbmt : Nat) (rl mmode : Bool) (s : State) := run (inMode h mmode (loadReserved h pa n pbmt rl mmode)) s

/-- SC: stores only with a reservation on its granule, and ends any reservation. -/
def storeConditional (h pa n v pbmt : Nat) (rl mmode : Bool) (w : World) : World :=
  if !(hartRuns w h) || !(n = 4 || n = 8) then w
  else if pa % n ≠ 0 then hartExc h 4 6 w
  else match hartFault w h pa n pbmt 1 mmode with
    | some c => hartExc h 4 c w
    | none =>
      if memType pa pbmt ≠ 0 then hartExc h 4 7 w
      else
        let clear (w : World) : World := settleLater (updHart h (fun x => { x with resv := none }) w)
        match (hartOf w h).resv with
        | some r =>
          if r.granule ≠ pa / 64 then hartOut h 4 0 [1] (clear w)
          else
            let r := drainFor h pa n rl w
            let w := r.2
            if !r.1 || heldByOther w h (pa / 64) then w
            else hartOut h 4 0 [0] (clear (l1Touch h (pa / 64) (ownWrite h pa (natLe v n) (getM h (pa / 64) w))))
        | none => hartOut h 4 0 [1] w

def execSc (h pa n v pbmt : Nat) (rl mmode : Bool) (s : State) :=
  run (inMode h mmode (storeConditional h pa n v pbmt rl mmode)) s

/-- RESERVATION_HOLD_EXPIRY: 64 HCLK cycles after the LR a recall no longer waits, and the writes it held take place. -/
def holdExpiry (h : Nat) (w : World) : World :=
  settleLater (updHart h (fun x => { x with resv := x.resv.map (fun r =>
    if 64 ≤ 3 * (w.now - r.since) then { r with free := true } else r) }) w)

def execReservationHoldExpiry (h : Nat) (s : State) := run (fun w => if h < 32 then holdExpiry h w else w) s

/-- An interrupt that is enabled locally is pending at a hart. -/
def irqPending (w : World) (h : Nat) : Bool :=
  let on (b : Nat) : Bool := bits (csrsOf w h).mie b 1 = 1
  ((hartOf w h).mtip && on 7) || ((hartOf w h).stip && on 5) || ((hartOf w h).vstip && on 6) ||
    (List.range 6).any (fun f => !(mgetD w.irq.imsic (8 * h + f) []).isEmpty && on (fileBit f))

/-- The Sstc comparators against mtime: supervisor's, and the guest's against its own time (R286). PRESUMED: the comparison and
the guest's offset are those of the RISC-V Sstc and hypervisor extensions. -/
def sstcDue (w : World) (h : Nat) : Bool × Bool :=
  (decide (mgetD w.harts.stimecmp h 0 ≤ mtime w),
    decide (mgetD w.harts.vstimecmp h 0 ≤ (mtime w + mgetD w.harts.htimedelta h 0) % 2 ^ 64))

/-- The Sstc interrupts of a hart are pending as its comparators say. -/
def sstcPending (h : Nat) (w : World) : World :=
  updHart h (fun x => { x with stip := (sstcDue w h).1, vstip := (sstcDue w h).2 }) w

/-- A hart's mie, translation roots, performance counters and Sstc registers as its software has set them by the time it waits.
DESIGN CHOICE: the table has no command for the instruction that writes a register of a hart, so they are free values
here. -/
def setWaitCsrs (h : Nat) (w : World) : World :=
  let v := freeUsed w
  let x := freeVal w
  let c := csrsOf w h
  let c := { c with
    mie := x % 2 ^ 16, satp := rootAfter false c.satp (bits x 16 64), hgatp := rootAfter true c.hgatp (bits x 80 64)
    hpm := (List.range 29).map (fun i => bits x (144 + 64 * i) 64) }
  { freeUsed v with harts := { w.harts with
    csrs := mset w.harts.csrs h c
    stimecmp := mset w.harts.stimecmp h (bits (freeVal v) 0 64)
    vstimecmp := mset w.harts.vstimecmp h (bits (freeVal v) 64 64)
    htimedelta := mset w.harts.htimedelta h (bits (freeVal v) 128 64) } }

/-- WRS.NTO and WRS.STO: the hart waits while it holds a reservation and no interrupt enabled locally is pending. -/
def waitReservation (h : Nat) (sto : Bool) (w : World) : World :=
  if !(hartRuns w h) then w
  else
    let w := sstcPending h (setWaitCsrs h w)
    if (hartOf w h).resv.isNone || irqPending w h then hartOut h 5 0 [] w
    else updHart h (fun x => { x with run := .wrs (if sto then some w.now else none) }) w

def execWrsNto (h : Nat) (s : State) := run (waitReservation h false) s
def execWrsSto (h : Nat) (s : State) := run (waitReservation h true) s

/-- WRS_TIMEOUT: a WRS.STO ends after 3,000 HCLK cycles. -/
def wrsTimeout (h : Nat) (w : World) : World := match (hartOf w h).run with
  | .wrs (some t) => if 3000 ≤ 3 * (w.now - t) then updHart h wake w else w
  | _ => w

def execWrsTimeout (h : Nat) (s : State) := run (wrsTimeout h) s

/-! ### Fences (R266, R273, R275) -/

/-- FENCE: sets as RISC-V encodes them (I 8, O 4, R 2, W 1). A predecessor W writes the combining buffer out (R275), and
its stores have left the store buffer; a predecessor O's stores are acknowledged, a predecessor I's loads have returned.
DESIGN CHOICE: it waits so for every successor set that is not empty, though some pairs would be ordered without. -/
def hartFence (h pred succ : Nat) (w : World) : World :=
  if !(hartRuns w h) then w
  else
    let some' := bits succ 0 4 ≠ 0
    let w := if bit pred 0 then drainWhere h (fun _ => false) (fun _ => true) w else w
    let mine (e : StoreEnt) : Bool := some' && ((bit pred 0 && !e.io) || (bit pred 2 && e.io))
    let w := drainWhere h mine (fun _ => false) w
    if (bit pred 0 && !(hartOf w h).cb.isEmpty) || (hartOf w h).sb.any mine ||
        (some' && ((bit pred 2 && chipStoresOut w h) || (bit pred 3 && ioLoadsOut w h))) then w
    else hartOut h 5 0 [] w

def execFence (h pred succ : Nat) (s : State) := run (hartFence h pred succ) s

/-- FENCE.I: the hart's earlier stores are visible to its later fetches. -/
def fenceI (h : Nat) (w : World) : World :=
  if !(hartRuns w h) then w
  else
    let w := drainAll h w
    if anyStore w h (fun _ => true) (fun _ => true) then w else hartOut h 5 0 [] w

def execFenceI (h : Nat) (s : State) := run (fenceI h) s

/-! ### Traps, power-down, timer (R282, R284, R286) -/

/-- The interrupt file that an external interrupt's cause names, if it is one. -/
def causeFile (w : World) (h cause : Nat) : Option Nat :=
  (List.range 6).find? (fun f => cause = 2 ^ 63 + fileBit f && !(mgetD w.irq.imsic (8 * h + f) []).isEmpty)

/-- The handler claims the file's first identity, the one of highest priority. DESIGN CHOICE: the claim, for which the table
has no command, is part of the entry. -/
def claimFile (h cause : Nat) (w : World) : World := match causeFile w h cause with
  | some f => updIrq (fun i => { i with imsic := mupd i.imsic (8 * h + f) (·.drop 1) }) w
  | none => w

/-- HART_TRAP_ENTRY: for the exception raised, or an interrupt; the buffers drain, the reservation is lost. PRESUMED: the
handler runs in M-mode, as while nothing is delegated. -/
def trapEntry (h cause : Nat) (w : World) : World :=
  let x := hartOf w h
  let awake := match x.run with | .running => true | .wrs _ => true | _ => false
  if 32 ≤ h || !awake || domState w (128 + h / 4) ≠ 2 || x.trap.getD cause ≠ cause then w
  else
    let w := drainAll h w
    if anyStore w h (fun _ => true) (fun _ => true) || ioOut w h then w
    else hartOut h 6 0 (natLe cause 8)
      (claimFile h cause (settleLater (updHart h (fun x => { wake x with trap := none, resv := none, mmode := true }) w)))

def execHartTrapEntry (h cause : Nat) (s : State) := run (trapEntry h cause) s

/-- HART_POWERDOWN_ACK: a stopping hart has drained, writes its lines back, and acknowledges. -/
def powerdownAck (h : Nat) (w : World) : World :=
  if 32 ≤ h || (hartOf w h).run ≠ .stopping then w
  else
    let w := drainAll h w
    if anyStore w h (fun _ => true) (fun _ => true) || ioOut w h then w
    else settleLater (updHart h (fun x => { x with run := .stopped }) (hartFlush h w))

def execHartPowerdownAck (h : Nat) (s : State) := run (powerdownAck h) s

/-- MACHINE_TIMER: mtime has reached a hart's mtimecmp, or one of its Sstc comparators. -/
def machineTimer (h : Nat) (w : World) : World :=
  if 32 ≤ h then w
  else
    let w := timerCheck h w
    let due := sstcDue w h
    let w := sstcPending h w
    let w := if due.1 then wakeFor h 5 w else w
    if due.2 then wakeFor h 6 w else w

def execMachineTimer (h : Nat) (s : State) := run (machineTimer h) s

end Sys2Proof.Machine
end

