-- ==== Sys2Proof/Machine/Inbound.lean ====
section
/-!
DEFINITION. Accesses of the external host to device memory (R269, R471), requests the NET block does not support
(R402), the end of an ordinary launch's min_run_us (R354), and the refill of the bandwidth regulators (R345).
-/
namespace Sys2Proof.Machine

/-- Completions to the external host over PCIe: 0 successful, 1 completer abort. -/
def pcieDone (tag status : Nat) (data : List Byte) (w : World) : World := emit .pcie [tag, status] data w

/-- Main memory the external host can reach: the link is up and Llynmon configured; a page that is being reloaded
(R472) makes the access wait. -/
def pcieReaches (w : World) (pa n : Nat) : Bool :=
  configured w && w.pwr.pcieDown.isNone && n ≠ 0 && ((inHbm pa && inHbm (pa + n - 1)) || (inHost pa && inHost (pa + n - 1))) &&
    !((vaPages pa n).any (fun p => w.mem.held.contains (p / 65536)))

/-- PCIE_INBOUND_ACCESS: a memory write of `data`, or a read of `n` bytes with a tag. -/
def pcieAccess (pa n tag : Nat) (write : Bool) (data : List Byte) (w : World) : World :=
  if !(pcieReaches w pa (if write then data.length else n)) then w
  else if write then devWrite byControl pa data w
  else
    let r := devRead byControl pa n w
    match (linesOf pa n).find? (fun l => poisoned r.2 l 1) with
    | some l =>
      pcieDone tag 1 [] (rasLog (if inHbm pa then kindHbm else kindLpddr) 2 0x088 none false l
        (bump r.2 rRAS_POISON_CONSUMED 1))
    | none => pcieDone tag 0 r.1 r.2

def execPcieInboundAccess (pa n tag : Nat) (write : Bool) (data : List Byte) (s : State) := run (pcieAccess pa n tag write data) s

/-- UNSUPPORTED_REQUEST: a SEND, an atomic or another request the block does not support is NAKed as invalid; `bytes`
is the datagram's length after UDP. -/
def unsupportedRequest (i psn bytes : Nat) (ce : Bool) (w : World) : World :=
  match connHears w i with
  | none => w
  | some _ => reply i rInvalid psn (heard i bytes ce w)

def execUnsupportedRequest (qpn psn bytes : Nat) (ce : Bool) (s : State) := run (byQpn qpn (fun i => unsupportedRequest i psn bytes ce)) s

/-- MIN_RUN_ELAPSED: what a partition's scheduler decides when its running launch has run for min_run_us. -/
def execMinRunElapsed (p : Nat) (s : State) := runFe (considerPreempt p) s

/-! ### Bandwidth regulators (R345) -/

/-- A bucket's refill: the rate written since takes effect (R366), and the level rises by rate_gbs × 500 B, up to its burst;
one without a rate keeps no level. -/
def refillOne (b p : Nat) (w : World) : World :=
  let rate := fld w (bucketReg b p) 0 16
  let cap : Int := 1024 * fld w (bucketReg b p) 32 16
  let key := 16 * b + p
  setSched (fun s => { s with
    rates := mset s.rates key rate
    levels := if rate = 0 then mdel s.levels key else mset s.levels key (min (mgetD s.levels key 0 + rate * 500) cap)
    holding := if rate = 0 then s.holding.filter (· ≠ key) else s.holding }) w

/-- BUCKET_REFILL: every bucket of every partition is refilled; packets that wait to be sent again go on. -/
def bucketRefill (w : World) : World :=
  let w := iter 48 (fun i w => refillOne (i / 16) (i % 16) w) w
  forAll ((w.net.conns.filter (fun c => c.2.again ≠ 0)).map (·.1)) resendGo w

def execBucketRefill (s : State) := run bucketRefill s

end Sys2Proof.Machine
end

