-- ==== Sys2Proof/Machine/Pins.lean ====
section
/-!
DEFINITION. The module connector's events (R487 to R498): power sequencing, resets, the stage's shutdowns and
measurements, laser sources, coolant.
-/
namespace Sys2Proof.Machine

def updPins (f : Pins → Pins) (w : World) : World := { w with pins := f w.pins }

/-! ### Sequencing (R492, R495, R496) -/

/-- HOUSEKEEPING_UP: the always-on domain is live, and SLOT_ID is sampled once. -/
def housekeepingUp (slot : Nat) (w : World) : World :=
  if w.pins.awake then w else updPins (fun p => { p with awake := true, slot := slot % 16 }) w

def execHousekeepingUp (slot : Nat) (s : State) := run (housekeepingUp slot) s

/-- PWR_EN_RISE: the main converter may run; POWER_GOOD follows unless TRIP_N is low. -/
def pwrEnRise (w : World) : World :=
  if w.pins.pwrEn then w else updPins (fun p => { p with pwrEn := true, enAt := w.now }) w

def execPwrEnRise (s : State) := run pwrEnRise s

/-- PWR_EN_FALL: the rail is removed, as a loss of input power. -/
def pwrEnFall (w : World) : World :=
  if w.pins.pwrEn then
    let w := if w.pins.pwrgd then powerLost false w else w
    updPins (fun p => { p with pwrEn := false, enAt := w.now }) w
  else w

def execPwrEnFall (s : State) := run pwrEnFall s

/-- MOD_RST_N_ASSERT: everything outside the always-on domain is lost. -/
def modRstAssert (w : World) : World :=
  if w.pins.rstN then updPins (fun p => { p with rstN := false }) (powerLost true w) else w

def execModRstNAssert (s : State) := run modRstAssert s

/-- MOD_RST_N_RELEASE: phase POWER_UP can end, provided PWR_EN is high. -/
def execModRstNRelease (s : State) := run (updPins (fun p => { p with rstN := true })) s

/-- PERST_N_ASSERT: a Conventional Reset of the PCIe function (R339). -/
def perstAssert (w : World) : World :=
  if w.pins.perstN then
    let w := pcieLink false (updPins (fun p => { p with perstN := false }) w)
    if configured w then functionReset w else w
  else w

def execPerstNAssert (s : State) := run perstAssert s

/-- PERST_N_RELEASE: PCIe may train. -/
def execPerstNRelease (s : State) := run (updPins (fun p => { p with perstN := true })) s

/-- TRIP_N_RELEASE: PWR_EN has been low for 1 s after a trip. -/
def tripRelease (w : World) : World :=
  if w.pins.trip && !w.pins.pwrEn && w.pins.enAt + 10 ^ 9 ≤ w.now then
    pinOut 1 1 (updPins (fun p => { p with trip := false }) w) else w

def execTripNRelease (s : State) := run tripRelease s

/-! ### The 48 V stage (R489 to R491, R498) -/

/-- INPUT_UNDERVOLTAGE: a loss of input power, the always-on domain's with it. Input levels and fuses stay. -/
def undervoltage (w : World) : World :=
  let p := w.pins
  let v := powerLost false (updPins (fun p => { p with trip := false }) w)
  { v with
    regs := v.regs.filter (fun r => r.1 ≠ rPWR_TRIP_INFO)
    pins := { Pins.reset with pwrEn := p.pwrEn, rstN := p.rstN, perstN := p.perstN, dark := p.dark, retn := p.retn
                              enAt := p.enAt } }

def execInputUndervoltage (s : State) := run undervoltage s

def execRailOvercurrent (s : State) := run (trip 3 0x20) s

def execRailOvervoltage (s : State) := run (trip 4 0x20) s

def execStageOverTemperature (s : State) := run (trip 5 0x20) s

/-- STAGE_MEASUREMENT: input voltage and current in units of 10 mV and 10 mA, power in W, temperature in °C. -/
def stageMeasure (mv ma watts temp : Nat) (w : World) : World :=
  if w.pins.awake then
    rgSet w rPWR_INPUT (temp % 2 ^ 8 * 2 ^ 56 + watts % 2 ^ 16 * 2 ^ 40 + mv % 2 ^ 16 * 2 ^ 16 + ma % 2 ^ 16) else w

def execStageMeasurement (mv ma watts temp : Nat) (s : State) := run (stageMeasure mv ma watts temp) s

/-- COOLANT_SAMPLE: temperatures in units of 0.01 °C. -/
def coolant (inlet outlet : Nat) (w : World) : World :=
  if w.pins.awake then rgSet w rPWR_COOLANT (outlet % 2 ^ 16 * 2 ^ 16 + inlet % 2 ^ 16) else w

def execCoolantSample (inlet outlet : Nat) (s : State) := run (coolant inlet outlet) s

/-! ### Laser sources (R497) -/

def sourcePorts (k : Nat) : List Nat := (List.range 4).map (· + 4 * k)

/-- ELSFP_LIGHT_LOSS: source k is removed or dark, and its four ports' links go down. -/
def lightLoss (k : Nat) (w : World) : World :=
  if 4 ≤ k then w
  else
    let w := updPins (fun p => { p with dark := sIns p.dark k }) w
    if configured w then forAll (sourcePorts k) linkDown w else w

def execElsfpLightLoss (k : Nat) (s : State) := run (lightLoss k) s

/-- ELSFP_LIGHT_RETURN: the ports train again. -/
def lightReturn (k : Nat) (w : World) : World :=
  if w.pins.dark.contains k then
    forAll (sourcePorts k) linkUp (updPins (fun p => { p with dark := p.dark.filter (· ≠ k) }) w) else w

def execElsfpLightReturn (k : Nat) (s : State) := run (lightReturn k) s

end Sys2Proof.Machine
end

