-- ==== Sys2Proof/Machine/Mgmt.lean ====
section
/-!
DEFINITION. Management over MCTP on I3C (R499): MCTP control, PLDM and SPDM requests, and the return authorisation
(R459). An answer leaves as a sideband output: the request's code, then its bytes. Command codes and layouts within
an answer are those of the protocols' standards (PRESUMED); what the spec leaves to them is an open value.
-/
namespace Sys2Proof.Machine

/-- The CMC answers whenever P48V is present. -/
def answer (code : Nat) (data : World → List Byte) (w : World) : World :=
  if w.pins.awake then emit .sideband [code] (data w) w else w

def asked (code : Nat) (data : World → List Byte) (s : State) : Host.Outcome State Fault Refusal := run (answer code data) s

/-! ### MCTP control -/

/-- Set Endpoint ID: 0x00 and 0xFF are no endpoint's, and change nothing. -/
def setEid (eid : Nat) (w : World) : World :=
  if !w.pins.awake then w
  else if eid % 256 = 0 || eid % 256 = 255 then answer 1 (fun _ => [2]) w
  else answer 1 (fun w => [0, 0, BitVec.ofNat 8 w.pins.eid, 0]) (updPins (fun p => { p with eid := eid % 256 }) w)

def execSetEndpointId (eid : Nat) (s : State) := run (setEid eid) s

def execGetEndpointId (s : State) := asked 2 (fun w => [0, BitVec.ofNat 8 w.pins.eid, 0, 0]) s

def execGetMctpVersionSupport (typ : Nat) (s : State) := asked 4 (fun _ => 0 :: Config.mgmtBytes 4 typ) s

/-- PLDM (0x01) and SPDM (0x05). -/
def execGetMessageTypeSupport (s : State) := asked 5 (fun _ => [0, 2, 1, 5]) s

/-! ### PLDM -/

def execGetTid (s : State) := asked 0x102 (fun _ => [0, Config.tid]) s

def execGetPldmVersion (typ : Nat) (s : State) := asked 0x103 (fun _ => 0 :: Config.mgmtBytes 0x103 typ) s

/-- Types 0, 2 and 4. -/
def execGetPldmTypes (s : State) := asked 0x104 (fun _ => 0 :: natLe 0x15 8) s

/-- The commands of a type: bit n of the mask is command n. Types the module lacks answer an error. -/
def pldmCommands (typ : Nat) : List Byte :=
  if typ = 0 then 0 :: natLe 0x3C 32
  else if typ = 2 then 0 :: natLe (2 ^ 0x0A + 2 ^ 0x11 + 2 ^ 0x50 + 2 ^ 0x51) 32
  else if typ = 4 then 0 :: natLe 6 32
  else [0x83]

def execGetPldmCommands (typ : Nat) (s : State) := asked 0x105 (fun _ => pldmCommands typ) s

/-- The sensors: 0 to 3 input voltage, current, power and stage temperature; 4 and 5 rail voltage and current; 6 to 9
junctions; 10 to 21 HBM stacks; 22 and 23 coolant inlet and outlet. -/
def sensor (w : World) (id : Nat) : Option Nat :=
  if id = 0 then some (fld w rPWR_INPUT 16 16)
  else if id = 1 then some (fld w rPWR_INPUT 0 16)
  else if id = 2 then some (fld w rPWR_INPUT 40 16)
  else if id = 3 then some (fld w rPWR_INPUT 56 8)
  else if id = 4 then some (fld w rPWR_RAIL 32 16)
  else if id = 5 then some (fld w rPWR_RAIL 0 16)
  else if id < 10 then some (fld w (rPWR_THROT (id - 6)) 16 8)
  else if id < 22 then some (fld w (rMEM_THERM_STACK (id - 10)) 0 8)
  else if id = 22 then some (fld w rPWR_COOLANT 0 16)
  else if id = 23 then some (fld w rPWR_COOLANT 16 16)
  else none

def sensorReply (id : Nat) (w : World) : List Byte := match sensor w id with
  | some v => [0, 0] ++ natLe id 2 ++ natLe v 4
  | none => [0x80]

def execGetSensorReading (id : Nat) (s : State) := asked 0x211 (sensorReply id) s

/-- The PDR repository describes the 24 sensors; its layout is an open value. -/
def execPdrRepositoryRequest (rec_ : Nat) (s : State) := asked 0x251 (fun _ => 0 :: natLe 24 4 ++ Config.mgmtBytes 0x251 rec_) s

/-- FRU data: part, variant, serial, stepping. -/
def fruData (w : World) : List Byte :=
  0 :: natLe (fld w rGLB_ID 32 16) 2 ++ [if Config.variantA then 0x41 else 0x42] ++ natLe (rg w rRAS_SERIAL) 8 ++
    natLe (fld w rGLB_ID 24 8) 1

def execFruDataRequest (s : State) := asked 0x402 fruData s

/-! ### SPDM -/

/-- An SPDM request that needs the exchange to have reached a step, and moves it to another; out of turn it is
answered with an error. -/
def spdm (code need next : Nat) (data : World → List Byte) (w : World) : World :=
  if !w.pins.awake then w
  else if w.pins.spdm < need then answer code (fun _ => [0x7F, 4]) w
  else answer code data (updPins (fun p => { p with spdm := next }) w)

/-- A request that leaves the exchange where it is. -/
def spdmAsk (code : Nat) (data : World → List Byte) (w : World) : World := spdm code 3 w.pins.spdm data w

def execGetVersion (s : State) := run (spdm 0x584 0 1 (fun _ => Config.mgmtBytes 0x584 0)) s

def execGetCapabilities (s : State) := run (spdm 0x5E1 1 2 (fun _ => Config.mgmtBytes 0x5E1 0)) s

def execNegotiateAlgorithms (s : State) := run (spdm 0x5E3 2 3 (fun _ => Config.mgmtBytes 0x5E3 0)) s

def execGetDigests (s : State) := run (spdmAsk 0x581 (fun _ => Config.mgmtBytes 0x581 0)) s

def execGetCertificate (slot : Nat) (s : State) := run (spdmAsk 0x582 (fun _ => Config.mgmtBytes 0x582 slot)) s

def execChallenge (nonce : Nat) (s : State) := run (spdmAsk 0x583 (fun _ => Config.mgmtBytes 0x583 nonce)) s

def digest384 (bs : List Byte) : List Byte := (List.range 48).map (Config.sha384 bs)

/-- The value of a measurement: the bundle's digest, the loaded image's, the life cycle and the fused minimum, the
applied record's sequence. -/
def measurement (w : World) (i : Nat) : List Byte :=
  if i = 1 then digest384 w.boot.bundle
  else if i = 2 then (if configured w then digest384 w.boot.image else [])
  else if i = 3 then natLe (fld w rRAS_LIFECYCLE 0 2) 1 ++ natLe Config.minGen 4
  else if i = 4 then (if bootRecord w = 1 then natLe w.boot.sequence 8 else [])
  else []

/-- GET_MEASUREMENTS: of index 0 their number, of 0xFF all of them. -/
def measurements (i : Nat) (w : World) : List Byte :=
  if i = 0 then [4]
  else if i = 255 then [1, 2, 3, 4].flatMap (fun k => BitVec.ofNat 8 k :: measurement w k)
  else BitVec.ofNat 8 i :: measurement w i

def execGetMeasurements (index : Nat) (s : State) := run (spdmAsk 0x5E0 (measurements index)) s

def execKeyExchange (s : State) := run (spdm 0x5E4 3 4 (fun _ => Config.mgmtBytes 0x5E4 0)) s

def execFinish (s : State) := run (spdm 0x5E5 4 5 (fun _ => Config.mgmtBytes 0x5E5 0)) s

def execEndSession (s : State) := run (spdm 0x5EC 5 3 (fun _ => Config.mgmtBytes 0x5EC 0)) s

/-- RETURN_AUTHORISATION: a signed authorisation in a secure session fuses the move from PRODUCTION to RETURN. -/
def returnAuth (auth : List Byte) (w : World) : World :=
  if w.pins.awake && w.pins.spdm = 5 && Config.signed 2 auth && fld w rRAS_LIFECYCLE 0 2 = 1 then
    fldSet (updPins (fun p => { p with retn := true }) w) rRAS_LIFECYCLE 0 2 2 else w

def execReturnAuthorisation (auth : List Byte) (s : State) := run (returnAuth auth) s

end Sys2Proof.Machine
end

