-- ==== Sys2Proof/Machine/Mover.lean ====
section
/-!
DEFINITION. The tensor mover of a core (R160, R179 to R182): TM.COPY, TM.XPOSE, WATCH, and its queue.
-/
namespace Sys2Proof.Machine

/-! ### Issue -/

/-- A mover instruction: its registers, its checks and the operation it captures. DESIGN CHOICE: an instruction that has
started no longer holds one of the queue's 8 entries, as tm_queue_depth of CM_STATUS counts them; R179 does not say. -/
def tmMeaning (uses : Iss → Uses) (chk : Iss → Group → CoreLaunch → QueueCheck) (op : Iss → Group → TmOp) : Meaning :=
  { uses := fun i _ => uses i
    trap := fun i w => queueTrap (chk i (groupOf w i.core i.slot) (launchOn w i.core)) i.ex
    waits := fun i w => i.ex ≠ 0 && 8 ≤ (coreOf w i.core).tmq.length
    eff := fun i w =>
      if i.ex = 0 then w
      else
        let g := groupOf w i.core i.slot
        updCore i.core (fun c => { c with
          tmq := c.tmq ++ [{ op := op i g, sem := xSemOf i, slot := i.slot, number := g.number, mask := i.path, pc := i.pc
                             before := c.nextId, parts := [], paid := 0 }]
          nextId := c.nextId + 1 }) w }

def tmMask : Nat := fm 45 3 + fm 42 3 + fm 29 5

/-- TM.COPY's conditions: equal format words, rows and columns (R180). -/
def copyCheck (i : Iss) (g : Group) (l : CoreLaunch) : QueueCheck :=
  let a := descOf g (xSlot i)
  let b := descOf g (xSlot2 i)
  { illegal := fixedBad tmMask i || xSemBad i
    format := (xSlot i ≠ 0 && fwBad a.fmt) || (xSlot2 i ≠ 0 && fwBad b.fmt)
    operand := descBad g (xSlot i) false false || descBad g (xSlot2 i) false false || a.fmt ≠ b.fmt ||
      a.rows ≠ b.rows || a.cols ≠ b.cols
    slm := descOut l a || descOut l b }

def execTmCopy (a : At) (s : State) :=
  run (issue 8 0 (tmMeaning tmUses copyCheck (fun i g => .copy (descOf g (xSlot i)) (descOf g (xSlot2 i)))) a) s

/-- TM.XPOSE rejects FP6, KB24, KB16 and block-scaled operands as formats (R181). -/
def xposeFmtBad (f : Nat) : Bool := fwBad f || fwBs f || fwElem f = 5 || fwElem f = 6 || fwElem f = 9 || fwElem f = 10

def xposeCheck (i : Iss) (g : Group) (l : CoreLaunch) : QueueCheck :=
  let a := descOf g (xSlot i)
  let b := descOf g (xSlot2 i)
  { illegal := fixedBad tmMask i || xSemBad i
    format := (xSlot i ≠ 0 && xposeFmtBad a.fmt) || (xSlot2 i ≠ 0 && xposeFmtBad b.fmt)
    operand := descBad g (xSlot i) false false || descBad g (xSlot2 i) false false || a.fmt ≠ b.fmt || b.global ||
      b.rows ≠ a.cols || b.cols ≠ a.rows || 1024 < a.rows || 1024 < a.cols
    slm := descOut l a || descOut l b }

def execTmXpose (a : At) (s : State) :=
  run (issue 8 1 (tmMeaning tmUses xposeCheck (fun i g => .xpose (descOf g (xSlot i)) (descOf g (xSlot2 i)))) a) s

/-- WATCH's conditions: KB formats are rejected (R480). -/
def watchCheck (i : Iss) (g : Group) (l : CoreLaunch) : QueueCheck :=
  let d := descOf g (xSlot i)
  { illegal := fixedBad (fm 45 3 + fm 36 6 + fm 29 5) i || xSemBad i
    format := xSlot i ≠ 0 && (fwBad d.fmt || fwElem d.fmt = 9 || fwElem d.fmt = 10)
    operand := descBad g (xSlot i) false false
    slm := descOut l d }

def execWatch (a : At) (s : State) :=
  run (issue 9 2 (tmMeaning (fun i => ⟨[], slotUse (xSlot i)⟩) watchCheck
    (fun i g => .watch (descOf g (xSlot i)) (xQ i))) a) s

/-! ### The mover's work -/

/-- Copies row r, and its scales (R180): the row is read wholly before it is written, its padding as zeros (R42). -/
def copyRow (n : Nat) (a b : TensorDesc) (r : Nat) (w : World) : World :=
  let x := readRow n a r w
  writeSpace true n b (dScaleAt b r) x.1.2 (writeSpace true n b (dRowAt b r) (zeroPad a x.1.1) x.2)

/-- What a copy to memory writes, range by range: each row of the source as it stands once the rows before it are
written (R180). -/
def copyParts (n : Nat) (a b : TensorDesc) (w : World) : List (Nat × Marked) × World :=
  let ctx := (launchOn w n).ctx
  let at? (va : Nat) : Option Nat := if a.global then vaRead w ctx va else none
  let see (done : Map (Byte × Bool)) (va : Nat) (m : Marked) : Marked := m.zipIdx.map (fun x =>
    ((at? (va + x.2)).bind (mget done)).getD x.1)
  let note (va : Nat) (m : Marked) (done : Map (Byte × Bool)) : Map (Byte × Bool) := m.zipIdx.foldl (fun d x =>
    match at? (va + x.2) with | some pa => mset d pa x.1 | none => d) done
  let r := iter a.rows (fun r (acc : (List (Nat × Marked) × Map (Byte × Bool)) × World) =>
    let x := readRow n a r acc.2
    let row := zeroPad a (see acc.1.2 (dRowAt a r) x.1.1)
    let sc := see acc.1.2 (dScaleAt a r) x.1.2
    ((acc.1.1 ++ (dRowAt b r, row) :: (if fwBs b.fmt then [(dScaleAt b r, sc)] else []),
      note (dScaleAt b r) sc (note (dRowAt b r) row acc.1.2)), x.2)) (([], []), w)
  (r.1.1, r.2)

/-- The bytes of row k of the transposed tensor, from the source's rows. -/
def xposeRow (a : TensorDesc) (rows : List Marked) (k : Nat) : Marked :=
  let wd := elemBits (fwFmt a.fmt)
  let codes := rows.map (fun m => packedElem wd (plain m) k)
  let bads := rows.map (fun m => ((m.drop (wd * k / 8)).take (max 1 (wd / 8))).any (·.2))
  ((packRow (fwFmt a.fmt) codes).zipIdx).map (fun x =>
    (x.1, ((bads.drop (8 * x.2 / wd)).take (max 1 (8 / wd))).any (·)))

/-- Transposes a tensor into SLM (R181). DESIGN CHOICE: the whole source is read before anything is written; where source and
destination overlap the spec says that the result depends on timing. -/
def xposeAll (n : Nat) (a b : TensorDesc) (w : World) : World :=
  let r := iter a.rows (fun i (acc : List Marked × World) =>
    let x := readSpace true n a (dRowAt a i) (dRowBytes a) acc.2
    (acc.1 ++ [x.1], x.2)) ([], w)
  iter a.cols (fun k w => writeSpace true n b (dRowAt b k) (xposeRow a r.1 k) w) r.2

/-- Presents a tensor to a Clove slot: its part (R480), with the key of R481. -/
def watchPart (n : Nat) (d : TensorDesc) (w : World) : ClovePart × World :=
  let key := if d.global then d.base else 2 ^ 57 + n * 2 ^ 32 + d.base
  iter d.rows (fun r (acc : ClovePart × World) =>
    let x := readRow n d r acc.2
    (cloveRow d (plain x.1.1) (plain x.1.2) acc.1, x.2)) (blankPart key d.fmt, w)

/-- Is a WATCH taken as a part: its slot is ARMED for the launch's context (R480)? -/
def watchTaken (w : World) (n k : Nat) : Bool :=
  (cloveOf w k).st = 1 && (cloveOf w k).ctx = (launchOn w n).ctx

/-- The mover's instruction signals its semaphore and leaves the mover. -/
def tmDone (n : Nat) (w : World) : World :=
  match (coreOf w n).tmRun with
  | none => w
  | some e => updCore n (fun c => semSignal e.sem { c with tmRun := none, tmLines := 0 }) w

/-- A drain that the group issued before a WATCH has not completed (R160). -/
def drainsOut (c : Core) (e : TmEntry) : Bool :=
  (c.mx.queue ++ c.mx.streams ++ c.mx.drainer.toList).any (fun x => x.slot = e.slot && x.number = e.number && x.before < e.before && (match x.op with
    | .mstream _ _ _ _ _ _ drain _ _ _ _ _ => drain
    | .mdrain _ _ _ _ _ _ _ _ => true
    | _ => false))

/-- May a mover instruction read: the launch's clears have ended (R166), and its group's earlier stores and atomics, for a
WATCH its drain writes too, have completed (R179, R160)? -/
def tmMayRead (c : Core) (e : TmEntry) : Bool :=
  !c.clearBusy && !(writesOut c e.slot e.number e.before) && !(slmWritesOut c e.slot e.number e.before) && (match e.op with
    | .watch _ _ => !(drainsOut c e)
    | _ => true)

/-- The lines of an instruction's global rows. -/
def tmLineCount (op : TmOp) : Nat :=
  let lines (d : TensorDesc) : Nat := ((tensorRanges d d.rows (dRowBytes d)).map (fun r => (linesOf r.1 r.2).length)).sum
  match op with
  | .copy a b => lines a + lines b
  | .xpose a b => lines a + lines b
  | .watch d _ => lines d

/-- The mover drops its running instruction, which has faulted and sends no further write (R124). -/
def moverGone (n : Nat) (w : World) : World := updCore n (fun c => { c with tmRun := none }) w

/-- Runs `go` once the ranges a copy reads and writes can be reached: the mover waits while a page is leaving or
off-loaded, or the partition's bucket holds one of its lines (R345); at a fault `part` moves the rows before it and the
launch traps (R124, R182). -/
def tmReach (n : Nat) (e : TmEntry) (rd wr : List (Nat × Nat)) (part : Nat → World → World) (go : World → World)
    (w : World) : World :=
  let l := launchOn w n
  let a := rangesState l.ctx false (some l.work) rd 0 w
  let b := rangesState l.ctx true (some l.work) wr 0 a.2
  match a.1.1, b.1.1 with
  | .ready, .ready =>
    if chipDown b.2 l.ctx (rd ++ wr) then kernelTrap n e.slot e.mask e.pc tMemFault (moverGone n b.2)
    else whenPaid n e.before e.paid (rd ++ wr) go b.2
  | .fault c lv, .fault d lw =>
    if a.1.2.2 ≤ b.1.2.2 then coreFault n e.slot e.mask e.pc c lv a.1.2.1 (moverGone n (part a.1.2.2 b.2))
    else coreFault n e.slot e.mask e.pc d lw b.1.2.1 (moverGone n (part b.1.2.2 b.2))
  | .fault c lv, .ready => coreFault n e.slot e.mask e.pc c lv a.1.2.1 (moverGone n (part a.1.2.2 b.2))
  | .ready, .fault c lv => coreFault n e.slot e.mask e.pc c lv b.1.2.1 (moverGone n (part b.1.2.2 b.2))
  | _, _ => b.2

/-- Rows before the i-th range of a tensor's ranges. -/
def rowsBefore (d : TensorDesc) (i : Nat) : Nat := if fwBs d.fmt then i / 2 else i

/-- TENSOR_MOVER_START: the instruction at the head of a core's mover queue runs. A WATCH of a slot that is not
ARMED for its context reads nothing and signals at once. It takes as many of the core's and the die's line requests as it
needs and are free (R244; DESIGN CHOICE: how many a mover keeps in flight is left open), and at least one. What goes to the SLM
is written now; a copy to memory has read its source and writes its rows until TENSOR_MOVER_COMPLETE. -/
def moverStart (n : Nat) (w : World) : World :=
  let c := coreOf w n
  match c.tmq, c.tmRun with
  | e :: rest, none =>
    let lines := tmLineCount e.op
    let begin (parts : List (Nat × Marked)) (w : World) : World := updCore n (fun c => { c with
      tmq := rest, tmRun := some { e with parts := parts, paid := 0 }
      tmLines := min lines (min (512 - coreLines c) (16384 - dieLines w n)) }) w
    let held := (lines ≠ 0 && trackerFull w n) || !(tmMayRead c e)
    (match e.op with
      | .watch d k =>
        if !(watchTaken w n k) then tmDone n (begin [] (cloveExtra k (launchOn w n).ctx w))
        else if held then w
        else tmReach n e (tensorRanges d d.rows (dRowBytes d)) [] (fun _ w => w) (begin []) w
      | .copy a b =>
        if held then w
        else
          let rows (k : Nat) (w : World) : World := iter k (fun r w => copyRow n a b r w) w
          tmReach n e (tensorRanges a a.rows (dRowBytes a)) []
            (fun i w => rows (rowsBefore a i) w)
            (fun w => if b.global then (let p := copyParts n a b w; begin p.1 p.2) else begin [] (rows a.rows w)) w
      | .xpose a b =>
        if held then w
        else tmReach n e (tensorRanges a a.rows (dRowBytes a)) [] (fun _ w => w)
          (fun w => begin [] (xposeAll n a b w)) w)
  | _, _ => w

def execTensorMoverStart (n : Nat) (s : State) := run (moverStart n) s

/-- TENSOR_MOVER_COMPLETE: the running instruction's last write is done, or Clove has taken its last element; it
signals (R182, R160). -/
def moverComplete (n : Nat) (w : World) : World :=
  match (coreOf w n).tmRun with
  | none => w
  | some e =>
    (match e.op with
      | .watch d k =>
        let s := rangesState (launchOn w n).ctx false (some (launchOn w n).work) (tensorRanges d d.rows (dRowBytes d)) 0 w
        (match s.1.1 with
          | .waits => s.2
          | .fault c lv => coreFault n e.slot e.mask e.pc c lv s.1.2.1 (moverGone n s.2)
          | .ready =>
            let r := watchPart n d s.2
            let take := watchTaken r.2 n k
            let w := tmDone n r.2
            if take then takePart k r.1 w else cloveExtra k (launchOn w n).ctx w)
      | .copy _ b =>
        let put (k : Nat) (w : World) : World :=
          (e.parts.take k).foldl (fun w p => writeSpace true n b p.1 p.2 w) w
        tmReach n e [] (e.parts.map (fun p => (p.1, p.2.length))) put (fun w => tmDone n (put e.parts.length w)) w
      | _ => tmDone n w)

def execTensorMoverComplete (n : Nat) (s : State) := run (moverComplete n) s

/-! ### A stopping core (R124) -/

/-- The writes of a stopped instruction, in order, each as its address and bytes. -/
def cutParts : Cut → List (Nat × Marked)
  | .rows d start rows => ((rows.zipIdx).drop start).map (fun x => (dRowAt d x.2, x.1.map (·, false)))
  | .parts ps => ps

/-- Writes the first `k` bytes of a list of parts, as far as their pages are there. -/
def writeFirst (n : Nat) : List (Nat × Marked) → Nat → World → World
  | [], _, w => w
  | p :: ps, k, w =>
    let m := p.2.take k
    let ctx := (launchOn w n).ctx
    if m.isEmpty then w
    else if (rangeState ctx p.1 m.length true none w).1.1 ≠ .ready then w
    else writeFirst n ps (k - m.length) (writeGlobal false n ctx p.1 m (chargeRange n p.1 m.length w))

/-- How many bytes of a stopped drain or copy had been sent the spec leaves to timing: a free number of them, in order, is
written. -/
def cutWrites (n : Nat) (w : World) : World :=
  forAll (coreOf w n).cut (fun k w =>
    let ps := cutParts k
    writeFirst n ps (freeVal w % ((ps.map (fun x => x.2.length)).sum + 1)) (freeUsed w)) (updCore n (fun c => { c with cut := [] }) w)

/-- CORE_STOPPED (R124 steps 3 and 4): a core of a stopped launch stops, the writes it had sent
complete, and it reports once its stores and atomics have completed. -/
def coreStopped (n : Nat) (w : World) : World :=
  match w.fe.launches.find? (fun p => p.2.cores.contains n && p.2.stop ≠ none && !(p.2.halted.contains n)) with
  | none => w
  | some (part, _) =>
    let w := if (coreOf w n).stopped then w else updCore n stopCore w
    let w := cutWrites n w
    if (coreOf w n).accs.isEmpty then updLaunch part (fun l => { l with halted := l.halted ++ [n] }) w else w

def execCoreStopped (n : Nat) (s : State) := run (coreStopped n) s

end Sys2Proof.Machine
end

