-- ==== Sys2Proof/Machine/Dispatch.lean ====
section
/-!
DEFINITION. The dispatch of a command to its meaning: one arm per row of the operations table.
-/
namespace Sys2Proof.Machine

def exec (i : Instr) (s : State) : Host.Outcome State Fault Refusal :=
  match i with
  | .registerWrite agent off size v => Sys2Proof.Machine.execRegisterWrite agent off size v s
  | .unmappedAccess off size => Sys2Proof.Machine.execUnmappedAccess off size s
  | .messageDelivery src => Sys2Proof.Machine.execMessageDelivery src s
  | .ringEntryAcknowledged r => Sys2Proof.Machine.execRingEntryAcknowledged r s
  | .ringTailAcknowledged r => Sys2Proof.Machine.execRingTailAcknowledged r s
  | .ringEnable n v => Sys2Proof.Machine.execRingEnable n v s
  | .ringDisable n v => Sys2Proof.Machine.execRingDisable n v s
  | .ccNqHeadWrite n v => Sys2Proof.Machine.execCcNqHeadWrite n v s
  | .hnRingEnable n v readable => Sys2Proof.Machine.execHnRingEnable n v readable s
  | .hnRingDisable n v => Sys2Proof.Machine.execHnRingDisable n v s
  | .feHnHeadWrite n v => Sys2Proof.Machine.execFeHnHeadWrite n v s
  | .groupPlace p n => Sys2Proof.Machine.execGroupPlace p n s
  | .iadd a => Sys2Proof.Machine.execIadd a s
  | .isub a => Sys2Proof.Machine.execIsub a s
  | .imul a => Sys2Proof.Machine.execImul a s
  | .imulhiU a => Sys2Proof.Machine.execImulhiU a s
  | .imulhiS a => Sys2Proof.Machine.execImulhiS a s
  | .imad a => Sys2Proof.Machine.execImad a s
  | .iminS a => Sys2Proof.Machine.execIminS a s
  | .iminU a => Sys2Proof.Machine.execIminU a s
  | .imaxS a => Sys2Proof.Machine.execImaxS a s
  | .imaxU a => Sys2Proof.Machine.execImaxU a s
  | .and a => Sys2Proof.Machine.execAnd a s
  | .or a => Sys2Proof.Machine.execOr a s
  | .xor a => Sys2Proof.Machine.execXor a s
  | .shl a => Sys2Proof.Machine.execShl a s
  | .shr a => Sys2Proof.Machine.execShr a s
  | .sar a => Sys2Proof.Machine.execSar a s
  | .bfeU a => Sys2Proof.Machine.execBfeU a s
  | .bfeS a => Sys2Proof.Machine.execBfeS a s
  | .bfi a => Sys2Proof.Machine.execBfi a s
  | .popc a => Sys2Proof.Machine.execPopc a s
  | .clz a => Sys2Proof.Machine.execClz a s
  | .brev a => Sys2Proof.Machine.execBrev a s
  | .mov a => Sys2Proof.Machine.execMov a s
  | .sel a => Sys2Proof.Machine.execSel a s
  | .isetp a => Sys2Proof.Machine.execIsetp a s
  | .pset a => Sys2Proof.Machine.execPset a s
  | .iadd64 a => Sys2Proof.Machine.execIadd64 a s
  | .shfl a => Sys2Proof.Machine.execShfl a s
  | .vote a => Sys2Proof.Machine.execVote a s
  | .readlane a => Sys2Proof.Machine.execReadlane a s
  | .fadd a => Sys2Proof.Machine.execFadd a s
  | .fmul a => Sys2Proof.Machine.execFmul a s
  | .ffma a => Sys2Proof.Machine.execFfma a s
  | .fmin a => Sys2Proof.Machine.execFmin a s
  | .fmax a => Sys2Proof.Machine.execFmax a s
  | .fsetp a => Sys2Proof.Machine.execFsetp a s
  | .rcp a => Sys2Proof.Machine.execRcp a s
  | .rsq a => Sys2Proof.Machine.execRsq a s
  | .sqrt a => Sys2Proof.Machine.execSqrt a s
  | .ex2 a => Sys2Proof.Machine.execEx2 a s
  | .lg2 a => Sys2Proof.Machine.execLg2 a s
  | .vdot a => Sys2Proof.Machine.execVdot a s
  | .vdotZ a => Sys2Proof.Machine.execVdotZ a s
  | .cvt a => Sys2Proof.Machine.execCvt a s
  | .cvtF2s a => Sys2Proof.Machine.execCvtF2s a s
  | .cvtF2u a => Sys2Proof.Machine.execCvtF2u a s
  | .cvtS2f a => Sys2Proof.Machine.execCvtS2f a s
  | .cvtU2f a => Sys2Proof.Machine.execCvtU2f a s
  | .cvtB16e a => Sys2Proof.Machine.execCvtB16e a s
  | .cvtB16f a => Sys2Proof.Machine.execCvtB16f a s
  | .cvtB32e a => Sys2Proof.Machine.execCvtB32e a s
  | .cvtB32f a => Sys2Proof.Machine.execCvtB32f a s
  | .cvtKbe a => Sys2Proof.Machine.execCvtKbe a s
  | .cvtKbd a => Sys2Proof.Machine.execCvtKbd a s
  | .ld a => Sys2Proof.Machine.execLd a s
  | .st a => Sys2Proof.Machine.execSt a s
  | .ldu a => Sys2Proof.Machine.execLdu a s
  | .atomAdd a => Sys2Proof.Machine.execAtomAdd a s
  | .atomMin a => Sys2Proof.Machine.execAtomMin a s
  | .atomMax a => Sys2Proof.Machine.execAtomMax a s
  | .atomAnd a => Sys2Proof.Machine.execAtomAnd a s
  | .atomOr a => Sys2Proof.Machine.execAtomOr a s
  | .atomXor a => Sys2Proof.Machine.execAtomXor a s
  | .atomExch a => Sys2Proof.Machine.execAtomExch a s
  | .atomCas a => Sys2Proof.Machine.execAtomCas a s
  | .semSig a => Sys2Proof.Machine.execSemSig a s
  | .semWait a => Sys2Proof.Machine.execSemWait a s
  | .semRd a => Sys2Proof.Machine.execSemRd a s
  | .barArv a => Sys2Proof.Machine.execBarArv a s
  | .bra a => Sys2Proof.Machine.execBra a s
  | .brx a => Sys2Proof.Machine.execBrx a s
  | .call a => Sys2Proof.Machine.execCall a s
  | .exitThreads a => Sys2Proof.Machine.execExit a s
  | .gjoin a => Sys2Proof.Machine.execGjoin a s
  | .yield a => Sys2Proof.Machine.execYield a s
  | .brk a => Sys2Proof.Machine.execBrk a s
  | .nop a => Sys2Proof.Machine.execNop a s
  | .mload a => Sys2Proof.Machine.execMload a s
  | .mswap a => Sys2Proof.Machine.execMswap a s
  | .mstream a => Sys2Proof.Machine.execMstream a s
  | .mdrain a => Sys2Proof.Machine.execMdrain a s
  | .accRd a => Sys2Proof.Machine.execAccRd a s
  | .accWr a => Sys2Proof.Machine.execAccWr a s
  | .tmCopy a => Sys2Proof.Machine.execTmCopy a s
  | .tmXpose a => Sys2Proof.Machine.execTmXpose a s
  | .ftRd a => Sys2Proof.Machine.execFtRd a s
  | .ftWait a => Sys2Proof.Machine.execFtWait a s
  | .ftWaitRelease n => Sys2Proof.Machine.execFtWaitRelease n s
  | .watch a => Sys2Proof.Machine.execWatch a s
  | .fencePub a => Sys2Proof.Machine.execFencePub a s
  | .cacheInv a => Sys2Proof.Machine.execCacheInv a s
  | .coreStopped n => Sys2Proof.Machine.execCoreStopped n s
  | .quarterGate n q cycles => Sys2Proof.Machine.execQuarterGate n q cycles s
  | .slmGrant n cycles => Sys2Proof.Machine.execSlmGrant n cycles s
  | .memoryAccessCheck n id => Sys2Proof.Machine.execMemoryAccessCheck n id s
  | .tableWalkComplete n id => Sys2Proof.Machine.execTableWalkComplete n id s
  | .loadReturn n id => Sys2Proof.Machine.execLoadReturn n id s
  | .writeAcknowledge n id => Sys2Proof.Machine.execWriteAcknowledge n id s
  | .sliceLineRequest n id line victim => Sys2Proof.Machine.execSliceLineRequest n id line victim s
  | .hbmRunComplete line => Sys2Proof.Machine.execHbmRunComplete line s
  | .agePromote line => Sys2Proof.Machine.execAgePromote line s
  | .sliceInvalidateComplete slice => Sys2Proof.Machine.execSliceInvalidateComplete slice s
  | .systemCacheInvalidateComplete => Sys2Proof.Machine.execSystemCacheInvalidateComplete s
  | .tlbInvalidateConfirmed => Sys2Proof.Machine.execTlbInvalidateConfirmed s
  | .pageClearComplete frame => Sys2Proof.Machine.execPageClearComplete frame s
  | .thermalRead stack temp => Sys2Proof.Machine.execThermalRead stack temp s
  | .matrixDispatch n bubble => Sys2Proof.Machine.execMatrixDispatch n bubble s
  | .mloadComplete n => Sys2Proof.Machine.execMloadComplete n s
  | .mstreamComplete n stall => Sys2Proof.Machine.execMstreamComplete n stall s
  | .drainDestinationReadReturn n => Sys2Proof.Machine.execDrainDestinationReadReturn n s
  | .mdrainComplete n => Sys2Proof.Machine.execMdrainComplete n s
  | .launchClearComplete n => Sys2Proof.Machine.execLaunchClearComplete n s
  | .tensorMoverStart n => Sys2Proof.Machine.execTensorMoverStart n s
  | .tensorMoverComplete n => Sys2Proof.Machine.execTensorMoverComplete n s
  | .offload k => Sys2Proof.Machine.execOffload k s
  | .offloadAcknowledged => Sys2Proof.Machine.execOffloadAcknowledged s
  | .prefetch k => Sys2Proof.Machine.execPrefetch k s
  | .prefetchPageMapped => Sys2Proof.Machine.execPrefetchPageMapped s
  | .casDiscard k => Sys2Proof.Machine.execDiscard k s
  | .pageInComplete => Sys2Proof.Machine.execPageInComplete s
  | .safUpdate k => Sys2Proof.Machine.execUpdate k s
  | .factorLoad k => Sys2Proof.Machine.execFactorLoad k s
  | .progLoad k => Sys2Proof.Machine.execProgLoad k s
  | .recordUpdate u k n => Sys2Proof.Machine.execRecordUpdate u k n s
  | .factorLoadCopyComplete u k => Sys2Proof.Machine.execFactorLoadCopyComplete u k s
  | .saffronCommandComplete k => Sys2Proof.Machine.execSaffronCommandComplete k s
  | .mapObject k => Sys2Proof.Machine.execMap k s
  | .mapResume k => Sys2Proof.Machine.execMapResume k s
  | .unmapObject k => Sys2Proof.Machine.execUnmap k s
  | .aliasObject k => Sys2Proof.Machine.execAlias k s
  | .modelReg k => Sys2Proof.Machine.execModelReg k s
  | .modelDereg k => Sys2Proof.Machine.execModelDereg k s
  | .modelPin k => Sys2Proof.Machine.execModelPin k s
  | .modelUnpin k => Sys2Proof.Machine.execModelUnpin k s
  | .modelHot k => Sys2Proof.Machine.execModelHot k s
  | .promotionPageLanded k => Sys2Proof.Machine.execPromotionPageLanded k s
  | .evictionComplete k => Sys2Proof.Machine.execEvictionComplete k s
  | .hartLoad h pa n pbmt mmode fetch => Sys2Proof.Machine.execHartLoad h pa n pbmt mmode fetch s
  | .hartStore h pa n v pbmt ntl mmode => Sys2Proof.Machine.execHartStore h pa n v pbmt ntl mmode s
  | .hartAmo h pa op n v cmp pbmt rl mmode => Sys2Proof.Machine.execHartAmo h pa op n v cmp pbmt rl mmode s
  | .lr h pa n pbmt rl mmode => Sys2Proof.Machine.execLr h pa n pbmt rl mmode s
  | .sc h pa n v pbmt rl mmode => Sys2Proof.Machine.execSc h pa n v pbmt rl mmode s
  | .fence h pred succ => Sys2Proof.Machine.execFence h pred succ s
  | .fenceI h => Sys2Proof.Machine.execFenceI h s
  | .cboZero h pa pbmt mmode => Sys2Proof.Machine.execCboZero h pa pbmt mmode s
  | .wrsNto h => Sys2Proof.Machine.execWrsNto h s
  | .wrsSto h => Sys2Proof.Machine.execWrsSto h s
  | .wrsTimeout h => Sys2Proof.Machine.execWrsTimeout h s
  | .hartTrapEntry h cause => Sys2Proof.Machine.execHartTrapEntry h cause s
  | .storeBufferDrain h => Sys2Proof.Machine.execStoreBufferDrain h s
  | .combiningIdleTimeout h block => Sys2Proof.Machine.execCombiningIdleTimeout h block s
  | .reservationHoldExpiry h => Sys2Proof.Machine.execReservationHoldExpiry h s
  | .hartPowerdownAck h => Sys2Proof.Machine.execHartPowerdownAck h s
  | .handshakeTimeout d => Sys2Proof.Machine.execHandshakeTimeout d s
  | .doorbell q v whole => Sys2Proof.Machine.execDoorbell q v whole s
  | .entryFetch q n => Sys2Proof.Machine.execEntryFetch q n s
  | .entryRelease q => Sys2Proof.Machine.execEntryRelease q s
  | .entryComplete k => Sys2Proof.Machine.execEntryComplete k s
  | .entryTimeout k => Sys2Proof.Machine.execEntryTimeout k s
  | .entryNop k => Sys2Proof.Machine.execEntryNop k s
  | .launch k => Sys2Proof.Machine.execLaunch k s
  | .waitEntry k => Sys2Proof.Machine.execWait k s
  | .waitFrameTimeReached k => Sys2Proof.Machine.execWaitFrameTimeReached k s
  | .chip k tag => Sys2Proof.Machine.execChip k tag s
  | .graphRun k => Sys2Proof.Machine.execGraphRun k s
  | .graphCreate k => Sys2Proof.Machine.execGraphCreate k s
  | .graphPatch k => Sys2Proof.Machine.execGraphPatch k s
  | .graphDestroy k => Sys2Proof.Machine.execGraphDestroy k s
  | .slotMap q slot => Sys2Proof.Machine.execSlotMap q slot s
  | .preload p k => Sys2Proof.Machine.execPreload p k s
  | .preloadComplete p => Sys2Proof.Machine.execPreloadComplete p s
  | .launchStart p => Sys2Proof.Machine.execLaunchStart p s
  | .launchComplete p => Sys2Proof.Machine.execLaunchComplete p s
  | .epochMove u => Sys2Proof.Machine.execEpochMove u s
  | .queueEnable q => Sys2Proof.Machine.execQueueEnable q s
  | .queueDisable q => Sys2Proof.Machine.execQueueDisable q s
  | .queueDestroy q => Sys2Proof.Machine.execQueueDestroy q s
  | .destroyQuiesced q => Sys2Proof.Machine.execDestroyQuiesced q s
  | .ctxCreate cc => Sys2Proof.Machine.execCreate cc s
  | .ctxKill => Sys2Proof.Machine.execKill s
  | .ctxDestroy => Sys2Proof.Machine.execDestroy s
  | .contextDestroyComplete ctx => Sys2Proof.Machine.execContextDestroyComplete ctx s
  | .memcmd => Sys2Proof.Machine.execMemcmd s
  | .mapIo => Sys2Proof.Machine.execMapIo s
  | .subscribe => Sys2Proof.Machine.execSubscribe s
  | .unsubscribe => Sys2Proof.Machine.execUnsubscribe s
  | .feCtxFlagsClear v => Sys2Proof.Machine.execFeCtxFlagsClear v s
  | .objectFree id => Sys2Proof.Machine.execObjectFree id s
  | .functionLevelReset => Sys2Proof.Machine.execFunctionLevelReset s
  | .bucketRefill => Sys2Proof.Machine.execBucketRefill s
  | .swapOutComplete ctx => Sys2Proof.Machine.execSwapOutComplete ctx s
  | .swapInComplete ctx => Sys2Proof.Machine.execSwapInComplete ctx s
  | .launchSaved p => Sys2Proof.Machine.execLaunchSaved p s
  | .restoreComplete p => Sys2Proof.Machine.execRestoreComplete p s
  | .stepRelease k => Sys2Proof.Machine.execStepRelease k s
  | .meridianEvaluation k => Sys2Proof.Machine.execMeridianEvaluation k s
  | .ptpEventMessage completes ns => Sys2Proof.Machine.execPtpEventMessage completes ns s
  | .analogFrameStart period lines => Sys2Proof.Machine.execAnalogFrameStart period lines s
  | .ftbLossTimeout => Sys2Proof.Machine.execFtbLossTimeout s
  | .resync => Sys2Proof.Machine.execResync s
  | .ftbAlignArm frame => Sys2Proof.Machine.execFtbAlignArm frame s
  | .barrierContribution part idx => Sys2Proof.Machine.execBarrierContribution part idx s
  | .barrierRelease n b => Sys2Proof.Machine.execBarrierRelease n b s
  | .nbgArrive port d => Sys2Proof.Machine.execArrive port d s
  | .nbgRelease port d => Sys2Proof.Machine.execRelease port d s
  | .arriveResend g b => Sys2Proof.Machine.execArriveResend g b s
  | .nbgEnable g => Sys2Proof.Machine.execNbgEnable g s
  | .laneFailure port lane => Sys2Proof.Machine.execLaneFailure port lane s
  | .linkUp p => Sys2Proof.Machine.execLinkUp p s
  | .linkDown p => Sys2Proof.Machine.execLinkDown p s
  | .receiveFrame port data => Sys2Proof.Machine.execReceiveFrame port data s
  | .transmitFrame port => Sys2Proof.Machine.execTransmitFrame port s
  | .nodeTableEnable v => Sys2Proof.Machine.execNodeTableEnable v s
  | .connectionInstall v => Sys2Proof.Machine.execConnectionInstall v s
  | .connectionReset v => Sys2Proof.Machine.execConnectionReset v s
  | .regionEnable v => Sys2Proof.Machine.execRegionEnable v s
  | .regionDisable v => Sys2Proof.Machine.execRegionDisable v s
  | .rdmaWriteRequest qpn psn op rkey off len rank first last ce notify imm data poison => Sys2Proof.Machine.execRdmaWriteRequest qpn psn op rkey off len rank first last ce notify imm data poison s
  | .rdmaReadRequest qpn psn rkey off len ce => Sys2Proof.Machine.execRdmaReadRequest qpn psn rkey off len ce s
  | .rdmaReadResponse qpn psn ce data => Sys2Proof.Machine.execRdmaReadResponse qpn psn ce data s
  | .roceAck qpn psn ce => Sys2Proof.Machine.execRoceAck qpn psn ce s
  | .roceNak qpn psn code ce => Sys2Proof.Machine.execRoceNak qpn psn code ce s
  | .ackTimeout conn => Sys2Proof.Machine.execAckTimeout conn s
  | .rnrRetryTimer conn => Sys2Proof.Machine.execRnrRetryTimer conn s
  | .cnpReceived qpn => Sys2Proof.Machine.execCnpReceived qpn s
  | .rateIncreaseTimer conn => Sys2Proof.Machine.execRateIncreaseTimer conn s
  | .netWrite k n => Sys2Proof.Machine.execWrite k n s
  | .netRead k => Sys2Proof.Machine.execRead k s
  | .rwrite k n => Sys2Proof.Machine.execRwrite k n s
  | .mirror k n held => Sys2Proof.Machine.execMirror k n held s
  | .digest k => Sys2Proof.Machine.execDigest k s
  | .refill k n => Sys2Proof.Machine.execRefill k n s
  | .hello seq gen node mac serial cap size inst twinRole seen => Sys2Proof.Machine.execHello seq gen node mac serial cap size inst twinRole seen s
  | .helloTimer => Sys2Proof.Machine.execHelloTimer s
  | .heartbeat seq => Sys2Proof.Machine.execHeartbeat seq s
  | .heartbeatTimer => Sys2Proof.Machine.execHeartbeatTimer s
  | .journal seq lo hi pairs => Sys2Proof.Machine.execJournal seq lo hi pairs s
  | .journalSweep => Sys2Proof.Machine.execJournalSweep s
  | .shardBegin seq shard copy len => Sys2Proof.Machine.execShardBegin seq shard copy len s
  | .shardEnd seq shard copy => Sys2Proof.Machine.execShardEnd seq shard copy s
  | .digestReceived seq slot tag record => Sys2Proof.Machine.execDigestReceived seq slot tag record s
  | .digestResult seq slot tag result => Sys2Proof.Machine.execDigestResult seq slot tag result s
  | .digestHoldExpiry => Sys2Proof.Machine.execDigestHoldExpiry s
  | .detach seq => Sys2Proof.Machine.execDetach seq s
  | .commandedDetach => Sys2Proof.Machine.execCommandedDetach s
  | .twinLoss => Sys2Proof.Machine.execTwinLoss s
  | .pairingTimeout => Sys2Proof.Machine.execPairingTimeout s
  | .adapterRetry l n ok => Sys2Proof.Machine.execAdapterRetry l n ok s
  | .finovRd l flits => Sys2Proof.Machine.execRd l flits s
  | .finovWr l flits => Sys2Proof.Machine.execWr l flits s
  | .finovWrp l flits => Sys2Proof.Machine.execWrp l flits s
  | .finovAtom l op ty v cmp flits => Sys2Proof.Machine.execAtom l op ty v cmp flits s
  | .finovData l flits => Sys2Proof.Machine.execData l flits s
  | .finovAck l flits => Sys2Proof.Machine.execAck l flits s
  | .atomRsp l flits => Sys2Proof.Machine.execAtomRsp l flits s
  | .fwdS l h flits => Sys2Proof.Machine.execFwdS l h flits s
  | .fwdI l h flits => Sys2Proof.Machine.execFwdI l h flits s
  | .finovInv l h flits => Sys2Proof.Machine.execInv l h flits s
  | .cack l flits => Sys2Proof.Machine.execCack l flits s
  | .cdata l flits => Sys2Proof.Machine.execCdata l flits s
  | .finovMsg l flits => Sys2Proof.Machine.execMsg l flits s
  | .regRd l dbg flits => Sys2Proof.Machine.execRegRd l dbg flits s
  | .regWr l dbg flits => Sys2Proof.Machine.execRegWr l dbg flits s
  | .regRsp l dbg flits => Sys2Proof.Machine.execRegRsp l dbg flits s
  | .chipletLinkActive => Sys2Proof.Machine.execChipletLinkActive s
  | .chipCap flits => Sys2Proof.Machine.execCap flits s
  | .capTimeout => Sys2Proof.Machine.execCapTimeout s
  | .chipCmd tag fields => Sys2Proof.Machine.execCmd tag fields s
  | .chipAbort tag => Sys2Proof.Machine.execAbort tag s
  | .chipDone flits => Sys2Proof.Machine.execDone flits s
  | .abortTimeout tag => Sys2Proof.Machine.execAbortTimeout tag s
  | .chipletIsolate => Sys2Proof.Machine.execChipletIsolate s
  | .chipletRenegotiate => Sys2Proof.Machine.execChipletRenegotiate s
  | .chipDecode tag frame data => Sys2Proof.Machine.execDecode tag frame data s
  | .sdiFrame tag out => Sys2Proof.Machine.execSdiFrame tag out s
  | .pwrAuthWrite agent v => Sys2Proof.Machine.execPwrAuthWrite agent v s
  | .pcieLinkDownFallback => Sys2Proof.Machine.execPcieLinkDownFallback s
  | .deniedWrite agent off => Sys2Proof.Machine.execDeniedWrite agent off s
  | .pcuSample temps amps mv gated => Sys2Proof.Machine.execPcuSample temps amps mv gated s
  | .domainOn agent d => Sys2Proof.Machine.execDomainOn agent d s
  | .domainOff agent d => Sys2Proof.Machine.execDomainOff agent d s
  | .domainStartupComplete d => Sys2Proof.Machine.execDomainStartupComplete d s
  | .domainShutdownComplete d => Sys2Proof.Machine.execDomainShutdownComplete d s
  | .setOp agent mask mhz => Sys2Proof.Machine.execSetOp agent mask mhz s
  | .setFsp agent point => Sys2Proof.Machine.execSetFsp agent point s
  | .pllRelockComplete d => Sys2Proof.Machine.execPllRelockComplete d s
  | .selfRefreshExit => Sys2Proof.Machine.execSelfRefreshExit s
  | .shutdown agent kib => Sys2Proof.Machine.execShutdown agent kib s
  | .shutdownSelfTestComplete found cleared => Sys2Proof.Machine.execShutdownSelfTestComplete found cleared s
  | .hartRestart agent h => Sys2Proof.Machine.execHartRestart agent h s
  | .hartReset agent h => Sys2Proof.Machine.execHartReset agent h s
  | .powerGood => Sys2Proof.Machine.execPowerGood s
  | .romComplete => Sys2Proof.Machine.execRomComplete s
  | .bootFetch => Sys2Proof.Machine.execFetch s
  | .fetchComplete ok => Sys2Proof.Machine.execFetchComplete ok s
  | .skipRecord => Sys2Proof.Machine.execSkipRecord s
  | .trainingComplete u ok => Sys2Proof.Machine.execTrainingComplete u ok s
  | .bootCheckComplete found => Sys2Proof.Machine.execBootCheckComplete found s
  | .bootSelfTestComplete found => Sys2Proof.Machine.execBootSelfTestComplete found s
  | .applyComplete => Sys2Proof.Machine.execApplyComplete s
  | .quiesce agent => Sys2Proof.Machine.execQuiesce agent s
  | .statusReq src object seq => Sys2Proof.Machine.execStatusReq src object seq s
  | .bootPut src object seq off data => Sys2Proof.Machine.execPut src object seq off data s
  | .bootCommit src object seq len => Sys2Proof.Machine.execCommit src object seq len s
  | .responderBindingTimeout => Sys2Proof.Machine.execResponderBindingTimeout s
  | .correctedError site unit row addr pages => Sys2Proof.Machine.execCorrectedError site unit row addr pages s
  | .uncorrectableError site unit addr => Sys2Proof.Machine.execUncorrectableError site unit addr s
  | .spareSignatureTestComplete c ok => Sys2Proof.Machine.execSpareSignatureTestComplete c ok s
  | .pageReloadComplete => Sys2Proof.Machine.execPageReloadComplete s
  | .fatalReset agent => Sys2Proof.Machine.execFatalReset agent s
  | .rasLogSelWrite v => Sys2Proof.Machine.execRasLogSelWrite v s
  | .returnAuthorisation auth => Sys2Proof.Machine.execReturnAuthorisation auth s
  | .snapshotCapture => Sys2Proof.Machine.execSnapshotCapture s
  | .snapshotArm v => Sys2Proof.Machine.execSnapshotArm v s
  | .snapshotKeyReached => Sys2Proof.Machine.execSnapshotKeyReached s
  | .cloveArm => Sys2Proof.Machine.execArm s
  | .cloveClose => Sys2Proof.Machine.execClose s
  | .cloveDisarm => Sys2Proof.Machine.execDisarm s
  | .starBuild mask freeze => Sys2Proof.Machine.execBuild mask freeze s
  | .starchartBuildComplete => Sys2Proof.Machine.execStarchartBuildComplete s
  | .pwrEnRise => Sys2Proof.Machine.execPwrEnRise s
  | .pwrEnFall => Sys2Proof.Machine.execPwrEnFall s
  | .modRstNAssert => Sys2Proof.Machine.execModRstNAssert s
  | .modRstNRelease => Sys2Proof.Machine.execModRstNRelease s
  | .perstNAssert => Sys2Proof.Machine.execPerstNAssert s
  | .perstNRelease => Sys2Proof.Machine.execPerstNRelease s
  | .housekeepingUp slot => Sys2Proof.Machine.execHousekeepingUp slot s
  | .inputUndervoltage => Sys2Proof.Machine.execInputUndervoltage s
  | .railOvercurrent => Sys2Proof.Machine.execRailOvercurrent s
  | .railOvervoltage => Sys2Proof.Machine.execRailOvervoltage s
  | .stageOverTemperature => Sys2Proof.Machine.execStageOverTemperature s
  | .stageMeasurement mv ma watts temp => Sys2Proof.Machine.execStageMeasurement mv ma watts temp s
  | .coolantSample inlet outlet => Sys2Proof.Machine.execCoolantSample inlet outlet s
  | .elsfpLightLoss k => Sys2Proof.Machine.execElsfpLightLoss k s
  | .setEndpointId eid => Sys2Proof.Machine.execSetEndpointId eid s
  | .getEndpointId => Sys2Proof.Machine.execGetEndpointId s
  | .getMctpVersionSupport typ => Sys2Proof.Machine.execGetMctpVersionSupport typ s
  | .getMessageTypeSupport => Sys2Proof.Machine.execGetMessageTypeSupport s
  | .getTid => Sys2Proof.Machine.execGetTid s
  | .getPldmVersion typ => Sys2Proof.Machine.execGetPldmVersion typ s
  | .getPldmTypes => Sys2Proof.Machine.execGetPldmTypes s
  | .getPldmCommands typ => Sys2Proof.Machine.execGetPldmCommands typ s
  | .getSensorReading id => Sys2Proof.Machine.execGetSensorReading id s
  | .getVersion => Sys2Proof.Machine.execGetVersion s
  | .getCapabilities => Sys2Proof.Machine.execGetCapabilities s
  | .negotiateAlgorithms => Sys2Proof.Machine.execNegotiateAlgorithms s
  | .getDigests => Sys2Proof.Machine.execGetDigests s
  | .getCertificate slot => Sys2Proof.Machine.execGetCertificate slot s
  | .challenge nonce => Sys2Proof.Machine.execChallenge nonce s
  | .getMeasurements index => Sys2Proof.Machine.execGetMeasurements index s
  | .keyExchange => Sys2Proof.Machine.execKeyExchange s
  | .spdmFinish => Sys2Proof.Machine.execFinish s
  | .endSession => Sys2Proof.Machine.execEndSession s
  | .pcieInboundAccess pa n tag write data => Sys2Proof.Machine.execPcieInboundAccess pa n tag write data s
  | .pcieLinkStateChange up => Sys2Proof.Machine.execPcieLinkStateChange up s
  | .minRunElapsed p => Sys2Proof.Machine.execMinRunElapsed p s
  | .machineTimer h => Sys2Proof.Machine.execMachineTimer h s
  | .registerReadCapture off size tag => Sys2Proof.Machine.execRegisterReadCapture off size tag s
  | .tripNRelease => Sys2Proof.Machine.execTripNRelease s
  | .elsfpLightReturn k => Sys2Proof.Machine.execElsfpLightReturn k s
  | .voltageRampComplete d => Sys2Proof.Machine.execVoltageRampComplete d s
  | .unsupportedRequest qpn psn bytes ce => Sys2Proof.Machine.execUnsupportedRequest qpn psn bytes ce s
  | .pdrRepositoryRequest rec_ => Sys2Proof.Machine.execPdrRepositoryRequest rec_ s
  | .fruDataRequest => Sys2Proof.Machine.execFruDataRequest s

end Sys2Proof.Machine
end

