-- ==== Sys2Proof/Safety.lean ====
section
/-!
DEFINITION. The terms in which statements about the block are made: that a command completes, which kernel
instruction a quarter issues and whether anything stops it there, and what a step of a kernel leaves as it was.
-/
namespace Sys2Proof.Machine

/-- A command completes in a state: it answers a next state with the same commands waiting, of which `E` holds. -/
def Completes (c : Instr) (s : State) (E : World → Prop) : Prop :=
  ∃ t, exec c s = .next t ∧ t.pending = s.pending ∧ E t.w

/-- The instruction a quarter issues next (R113 to R117, R132 to R135): the group R113 chooses, the path R117 chooses,
and its words as fetched. -/
def issued (a : At) (w : World) : Option Iss :=
  if coreIssues w a.core && decide (a.quarter < 4) then
    match chooseSlot w a with
    | none => none
    | some s =>
      let slot := 16 * a.quarter + s
      let g := groupOf w a.core slot
      match choosePath g (readyPaths (pathBlocked w a.core slot) g a.lanes) with
      | none => none
      | some ((pc, path), _) =>
        match fetchWord w (coreOf w a.core) (launchOn w a.core).ctx pc with
        | .word w1 =>
          if bit w1 53 then
            match fetchWord w (coreOf w a.core) (launchOn w a.core).ctx (pc + 8) with
            | .word w2 => some ⟨a.core, slot, pc, path, guardLanes g w1 path, w1, w2⟩
            | _ => none
          else some ⟨a.core, slot, pc, path, guardLanes g w1 path, w1, 0⟩
        | _ => none
  else none

/-- Nothing outside an instruction's own conditions stops it: its header is legal (R132 to R134), its registers are
within the limits of R109 and R130, none of them waits for an earlier result (R115), and it reads no poisoned word of its
core (R469). -/
def unhindered (us : Uses) (i : Iss) (w : World) : Bool :=
  !(headerBad i.w1 i.w2) && !(us.u.any (fun x => 63 < x.1)) && !(usesBad (launchOn w i.core).regs us) &&
    !(regsBusy (coreOf w i.core) i.slot us) && (markRead (coreOf w i.core) i).isNone

/-- Where an instruction ends: the program counter after its words. -/
def nextPc (i : Iss) : Nat := i.pc + if fLong i then 16 else 8

/-- The threads of a group after an issue that transfers no control: the path's lanes are past the instruction. -/
def pastIssue (i : Iss) (g : Group) : List Thread :=
  g.threads.zipIdx.map (fun t => if i.path.getLsbD t.2 then { t.1 with pc := nextPc i } else t.1)

/-- What no kernel instruction touches as it issues: memory, the harts, the front end, messages, the RAS log, the
network, and every other core. -/
def OtherCoresKept (n : Nat) (w w' : World) : Prop :=
  w'.mem = w.mem ∧ w'.harts = w.harts ∧ w'.fe = w.fe ∧ w'.irq = w.irq ∧ w'.log = w.log ∧ w'.net = w.net ∧
    w'.saf = w.saf ∧ w'.cas = w.cas ∧ w'.outs = w.outs ∧ ∀ k, k ≠ n → coreOf w' k = coreOf w k

/-- What architectural state other groups of a core hold. -/
def groupRegs (g : Group) : Nat × Map W32 × Map W32 × Map W32 × List Thread := (g.number, g.g, g.u, g.p, g.threads)

/-- The other groups of a core keep their registers, predicates, threads and program counters. -/
def OtherGroupsKept (slot : Nat) (c c' : Core) : Prop :=
  ∀ k, k ≠ slot → (mget c'.groups k).map groupRegs = (mget c.groups k).map groupRegs

/-- What an instruction that works on registers alone leaves on its core. -/
def CoreKept (c c' : Core) : Prop :=
  c'.launch = c.launch ∧ c'.stopped = c.stopped ∧ c'.sems = c.sems ∧ c'.slm = c.slm ∧ c'.slmPoison = c.slmPoison ∧
    c'.slmq = c.slmq ∧ c'.accs = c.accs ∧ c'.l1 = c.l1 ∧ c'.mx = c.mx ∧ c'.tmq = c.tmq ∧ c'.tmRun = c.tmRun ∧
    c'.arrived = c.arrived ∧ c'.held = c.held

/-- What every issue of a register instruction leaves: the frame of the core and of the rest of the block, and one
more instruction counted (R128). -/
def RegFrame (i : Iss) (w w' : World) : Prop :=
  OtherCoresKept i.core w w' ∧ CoreKept (coreOf w i.core) (coreOf w' i.core) ∧
    OtherGroupsKept i.slot (coreOf w i.core) (coreOf w' i.core) ∧
    rg w' (rKX_ISSUE i.core) = (rg w (rKX_ISSUE i.core) + 1) % 2 ^ 64

/-- What an issue leaves outside its core's own queues: the rest of the block and the other groups, with one more
instruction counted (R128). -/
def IssueFrame (i : Iss) (w w' : World) : Prop :=
  OtherCoresKept i.core w w' ∧ OtherGroupsKept i.slot (coreOf w i.core) (coreOf w' i.core) ∧
    (coreOf w' i.core).launch = (coreOf w i.core).launch ∧ (coreOf w' i.core).stopped = (coreOf w i.core).stopped ∧
    rg w' (rKX_ISSUE i.core) = (rg w (rKX_ISSUE i.core) + 1) % 2 ^ 64

/-- The issuing group keeps every register and predicate, and its path is past the instruction. -/
def OwnRegsKept (i : Iss) (w w' : World) : Prop :=
  groupRegs (groupOf w' i.core i.slot) =
    ((groupOf w i.core i.slot).number, (groupOf w i.core i.slot).g, (groupOf w i.core i.slot).u, (groupOf w i.core i.slot).p,
      pastIssue i (groupOf w i.core i.slot))

/-- The threads of a list with the lanes of a mask changed. -/
def lanesChanged (mask : W32) (f : Thread → Thread) (ts : List Thread) : List Thread :=
  ts.zipIdx.map (fun t => if mask.getLsbD t.2 then f t.1 else t.1)

/-- The quarter issues `i`, which is operation `op` of class `cls`, with nothing in the way of the registers it names. -/
def IssuesAs (a : At) (s : State) (i : Iss) (cls op : Nat) (us : Uses) : Prop :=
  issued a s.w = some i ∧ clsOp i.w1 = (cls, op) ∧ unhindered us i s.w = true

end Sys2Proof.Machine
end

