-- ==== Sys2Proof/Certificates/Slice0/Obligations.lean ====
section
/-!
DEFINITION. The statements about the block that provers settle, by chapter of the spec.
-/
open Sys2Proof Sys2Proof.Machine

/-! ### Kernel instructions that work on registers (R129 to R137, R143 to R146) -/

namespace Sys2Proof.Machine

/-- A row of a table of register operations: the command, its operation code, its form, the encodings beyond the form
that it refuses, and the result of a lane from the group before it. -/
structure RegOp where
  cmd  : At → Instr
  op   : Nat
  form : AluForm
  bad  : Iss → Bool
  val  : Iss → Group → Nat → W32

/-- d = f(a, b). -/
def regOp2 (cmd : At → Instr) (op : Nat) (f : W32 → W32 → W32) : RegOp :=
  ⟨cmd, op, ⟨.reg, .reg, .none, .reg, 0, true, false⟩, noBad, fun i g l => f (aVal i g l) (bVal i g l)⟩

/-- d = f(a). -/
def regOp1 (cmd : At → Instr) (op : Nat) (f : W32 → W32) : RegOp :=
  ⟨cmd, op, ⟨.reg, .none, .none, .reg, 0, true, false⟩, noBad, fun i g l => f (aVal i g l)⟩

/-- The word whose bit k is `f k`. -/
def bitsWhere (f : Nat → Bool) : W32 := (List.range 32).foldl (fun r k => if f k then r ||| BitVec.twoPow 32 k else r) 0

/-- The integer operations with a 32-bit register result (R143), each by its own words. -/
def intRegOps : List RegOp :=
  [regOp2 .iadd 0x00 (fun x y => x + y), regOp2 .isub 0x01 (fun x y => x - y), regOp2 .imul 0x02 (fun x y => x * y),
   regOp2 .imulhiU 0x03 (fun x y => ((x.zeroExtend 64 * y.zeroExtend 64) >>> 32).truncate 32),
   regOp2 .imulhiS 0x04 (fun x y => ((x.signExtend 64 * y.signExtend 64) >>> 32).truncate 32),
   ⟨.imad, 0x05, ⟨.reg, .reg, .reg, .reg, 0, true, false⟩, noBad, fun i g l => aVal i g l * bVal i g l + cVal i g l⟩,
   regOp2 .iminS 0x06 (fun x y => if x.slt y then x else y), regOp2 .iminU 0x07 (fun x y => if x < y then x else y),
   regOp2 .imaxS 0x08 (fun x y => if x.slt y then y else x), regOp2 .imaxU 0x09 (fun x y => if x < y then y else x),
   regOp2 .and 0x0A (fun x y => x &&& y), regOp2 .or 0x0B (fun x y => x ||| y), regOp2 .xor 0x0C (fun x y => x ^^^ y),
   regOp2 .shl 0x0D (fun x y => x <<< (y &&& 31).toNat), regOp2 .shr 0x0E (fun x y => x >>> (y &&& 31).toNat),
   regOp2 .sar 0x0F (fun x y => x.sshiftRight (y &&& 31).toNat),
   ⟨.bfeU, 0x10, ⟨.reg, .none, .none, .reg, 0x7FF, true, false⟩, fun i => 32 < fMod i / 32,
     fun i g l => BitVec.ofNat 32 ((aVal i g l).toNat / 2 ^ (fMod i % 32) % 2 ^ (fMod i / 32))⟩,
   ⟨.bfeS, 0x11, ⟨.reg, .none, .none, .reg, 0x7FF, true, false⟩, fun i => 32 < fMod i / 32,
     fun i g l => BitVec.ofInt 32 (sextInt ((aVal i g l).toNat / 2 ^ (fMod i % 32)) (fMod i / 32))⟩,
   ⟨.bfi, 0x12, ⟨.reg, .reg, .none, .reg, 0x7FF, true, false⟩, fun i => 32 < fMod i / 32,
     fun i g l => bitsWhere (fun k => if fMod i % 32 ≤ k && k < fMod i % 32 + fMod i / 32
       then (aVal i g l).getLsbD (k - fMod i % 32) else (bVal i g l).getLsbD k)⟩,
   regOp1 .popc 0x13 (fun x => x.cpop),
   regOp1 .clz 0x14 (fun x => x.clz), regOp1 .brev 0x15 (fun x => bitsWhere (fun k => x.getLsbD (31 - k))),
   ⟨.mov, 0x16, ⟨.none, .reg, .none, .reg, 0, true, false⟩, noBad, fun i g l => bVal i g l⟩,
   ⟨.sel, 0x17, ⟨.reg, .reg, .pred, .reg, 0, true, false⟩, noBad,
     fun i g l => if (pRead g (fC i)).getLsbD l then aVal i g l else bVal i g l⟩]

/-- The registers of a group after an operation whose lane `l` results in `v l`: d in every lane whose guard holds,
u(d) once from the lowest such lane where du = 1 (R136), and no other register; g255 stays 0 (R129). -/
def RegsAfter (i : Iss) (v : Nat → W32) (g g' : Group) : Prop :=
  (∀ r l, l < 32 → gRead g' r l =
    if fDu i = false ∧ r = fD i ∧ i.ex.getLsbD l = true ∧ r ≠ 255 then v l else gRead g r l) ∧
  (∀ r, uRead g' r =
    if fDu i = true ∧ r = fD i then (match leadLane i with | some l => v l | none => uRead g r) else uRead g r) ∧
  g'.p = g.p ∧ g'.threads = pastIssue i g ∧ g'.number = g.number

end Sys2Proof.Machine

/-- Every integer operation with a register result, issued with a legal encoding and nothing in its way, writes the
result of R143 in exactly the lanes whose guard holds, and leaves every other register, predicate, group and core,
the arithmetic flags, memory and the rest of the block as they were. -/
def Obligations.IntegerOperationsWriteTheirResult : Prop :=
  ∀ o ∈ intRegOps, ∀ (a : At) (s : State) (i : Iss),
    issued a s.w = some i → clsOp i.w1 = (0, o.op) → aluIllegal o.form i = false → o.bad i = false →
    unhindered (aluUses o.form i) i s.w = true →
    Completes (o.cmd a) s (fun w' =>
      RegsAfter i (o.val i (groupOf s.w i.core i.slot)) (groupOf s.w i.core i.slot) (groupOf w' i.core i.slot) ∧
      (coreOf w' i.core).flags = (coreOf s.w i.core).flags ∧ RegFrame i s.w w')

namespace Sys2Proof.Machine

/-- A row of a table of predicate operations: as `RegOp`, with a Boolean result. -/
structure PredOp where
  cmd  : At → Instr
  op   : Nat
  form : AluForm
  bad  : Iss → Bool
  val  : Iss → Group → Nat → Bool

/-- ISETP's comparison by its code, signed or unsigned (R143). -/
def isetpHolds (code : Nat) (unsigned : Bool) (x y : W32) : Bool :=
  match code with
  | 0 => x = y
  | 1 => x ≠ y
  | 2 => if unsigned then x.ult y else x.slt y
  | 3 => if unsigned then x.ule y else x.sle y
  | 4 => if unsigned then y.ult x else y.slt x
  | _ => if unsigned then y.ule x else y.sle x

/-- The integer operations with a predicate result (R143): a comparison, and a truth table of three predicates. -/
def intPredOps : List PredOp :=
  [⟨.isetp, 0x18, ⟨.reg, .reg, .none, .pred, 0xF, true, false⟩, fun i => 6 ≤ fMod i % 8,
     fun i g l => isetpHolds (fMod i % 8) (bit (fMod i) 3) (aVal i g l) (bVal i g l)⟩,
   ⟨.pset, 0x19, ⟨.pred, .pred, .pred, .pred, 0xFF, true, false⟩, noBad, fun i g l =>
     bit (fMod i) ((if pLane g (fA i) l then 4 else 0) + (if pLane g (fB i) l then 2 else 0) + if pLane g (fC i) l then 1 else 0)⟩]

/-- The predicates of a group after an operation whose lane `l` results in `v l`: p(d) in every lane whose guard holds;
with du = 1 one value, that of the lowest such lane, in every lane of the path. Nothing else of the group changes. -/
def PredsAfter (i : Iss) (v : Nat → Bool) (g g' : Group) : Prop :=
  (∀ n l, l < 32 → pLane g' n l =
    if n = fD i ∧ fDu i = false ∧ i.ex.getLsbD l = true then v l
    else if n = fD i ∧ fDu i = true ∧ i.path.getLsbD l = true then
      (match leadLane i with | some k => v k | none => pLane g n l)
    else pLane g n l) ∧
  g'.g = g.g ∧ g'.u = g.u ∧ g'.threads = pastIssue i g ∧ g'.number = g.number

end Sys2Proof.Machine

/-- ISETP and PSET write the result of R143 to p(d) as R134 and R143 state, and leave every other predicate and register,
the arithmetic flags and the rest of the block as they were. -/
def Obligations.IntegerComparisonsWriteTheirPredicate : Prop :=
  ∀ o ∈ intPredOps, ∀ (a : At) (s : State) (i : Iss),
    issued a s.w = some i → clsOp i.w1 = (0, o.op) → aluIllegal o.form i = false → o.bad i = false →
    unhindered (aluUses o.form i) i s.w = true →
    Completes (o.cmd a) s (fun w' =>
      PredsAfter i (o.val i (groupOf s.w i.core i.slot)) (groupOf s.w i.core i.slot) (groupOf w' i.core i.slot) ∧
      (coreOf w' i.core).flags = (coreOf s.w i.core).flags ∧ RegFrame i s.w w')

namespace Sys2Proof.Machine

/-- The source lane SHFL names, modulo 2^32 (R143). -/
def shflSource (mode lane : Nat) (b : W32) : W32 :=
  match mode with
  | 0 => b &&& 31
  | 1 => BitVec.ofNat 32 lane - b
  | 2 => BitVec.ofNat 32 lane + b
  | _ => BitVec.ofNat 32 lane ^^^ (b &&& 31)

def shflForm : AluForm := ⟨.reg, .reg, .none, .reg, 3, false, false⟩
def ballotForm : AluForm := ⟨.pred, .none, .none, .reg, 3, false, false⟩
def voteForm : AluForm := ⟨.pred, .none, .none, .pred, 3, false, false⟩
def readlaneForm : AluForm := ⟨.reg, .reg, .none, .ureg, 0, false, false⟩
def iadd64Form : AluForm := ⟨.reg, .reg, .none, .reg, 0, true, true⟩

/-- The common hypotheses: the quarter issues `i`, which is class INT, operation `op`, with a legal form. -/
def IssuesInt (a : At) (s : State) (i : Iss) (op : Nat) (form : AluForm) : Prop :=
  issued a s.w = some i ∧ clsOp i.w1 = (0, op) ∧ aluIllegal form i = false ∧ unhindered (aluUses form i) i s.w = true

end Sys2Proof.Machine

/-- The instructions that read other lanes see only the lanes of the path whose guard holds (R119, R134, R143): SHFL
gives 0 for a lane outside them and the thread's own value for a lane outside 0 to 31; VOTE counts only them; READLANE
writes one uniform register. -/
def Obligations.CrossLaneInstructionsSeeOnlyThePath : Prop :=
  (∀ (a : At) (s : State) (i : Iss), IssuesInt a s i 0x1B shflForm →
    Completes (.shfl a) s (fun w' =>
      let g := groupOf s.w i.core i.slot
      RegsAfter i (fun l =>
        let src := (shflSource (fMod i) l (bVal i g l)).toNat
        if 31 < src then aVal i g l else if i.ex.getLsbD src then aVal i g src else 0) g (groupOf w' i.core i.slot) ∧
      RegFrame i s.w w')) ∧
  (∀ (a : At) (s : State) (i : Iss), IssuesInt a s i 0x1C ballotForm → fMod i = 2 →
    Completes (.vote a) s (fun w' =>
      let g := groupOf s.w i.core i.slot
      RegsAfter i (fun _ => pRead g (fA i) &&& i.ex) g (groupOf w' i.core i.slot) ∧ RegFrame i s.w w')) ∧
  (∀ (a : At) (s : State) (i : Iss), IssuesInt a s i 0x1C voteForm → fMod i < 2 →
    Completes (.vote a) s (fun w' =>
      let g := groupOf s.w i.core i.slot
      PredsAfter i (fun _ =>
        if fMod i = 0 then (List.range 32).all (fun l => !(i.ex.getLsbD l) || pLane g (fA i) l)
        else (List.range 32).any (fun l => i.ex.getLsbD l && pLane g (fA i) l)) g (groupOf w' i.core i.slot) ∧
      RegFrame i s.w w')) ∧
  (∀ (a : At) (s : State) (i : Iss) (lead : Nat), IssuesInt a s i 0x1D readlaneForm → leadLane i = some lead →
    Completes (.readlane a) s (fun w' =>
      let g := groupOf s.w i.core i.slot
      let g' := groupOf w' i.core i.slot
      let src := (bVal i g lead).toNat % 32
      (∀ r, uRead g' r = if r = fD i then (if i.ex.getLsbD src then aVal i g src else 0) else uRead g r) ∧
      g'.g = g.g ∧ g'.p = g.p ∧ g'.threads = pastIssue i g ∧ RegFrame i s.w w'))

/-- IADD64 writes the sum modulo 2^64 of its two pairs to the pair d (R130, R143), in every lane whose guard holds or,
with du = 1, once to the uniform pair, and changes no other register. No pair may reach g255 (R130). -/
def Obligations.WideAddWritesItsPair : Prop :=
  ∀ (a : At) (s : State) (i : Iss), IssuesInt a s i 0x1A iadd64Form → (fDu i = false → fD i ≠ 254) →
    Completes (.iadd64 a) s (fun w' =>
      let g := groupOf s.w i.core i.slot
      let g' := groupOf w' i.core i.slot
      let sum (l : Nat) : Nat := (aVal64 i g l + bVal64 i g l) % 2 ^ 64
      (fDu i = false → (∀ l, l < 32 → i.ex.getLsbD l = true → gPair g' (fD i) l = sum l) ∧ g'.u = g.u ∧
        ∀ r l, l < 32 → (i.ex.getLsbD l = false ∨ r ≠ fD i ∧ r ≠ fD i + 1) → gRead g' r l = gRead g r l) ∧
      (fDu i = true → (∀ l, leadLane i = some l → uPair g' (fD i) = sum l) ∧ g'.g = g.g ∧
        ∀ r, r ≠ fD i ∧ r ≠ fD i + 1 → uRead g' r = uRead g r) ∧
      g'.p = g.p ∧ g'.threads = pastIssue i g ∧ (coreOf w' i.core).flags = (coreOf s.w i.core).flags ∧ RegFrame i s.w w')

namespace Sys2Proof.Machine

/-- A row of a table of operations whose lanes raise arithmetic flags: the command, its class and operation, the
registers it names, its illegal encodings and formats, and a lane's result with its flags. -/
structure FlagOp where
  cmd  : At → Instr
  cls  : Nat
  op   : Nat
  uses : Iss → Uses
  bad  : Iss → Bool
  val  : CoreLaunch → Iss → Group → Nat → W32 × Flags

def fpOp (cmd : At → Instr) (op : Nat) (form : AluForm) (val : CoreLaunch → Iss → Group → Nat → W32 × Flags) : FlagOp :=
  ⟨cmd, 1, op, aluUses form, aluIllegal form, val⟩

/-- d = f(a, b) on FP32 words after the sign modifiers. -/
def fpOp2 (cmd : At → Instr) (op : Nat) (f : Bool → W32 → W32 → W32 × Flags) : FlagOp :=
  fpOp cmd op (fpForm true false .reg 0) (fun c i g l => f c.ftz (fpA i g l) (fpB i g l))

/-- d = f(a), rounded to nearest even from the exact value. -/
def fpOp1 (cmd : At → Instr) (op : Nat) (f : Val → Val × Flags) : FlagOp :=
  fpOp cmd op (fpForm false false .reg 0) (fun c i g l => fpFunc c.ftz f (fpA i g l))

def cvtOp (cmd : At → Instr) (op : Nat) (usesS : Bool) (fits : Nat → Nat → Bool)
    (val : CoreLaunch → Iss → Group → Nat → Nat × Flags) : FlagOp :=
  ⟨cmd, 2, op, cvtUses usesS, fun i => (cvtTrap usesS fits i).isSome,
    fun c i g l => (BitVec.ofNat 32 (val c i g l).1, (val c i g l).2)⟩

/-- The operations whose lanes work alone and raise flags: FP arithmetic (R144), VDOT (R145) and the element and
decoding forms of CVT (R45, R56 to R59, R146). -/
def flagOps : List FlagOp :=
  [fpOp2 .fadd 0x00 fp32Add, fpOp2 .fmul 0x01 fp32Mul,
   fpOp .ffma 0x02 (fpForm true true .reg 0) (fun c i g l => fp32Fma c.ftz (fpA i g l) (fpB i g l) (fpC i g l)),
   fpOp2 .fmin 0x03 (fp32MinMax false), fpOp2 .fmax 0x04 (fp32MinMax true),
   fpOp1 .rcp 0x06 rcpVal, fpOp1 .rsq 0x07 rsqVal, fpOp1 .sqrt 0x08 sqrtVal, fpOp1 .ex2 0x09 ex2Val, fpOp1 .lg2 0x0A lg2Val,
   ⟨.vdot, 1, 0x0B, vdotUses, fun i => vdotIllegal i || vdotBadFormat i, fun c i g l => vdotLane i c.ftz false g l⟩,
   ⟨.vdotZ, 1, 0x0C, vdotUses, fun i => vdotIllegal i || vdotBadFormat i, fun c i g l => vdotLane i c.ftz true g l⟩,
   cvtOp .cvt 0x00 false (fun x y => x ≤ 8 && y ≤ 8) (fun c i g l =>
     let x := cvtSource i c.ftz g l
     let y := cvtResult i c.ftz (cvtRand i c.seed g l) x.1
     (y.1, x.2 ||| y.2)),
   cvtOp .cvtF2s 0x01 false (fun x y => x ≤ 8 && y = 0) (fun c i g l =>
     let x := cvtSource i c.ftz g l
     let y := convInt (-2 ^ 31) (2 ^ 31 - 1) (rndOf (cvtRnd i)) (cvtRand i c.seed g l) x.1
     (intCode 32 y.1, x.2 ||| y.2)),
   cvtOp .cvtF2u 0x02 false (fun x y => x ≤ 8 && y = 0) (fun c i g l =>
     let x := cvtSource i c.ftz g l
     let y := convInt 0 (2 ^ 32 - 1) (rndOf (cvtRnd i)) (cvtRand i c.seed g l) x.1
     (intCode 32 y.1, x.2 ||| y.2)),
   cvtOp .cvtS2f 0x03 false (fun x y => x = 0 && y ≤ 8) (fun c i g l =>
     let v := (gRead g (fA i) l).toInt
     cvtResult i c.ftz (cvtRand i c.seed g l) (.fin (v < 0) v.natAbs 1)),
   cvtOp .cvtU2f 0x04 false (fun x y => x = 0 && y ≤ 8) (fun c i g l =>
     cvtResult i c.ftz (cvtRand i c.seed g l) (.fin false (gRead g (fA i) l).toNat 1)),
   cvtOp .cvtKbd 0x0A true (fun x y => (x = 9 || x = 10) && y = 0) (fun c i g l =>
     let p := kbP (cvtSrc i = 10)
     convFloat c.ftz .fp32 (rndOf (cvtRnd i)) (cvtSat i) (cvtRand i c.seed g l)
       (kbVal p (bits (uRead g (cvtS i)).toNat 0 8) (sextInt (gRead g (fA i) l).toNat (p + 1))))]

/-- The arithmetic flags of a core after an operation: those before it, with those of the lanes whose guard holds. -/
def flagsAfter (i : Iss) (v : Nat → W32 × Flags) (fl : Flags) : Flags := (lanesOf i.ex).foldl (fun f l => f ||| (v l).2) fl

/-- As `RegsAfter` for an operation that never names a uniform destination. -/
def LaneRegsAfter (i : Iss) (v : Nat → W32) (g g' : Group) : Prop :=
  (∀ r l, l < 32 → gRead g' r l = if r = fD i ∧ i.ex.getLsbD l = true ∧ r ≠ 255 then v l else gRead g r l) ∧
  g'.u = g.u ∧ g'.p = g.p ∧ g'.threads = pastIssue i g ∧ g'.number = g.number

end Sys2Proof.Machine

/-- Floating-point arithmetic, VDOT and the conversions lane by lane write their result to d in exactly the lanes whose
guard holds, and OR their flags into the core's flag word (R54, R55); nothing else changes. -/
def Obligations.FloatingOperationsWriteResultsAndFlags : Prop :=
  ∀ o ∈ flagOps, ∀ (a : At) (s : State) (i : Iss),
    issued a s.w = some i → clsOp i.w1 = (o.cls, o.op) → o.bad i = false → unhindered (o.uses i) i s.w = true →
    Completes (o.cmd a) s (fun w' =>
      let g := groupOf s.w i.core i.slot
      let v := o.val (launchOn s.w i.core) i g
      LaneRegsAfter i (fun l => (v l).1) g (groupOf w' i.core i.slot) ∧
      (coreOf w' i.core).flags = flagsAfter i v (coreOf s.w i.core).flags ∧ RegFrame i s.w w')

namespace Sys2Proof.Machine

def fsetpForm : AluForm := fpForm true false .pred 7

/-- FSETP's comparison (R144): with a NaN operand only NE and UNORD hold. -/
def fsetpHolds (code : Nat) (x y : Val) : Bool :=
  if x = .nan ∨ y = .nan then code = 1 || code = 7
  else match code with
    | 0 => !(valLt x y) && !(valLt y x)
    | 1 => valLt x y || valLt y x
    | 2 => valLt x y
    | 3 => !(valLt y x)
    | 4 => valLt y x
    | 5 => !(valLt x y)
    | 6 => true
    | _ => false

end Sys2Proof.Machine

/-- FSETP compares FP32 values after R52 and writes p(d): with a NaN operand only NE and UNORD are true, and no flag but
flush is raised (R144). -/
def Obligations.FloatComparisonWritesItsPredicate : Prop :=
  ∀ (a : At) (s : State) (i : Iss), issued a s.w = some i → clsOp i.w1 = (1, 0x05) → aluIllegal fsetpForm i = false →
    unhindered (aluUses fsetpForm i) i s.w = true →
    Completes (.fsetp a) s (fun w' =>
      let g := groupOf s.w i.core i.slot
      let ftz := (launchOn s.w i.core).ftz
      PredsAfter i (fun l => fsetpHolds (fMod i % 8) (f32Val (ftz32 ftz (fpA i g l)).1) (f32Val (ftz32 ftz (fpB i g l)).1)) g
        (groupOf w' i.core i.slot) ∧
      (coreOf w' i.core).flags =
        (lanesOf i.ex).foldl (fun f l => f ||| (ftz32 ftz (fpA i g l)).2 ||| (ftz32 ftz (fpB i g l)).2) (coreOf s.w i.core).flags ∧
      RegFrame i s.w w')

namespace Sys2Proof.Machine

/-- A block-forming CVT: the command, its operation, its block size and scale format. -/
def blockOps : List ((At → Instr) × Nat × Nat × ScaleFmt) :=
  [(.cvtB16e, 0x05, 16, .e8m0), (.cvtB16f, 0x06, 16, .fs8), (.cvtB32e, 0x07, 32, .e8m0), (.cvtB32f, 0x08, 32, .fs8)]

/-- The value lane l contributes to a block: g(a) after R52, +0 where it is not active (R60). -/
def contribution (i : Iss) (ftz : Bool) (g : Group) (l : Nat) : Val :=
  if i.ex.getLsbD l then (readElem ftz .fp32 (gRead g (fA i) l).toNat).1 else .fin false 0 1

/-- What R50 makes of block b of n lanes. -/
def blockFormed (i : Iss) (n : Nat) (sf : ScaleFmt) (ef : ElemFmt) (ftz : Bool) (seed : W64) (g : Group) (b : Nat) :
    Nat × List Nat × Flags :=
  let ls := (List.range n).map (fun k => k + b * n)
  formBlock ftz sf ef (rndOf (cvtRnd i)) (ls.map (contribution i ftz g)) (ls.map (cvtRand i seed g))

end Sys2Proof.Machine

/-- A block-forming CVT writes, for every block with an active lane, the block's scale byte of u(s) and the elements of
the active lanes; an inactive lane is not written, and a block without an active lane changes nothing (R50, R60).
CVT.KBE writes the exponent of the one block of R44 to u(s) and the mantissas to the active lanes. -/
def Obligations.BlockConversionsWriteScaleAndElements : Prop :=
  (∀ o ∈ blockOps, ∀ (a : At) (s : State) (i : Iss) (ef : ElemFmt),
    issued a s.w = some i → clsOp i.w1 = (2, o.2.1) → fmtOfCode (cvtDst i) = some ef →
    cvtTrap true (fun x y => x = 0 && 3 ≤ y && y ≤ 8) i = none → unhindered (cvtUses true i) i s.w = true →
    Completes (o.1 a) s (fun w' =>
      let g := groupOf s.w i.core i.slot
      let g' := groupOf w' i.core i.slot
      let l := launchOn s.w i.core
      let n := o.2.2.1
      (∀ b, b < 32 / n → (∃ k, k < n ∧ i.ex.getLsbD (k + b * n) = true) →
        bits (uRead g' (cvtS i)).toNat (8 * b) 8 = (blockFormed i n o.2.2.2 ef l.ftz l.seed g b).1 % 256 ∧
        ∀ k, k < n → i.ex.getLsbD (k + b * n) = true → fD i ≠ 255 → gRead g' (fD i) (k + b * n) =
          BitVec.ofNat 32 ((blockFormed i n o.2.2.2 ef l.ftz l.seed g b).2.1.getD k 0)) ∧
      (∀ b, b < 4 → (32 / n ≤ b ∨ ∀ k, k < n → i.ex.getLsbD (k + b * n) = false) →
        bits (uRead g' (cvtS i)).toNat (8 * b) 8 = bits (uRead g (cvtS i)).toNat (8 * b) 8) ∧
      (∀ r k, k < 32 → (i.ex.getLsbD k = false ∨ r ≠ fD i) → gRead g' r k = gRead g r k) ∧
      (∀ r, r ≠ cvtS i → uRead g' r = uRead g r) ∧ g'.p = g.p ∧ g'.threads = pastIssue i g ∧ RegFrame i s.w w')) ∧
  (∀ (a : At) (s : State) (i : Iss), issued a s.w = some i → clsOp i.w1 = (2, 0x09) → i.ex ≠ 0 →
    cvtTrap true (fun x y => x = 0 && (y = 9 || y = 10)) i = none → unhindered (cvtUses true i) i s.w = true →
    Completes (.cvtKbe a) s (fun w' =>
      let g := groupOf s.w i.core i.slot
      let g' := groupOf w' i.core i.slot
      let l := launchOn s.w i.core
      let kb := kbEncode (rndOf (cvtRnd i)) (kbP (cvtDst i = 10)) ((List.range 32).map (contribution i l.ftz g))
        ((List.range 32).map (cvtRand i l.seed g))
      uRead g' (cvtS i) = BitVec.ofNat 32 kb.1 ∧
      (∀ k, k < 32 → i.ex.getLsbD k = true → fD i ≠ 255 → gRead g' (fD i) k = BitVec.ofInt 32 (kb.2.1.getD k 0)) ∧
      (∀ r k, k < 32 → (i.ex.getLsbD k = false ∨ r ≠ fD i) → gRead g' r k = gRead g r k) ∧
      (∀ r, r ≠ cvtS i → uRead g' r = uRead g r) ∧ g'.p = g.p ∧ g'.threads = pastIssue i g ∧ RegFrame i s.w w'))

/-! ### Memory, atomic, synchronisation and control instructions (R138 to R140, R147 to R149, R155 to R159) -/

namespace Sys2Proof.Machine

/-- The access of a load or store instruction: what it does, whether through the constant cache, and its lanes. -/
def memAccess (i : Iss) (w : World) (kind : AccKind) (const uniform store : Bool) : Access :=
  newAccess (coreOf w i.core) i kind const (fD i) (mSize i) (memReqs uniform store i (groupOf w i.core i.slot))

/-- One access more is on its way: at the SLM's thread side (`slm`), or to global memory; the core's other queues, its
SLM, caches, semaphores and arithmetic flags are as before. -/
def OneAccessMore (n : Nat) (slm : Bool) (x : Access) (c c' : Core) : Prop :=
  (if slm then c'.slmq = c.slmq ++ [x] ∧ c'.accs = c.accs else c'.accs = c.accs ++ [x] ∧ c'.slmq = c.slmq) ∧
    c'.nextId = n + 1 ∧ c'.slm = c.slm ∧ c'.l1 = c.l1 ∧ c'.sems = c.sems ∧ c'.flags = c.flags ∧ c'.mx = c.mx ∧ c'.tmq = c.tmq

/-- The memory instructions: command, operation, whether uniform, further illegal encodings, the access's kind. -/
def memOps : List ((At → Instr) × Nat × Bool × (Iss → Bool) × AccKind) :=
  [(.ld, 0, false, noBad, .ld), (.st, 1, false, fun i => 4 ≤ mSpace i, .st), (.ldu, 2, true, fun i => mSpace i < 4, .ldUniform)]

/-- The atomics, by the operation their encoding numbers (R148). -/
def atomOps : List ((At → Instr) × Nat) :=
  [(.atomAdd, 0), (.atomMin, 1), (.atomMax, 2), (.atomAnd, 3), (.atomOr, 4), (.atomXor, 5), (.atomExch, 6), (.atomCas, 7)]

end Sys2Proof.Machine

/-- A load, store or atomic that traps at nothing and has room in the trackers becomes one access of the lanes whose
guard holds: an SLM access at the SLM's thread side, any other on its way to global memory. It writes no register, no
byte of memory or SLM, and no flag as it issues. -/
def Obligations.MemoryInstructionsIssueOneAccess : Prop :=
  (∀ o ∈ memOps, ∀ (a : At) (s : State) (i : Iss), IssuesAs a s i 3 o.2.1 (memUses o.2.2.1 i) → mSpace i ≠ 5 → i.ex ≠ 0 →
    memTrap o.2.2.1 o.2.2.2.1 i s.w = none → trackerFull s.w i.core = false →
    Completes (o.1 a) s (fun w' =>
      OneAccessMore (coreOf s.w i.core).nextId (isSlm i)
        (memAccess i s.w o.2.2.2.2 (mSpace i = 4) o.2.2.1 (o.2.1 = 1)) (coreOf s.w i.core) (coreOf w' i.core) ∧
      OwnRegsKept i s.w w' ∧ IssueFrame i s.w w')) ∧
  (∀ o ∈ atomOps, ∀ (a : At) (s : State) (i : Iss), IssuesAs a s i 4 o.2 (atomUses o.2 i) → i.ex ≠ 0 →
    atomTrap o.2 i s.w = none → trackerFull s.w i.core = false →
    Completes (o.1 a) s (fun w' =>
      let g := groupOf s.w i.core i.slot
      let k := if aType i = 3 then 2 else 1
      OneAccessMore (coreOf s.w i.core).nextId (aSlm i)
        (newAccess (coreOf s.w i.core) i (.atom o.2 (aType i)) false (fD i) (if aType i = 3 then 5 else 4)
          ((lanesOf i.ex).map (fun l => ⟨l, atomAddr i g l, getG g (fB i) k l, if o.2 = 7 then getG g (fC i) k l else 0⟩)))
        (coreOf s.w i.core) (coreOf w' i.core) ∧
      OwnRegsKept i s.w w' ∧ IssueFrame i s.w w'))

/-- A load from the launch constant buffer has its value at once (R175): LD writes its registers in the lanes whose
guard holds, LDU its uniform registers once; no access is made. -/
def Obligations.ConstantBufferLoadsReadAtOnce : Prop :=
  (∀ (a : At) (s : State) (i : Iss), IssuesAs a s i 3 0 (memUses false i) → mSpace i = 5 → memTrap false noBad i s.w = none →
    Completes (.ld a) s (fun w' =>
      let g := groupOf s.w i.core i.slot
      let g' := groupOf w' i.core i.slot
      (∀ k l, l < 32 → k < sizeRegs (mSize i) → i.ex.getLsbD l = true → fD i + k ≠ 255 →
        gRead g' (fD i + k) l = BitVec.ofNat 32 (lcbLoad i (launchOn s.w i.core) g l / 2 ^ (32 * k))) ∧
      (∀ r l, l < 32 → (i.ex.getLsbD l = false ∨ r < fD i ∨ fD i + sizeRegs (mSize i) ≤ r) → gRead g' r l = gRead g r l) ∧
      g'.u = g.u ∧ g'.p = g.p ∧ g'.threads = pastIssue i g ∧ RegFrame i s.w w')) ∧
  (∀ (a : At) (s : State) (i : Iss) (lead : Nat), IssuesAs a s i 3 2 (memUses true i) → mSpace i = 5 →
    memTrap true (fun i => mSpace i < 4) i s.w = none → leadLane i = some lead →
    Completes (.ldu a) s (fun w' =>
      let g := groupOf s.w i.core i.slot
      let g' := groupOf w' i.core i.slot
      (∀ k, k < sizeRegs (mSize i) →
        uRead g' (fD i + k) = BitVec.ofNat 32 (lcbLoad i (launchOn s.w i.core) g lead / 2 ^ (32 * k))) ∧
      (∀ r, (r < fD i ∨ fD i + sizeRegs (mSize i) ≤ r) → uRead g' r = uRead g r) ∧
      g'.g = g.g ∧ g'.p = g.p ∧ g'.threads = pastIssue i g ∧ RegFrame i s.w w'))

namespace Sys2Proof.Machine

def noUse : Uses := ⟨[], []⟩

end Sys2Proof.Machine

/-- SEM.SIG, once its group's earlier SLM stores have completed, adds its operand to the semaphore and leaves no thread waiting whose target is reached; SEM.WAIT goes on
where the signed difference is not negative and otherwise makes the lanes wait; SEM.RD reads the value (R155). -/
def Obligations.SemaphoresCountAndWait : Prop :=
  (∀ (a : At) (s : State) (i : Iss), IssuesAs a s i 5 0 (semUses i) → semBad i = false → i.ex ≠ 0 →
    slmWritesOut (coreOf s.w i.core) i.slot (slotNumber (coreOf s.w i.core) i.slot) (fenceStart i s.w) = false →
    Completes (.semSig a) s (fun w' =>
      let c := coreOf s.w i.core
      let c' := coreOf w' i.core
      let v := mgetD c.sems (ySem i) 0 + semOperand i (groupOf s.w i.core i.slot)
      mgetD c'.sems (ySem i) 0 = v ∧ (∀ m, m ≠ ySem i → mgetD c'.sems m 0 = mgetD c.sems m 0) ∧
      (∀ k g t target, mget c'.groups k = some g → t ∈ g.threads → t.st = .waitSem (ySem i) target → semReached v target = false) ∧
      OtherCoresKept i.core s.w w' ∧ c'.slm = c.slm ∧ c'.accs = c.accs ∧ c'.mx = c.mx)) ∧
  (∀ (a : At) (s : State) (i : Iss), IssuesAs a s i 5 1 (semUses i) → semBad i = false →
    Completes (.semWait a) s (fun w' =>
      let g := groupOf s.w i.core i.slot
      let g' := groupOf w' i.core i.slot
      let target := semOperand i g
      g'.threads = (if 0 ≤ (mgetD (coreOf s.w i.core).sems (ySem i) 0 - target).toInt then pastIssue i g
        else lanesChanged i.ex (fun t => { t with st := .waitSem (ySem i) target }) (pastIssue i g)) ∧
      g'.g = g.g ∧ g'.u = g.u ∧ g'.p = g.p ∧ RegFrame i s.w w')) ∧
  (∀ (a : At) (s : State) (i : Iss), IssuesAs a s i 5 2 ⟨[], [(fD i, 1, 1)]⟩ → fixedBad (fm 40 8 + fm 35 5) i = false →
    ySem i < 16 → i.ex ≠ 0 →
    Completes (.semRd a) s (fun w' =>
      let g := groupOf s.w i.core i.slot
      let g' := groupOf w' i.core i.slot
      (∀ r, uRead g' r = if r = fD i then mgetD (coreOf s.w i.core).sems (ySem i) 0 else uRead g r) ∧
      g'.g = g.g ∧ g'.p = g.p ∧ g'.threads = pastIssue i g ∧ RegFrame i s.w w'))

/-- BRA, BRX and CALL move the lanes whose guard holds to their target and the others past the instruction; CALL also
writes the return address to its pair (R156). -/
def Obligations.TransfersMoveTheLanesWhoseGuardHolds : Prop :=
  (∀ (a : At) (s : State) (i : Iss), IssuesAs a s i 6 0 noUse → fixedBad (fm 8 32) i = false →
    Completes (.bra a) s (fun w' =>
      let g := groupOf s.w i.core i.slot
      let g' := groupOf w' i.core i.slot
      g'.threads = lanesChanged i.ex (fun t => { t with pc := intCode 64 ((i.pc : Int) + 8 * off32 i) }) (pastIssue i g) ∧
      g'.g = g.g ∧ g'.u = g.u ∧ g'.p = g.p ∧ RegFrame i s.w w')) ∧
  (∀ (a : At) (s : State) (i : Iss), IssuesAs a s i 6 1 ⟨[(yR i, 2, 2)], []⟩ → fixedBad (fm 40 8) i = false →
    (∀ l, l < 32 → i.ex.getLsbD l = true → gPair (groupOf s.w i.core i.slot) (yR i) l % 8 = 0) →
    Completes (.brx a) s (fun w' =>
      let g := groupOf s.w i.core i.slot
      let g' := groupOf w' i.core i.slot
      (∀ l t, l < 32 → (pastIssue i g)[l]? = some t → g'.threads[l]? =
        some (if i.ex.getLsbD l then { t with pc := gPair g (yR i) l } else t)) ∧
      g'.g = g.g ∧ g'.u = g.u ∧ g'.p = g.p ∧ RegFrame i s.w w')) ∧
  (∀ (a : At) (s : State) (i : Iss), IssuesAs a s i 6 2 ⟨[(yR i, 2, 2)], []⟩ → fixedBad (fm 8 40) i = false → yR i ≠ 254 →
    Completes (.call a) s (fun w' =>
      let g := groupOf s.w i.core i.slot
      let g' := groupOf w' i.core i.slot
      g'.threads = lanesChanged i.ex (fun t => { t with pc := intCode 64 ((i.pc : Int) + 8 * off32 i) }) (pastIssue i g) ∧
      (∀ l, l < 32 → i.ex.getLsbD l = true → gPair g' (yR i) l = (i.pc + 8) % 2 ^ 64) ∧
      (∀ r l, l < 32 → (i.ex.getLsbD l = false ∨ r ≠ yR i ∧ r ≠ yR i + 1) → gRead g' r l = gRead g r l) ∧
      g'.u = g.u ∧ g'.p = g.p ∧ RegFrame i s.w w'))

namespace Sys2Proof.Machine

/-- The front end as a core leaves it that frees a slot of its launch: it has noted when (R305). -/
def feAfterExit (i : Iss) (freed : Bool) (w : World) : Fe :=
  if freed then (updLaunch (launchOn w i.core).part (fun l => { l with freed := l.freed ++ [(w.now, i.core)] }) w).fe else w.fe

/-- Every thread of a group has exited once the lanes of a mask have. -/
def lastExit (mask : W32) (g : Group) : Prop :=
  ∀ (l : Nat) (t : Thread), g.threads[l]? = some t → t.st = .exited ∨ mask.getLsbD l = true

/-- No lane of a mask is left but those that have exited, those of `now`, and those that wait in a GJOIN at `pc` (R120). -/
def joinReady (mask now : W32) (pc : Nat) (g : Group) : Prop :=
  ∀ (l : Nat) (t : Thread), l < 32 → mask.getLsbD l = true → g.threads[l]? = some t →
    t.st = .exited ∨ now.getLsbD l = true ∨ (t.pc = pc ∧ ∃ m, t.st = .waitJoin m)

end Sys2Proof.Machine

/-- EXIT ends the lanes whose guard holds; those lanes never run again, and a group none of whose threads is left frees
its slot, which the front end notes (R122, R305). GJOIN lets the lanes of its mask go on when all of them have exited or
wait there, and otherwise they wait at the instruction (R120); a lane outside its mask raises the illegal-operand
trap. -/
def Obligations.ExitAndJoin : Prop :=
  (∀ (a : At) (s : State) (i : Iss), IssuesAs a s i 6 3 noUse → fixedBad 0 i = false → i.ex = 0xFFFFFFFF →
    (groupOf s.w i.core i.slot).threads.length = 32 →
    Completes (.exitThreads a) s (fun w' =>
      mget (coreOf w' i.core).groups i.slot = none ∧ OtherCoresKept i.core { s.w with fe := w'.fe } w' ∧
      w'.fe = feAfterExit i true s.w ∧ OtherGroupsKept i.slot (coreOf s.w i.core) (coreOf w' i.core))) ∧
  (∀ (a : At) (s : State) (i : Iss), IssuesAs a s i 6 3 noUse → fixedBad 0 i = false →
    Completes (.exitThreads a) s (fun w' =>
      let g := groupOf s.w i.core i.slot
      (lastExit i.ex g → mget (coreOf w' i.core).groups i.slot = none ∧ w'.fe = feAfterExit i true s.w) ∧
      (¬ lastExit i.ex g → w'.fe = s.w.fe ∧ ∃ g', mget (coreOf w' i.core).groups i.slot = some g' ∧
        g'.g = g.g ∧ g'.u = g.u ∧ g'.p = g.p ∧
        (∀ l t, g.threads[l]? = some t → i.ex.getLsbD l = true → ∃ t', g'.threads[l]? = some t' ∧ t'.st = .exited) ∧
        (∀ l t, g.threads[l]? = some t → i.ex.getLsbD l = false → (∀ m, t.st ≠ .waitJoin m) →
          g'.threads[l]? = some (if i.path.getLsbD l then { t with pc := nextPc i } else t))) ∧
      OtherCoresKept i.core { s.w with fe := w'.fe } w' ∧
      OtherGroupsKept i.slot (coreOf s.w i.core) (coreOf w' i.core))) ∧
  (∀ (a : At) (s : State) (i : Iss), IssuesAs a s i 6 4 ⟨[], [(yR i, 1, 1)]⟩ → fixedBad (fm 40 8) i = false → i.ex = i.path →
    uRead (groupOf s.w i.core i.slot) (yR i) = i.ex →
    (∀ t l, (groupOf s.w i.core i.slot).threads[l]? = some t → i.ex.getLsbD l = true → t.st = .active) →
    Completes (.gjoin a) s (fun w' =>
      let g := groupOf s.w i.core i.slot
      let g' := groupOf w' i.core i.slot
      (∀ l t, l < 32 → i.ex.getLsbD l = true → g.threads[l]? = some t → g'.threads[l]? = some ⟨i.pc + 8, .active⟩) ∧
      g'.g = g.g ∧ g'.u = g.u ∧ g'.p = g.p ∧ OtherCoresKept i.core s.w w')) ∧
  (∀ (a : At) (s : State) (i : Iss) (mask : W32) (l0 : Nat) (t0 : Thread), IssuesAs a s i 6 4 ⟨[], [(yR i, 1, 1)]⟩ →
    fixedBad (fm 40 8) i = false → uRead (groupOf s.w i.core i.slot) (yR i) = mask → i.ex &&& ~~~mask = 0 →
    (groupOf s.w i.core i.slot).threads[l0]? = some t0 → mask.getLsbD l0 = true → i.path.getLsbD l0 = false → l0 < 32 →
    t0.st = .active → (∀ t ∈ (groupOf s.w i.core i.slot).threads, ∀ m, t.st ≠ .waitJoin m) →
    Completes (.gjoin a) s (fun w' =>
      let g := groupOf s.w i.core i.slot
      let g' := groupOf w' i.core i.slot
      (∀ l t, l < 32 → i.ex.getLsbD l = true → g.threads[l]? = some t → g'.threads[l]? = some ⟨i.pc, .waitJoin mask⟩) ∧
      (∀ l t, l < 32 → i.ex.getLsbD l = false → g.threads[l]? = some t →
        g'.threads[l]? = some (if i.path.getLsbD l then { t with pc := i.pc + 8 } else t)) ∧
      g'.g = g.g ∧ g'.u = g.u ∧ g'.p = g.p ∧ OtherCoresKept i.core s.w w')) ∧
  (∀ (a : At) (s : State) (i : Iss) (mask : W32), IssuesAs a s i 6 4 ⟨[], [(yR i, 1, 1)]⟩ → fixedBad (fm 40 8) i = false →
    uRead (groupOf s.w i.core i.slot) (yR i) = mask → i.ex &&& ~~~mask = 0 →
    Completes (.gjoin a) s (fun w' =>
      let g := groupOf s.w i.core i.slot
      let g' := groupOf w' i.core i.slot
      (∀ l t, l < 32 → i.ex.getLsbD l = true → g.threads[l]? = some t →
        g'.threads[l]? = some ⟨i.pc + 8, .active⟩ ∨ g'.threads[l]? = some ⟨i.pc, .waitJoin mask⟩) ∧
      ((∀ t ∈ g.threads, ∀ m, t.st = .waitJoin m → m = mask) → ∀ l t, l < 32 → i.ex.getLsbD l = true →
        g.threads[l]? = some t →
        (g'.threads[l]? = some ⟨i.pc + 8, .active⟩ ↔ joinReady mask i.ex i.pc g)) ∧
      (∀ l t, i.ex.getLsbD l = false → (∀ m, t.st ≠ .waitJoin m) → g.threads[l]? = some t →
        g'.threads[l]? = some (if i.path.getLsbD l then { t with pc := nextPc i } else t)) ∧
      g'.g = g.g ∧ g'.u = g.u ∧ g'.p = g.p ∧ OtherCoresKept i.core s.w w')) ∧
  (∀ (a : At) (s : State) (i : Iss), IssuesAs a s i 6 4 ⟨[], [(yR i, 1, 1)]⟩ → fixedBad (fm 40 8) i = false →
    i.ex &&& ~~~(uRead (groupOf s.w i.core i.slot) (yR i)) ≠ 0 →
    exec (.gjoin a) s = .next { s with w := issueTraps i.core i.slot i.path i.pc tOperand s.w })

/-- NOP and YIELD advance the path and change no register; YIELD also marks its path as not ready for the group's next
issue and clears its starvation count (R121). FENCE.PUB completes once the group's earlier writes have, and CACHE.INV
empties the core's L1 (R157, R158). -/
def Obligations.HintsFencesAndInvalidation : Prop :=
  (∀ (a : At) (s : State) (i : Iss), IssuesAs a s i 6 7 noUse → fixedBad 0 i = false →
    Completes (.nop a) s (fun w' => OwnRegsKept i s.w w' ∧ RegFrame i s.w w')) ∧
  (∀ (a : At) (s : State) (i : Iss), IssuesAs a s i 6 5 noUse → fixedBad 0 i = false →
    Completes (.yield a) s (fun w' =>
      let g' := groupOf w' i.core i.slot
      (i.ex ≠ 0 → mget (pathsOf g') (i.pc + 8) = some i.path →
        (bookOf g' (i.pc + 8) i.path).yielded = true ∧ (bookOf g' (i.pc + 8) i.path).starve = 0) ∧
      OwnRegsKept i s.w w' ∧ RegFrame i s.w w')) ∧
  (∀ (a : At) (s : State) (i : Iss), IssuesAs a s i 9 3 noUse → fixedBad 0 i = false →
    (i.ex = 0 ∨ writesOut (coreOf s.w i.core) i.slot (slotNumber (coreOf s.w i.core) i.slot) (fenceStart i s.w) = false) →
    Completes (.fencePub a) s (fun w' => OwnRegsKept i s.w w' ∧ RegFrame i s.w w')) ∧
  (∀ (a : At) (s : State) (i : Iss), IssuesAs a s i 9 4 noUse → fixedBad 0 i = false → i.ex ≠ 0 →
    loadsOut (coreOf s.w i.core) i.slot (slotNumber (coreOf s.w i.core) i.slot) = false →
    Completes (.cacheInv a) s (fun w' =>
      (coreOf w' i.core).l1 = [] ∧ (coreOf w' i.core).ccache = (coreOf s.w i.core).ccache ∧
      (coreOf w' i.core).slm = (coreOf s.w i.core).slm ∧ OwnRegsKept i s.w w' ∧ IssueFrame i s.w w'))

/-- FT.RD writes one key of the core's replica, never before a key it has shown, with the FTB's state, to three uniform
registers; FT.WAIT goes on where the replica has reached the target and otherwise makes the lanes wait (R159, R377). -/
def Obligations.FrameTimeInstructionsNeverGoBack : Prop :=
  (∀ (a : At) (s : State) (i : Iss), IssuesAs a s i 9 0 ⟨[], [(fD i, 3, 1)]⟩ → fixedBad (fm 40 8) i = false → i.ex ≠ 0 →
    Completes (.ftRd a) s (fun w' =>
      let g := groupOf s.w i.core i.slot
      let g' := groupOf w' i.core i.slot
      ∃ key, (coreOf s.w i.core).ftSeen ≤ key ∧ (coreOf w' i.core).ftSeen = key ∧
        uRead g' (fD i) = BitVec.ofNat 32 key ∧ uRead g' (fD i + 1) = BitVec.ofNat 32 (key / 2 ^ 32) ∧
        uRead g' (fD i + 2) = BitVec.ofNat 32 (bits key 64 16 + ftbState s.w * 2 ^ 16) ∧
        (∀ r, r < fD i ∨ fD i + 3 ≤ r → uRead g' r = uRead g r) ∧ g'.g = g.g ∧ g'.p = g.p ∧ g'.threads = pastIssue i g ∧
        IssueFrame i s.w w')) ∧
  (∀ (a : At) (s : State) (i : Iss), IssuesAs a s i 9 1 ⟨[], [(fA i, 3, 1)]⟩ → fixedBad (fm 32 8) i = false →
    Completes (.ftWait a) s (fun w' =>
      let g := groupOf s.w i.core i.slot
      let g' := groupOf w' i.core i.slot
      let target := ftTarget g (fA i)
      (coreOf s.w i.core).ftSeen ≤ (coreOf w' i.core).ftSeen ∧
      g'.threads = (if target ≤ (coreOf w' i.core).ftSeen then pastIssue i g
        else lanesChanged i.ex (fun t => { t with st := .waitFrame target }) (pastIssue i g)) ∧
      g'.g = g.g ∧ g'.u = g.u ∧ g'.p = g.p ∧ IssueFrame i s.w w'))

/-! ### The matrix array and the tensor mover (chapter 04; R140, R149, R150, R153, R179 to R182) -/

namespace Sys2Proof.Machine

/-- A queued instruction of the matrix array or the mover passes its checks (R106, R153): its encoding is legal, its
formats allowed, its operands good, and every SLM byte inside the launch's bound. -/
def checksPass (c : QueueCheck) : Bool := !c.illegal && !c.format && !c.operand && !c.slm

/-- One matrix instruction more is queued, with its operands captured; nothing of the array has moved. -/
def QueuedMatrix (i : Iss) (op : MxOp) (w w' : World) : Prop :=
  let c := coreOf w i.core
  let c' := coreOf w' i.core
  c'.mx.queue = c.mx.queue ++ [⟨op, xSemOf i, i.slot, (groupOf w i.core i.slot).number, i.path, i.pc, c.nextId, [], none, 0, 0, 0, 0, 0⟩] ∧
  c'.mx.acc = c.mx.acc ∧ c'.mx.buf0 = c.mx.buf0 ∧ c'.mx.buf1 = c.mx.buf1 ∧ c'.mx.active = c.mx.active ∧ c'.slm = c.slm ∧
  c'.flags = c.flags ∧ c'.sems = c.sems ∧ c'.tmq = c.tmq

/-- One mover instruction more is queued. -/
def QueuedMover (i : Iss) (op : TmOp) (w w' : World) : Prop :=
  let c := coreOf w i.core
  let c' := coreOf w' i.core
  c'.tmq = c.tmq ++ [⟨op, xSemOf i, i.slot, (groupOf w i.core i.slot).number, i.path, i.pc, c.nextId, [], 0⟩] ∧
  c'.mx = c.mx ∧ c'.slm = c.slm ∧ c'.flags = c.flags ∧ c'.sems = c.sems

def mloadCheck (i : Iss) (g : Group) (l : CoreLaunch) : QueueCheck :=
  let d := descOf g (xSlot i)
  { illegal := fixedBad (fm 45 3 + fm 44 1 + fm 29 5) i || xSemBad i
    format := xSlot i ≠ 0 && (fwBad d.fmt || mxClass (fwElem d.fmt) = none)
    operand := descBad g (xSlot i) true false || d.global
    slm := descOut l d }

/-- The mover's instructions: command, class, operation, registers, checks, and what is captured. -/
def moverOps : List ((At → Instr) × Nat × Nat × (Iss → Uses) × (Iss → Group → CoreLaunch → QueueCheck) × (Iss → Group → TmOp)) :=
  [(.tmCopy, 8, 0, tmUses, copyCheck, fun i g => .copy (descOf g (xSlot i)) (descOf g (xSlot2 i))),
   (.tmXpose, 8, 1, tmUses, xposeCheck, fun i g => .xpose (descOf g (xSlot i)) (descOf g (xSlot2 i))),
   (.watch, 9, 2, fun i => ⟨[], slotUse (xSlot i)⟩, watchCheck, fun i g => .watch (descOf g (xSlot i)) (xQ i))]

end Sys2Proof.Machine

/-- A matrix or mover instruction that passes its checks and finds room in its queue of 8 enters the queue once, with
its descriptors and scalars as they stand at issue (R93, R150, R153, R179); nothing else happens at issue. -/
def Obligations.MatrixAndMoverInstructionsQueueOnce : Prop :=
  (∀ (a : At) (s : State) (i : Iss), let g := groupOf s.w i.core i.slot;
    IssuesAs a s i 7 0 ⟨[], slotUse (xSlot i)⟩ → i.ex ≠ 0 → (coreOf s.w i.core).mx.queue.length < 8 →
    checksPass (mloadCheck i g (launchOn s.w i.core)) = true →
    Completes (.mload a) s (fun w' => QueuedMatrix i (.mload (descOf g (xSlot i)) (bit i.w1 44)) s.w w' ∧
      OwnRegsKept i s.w w' ∧ IssueFrame i s.w w')) ∧
  (∀ (a : At) (s : State) (i : Iss), IssuesAs a s i 7 1 noUse → i.ex ≠ 0 → (coreOf s.w i.core).mx.queue.length < 8 →
    fixedBad (fm 29 5) i = false → xSemBad i = false →
    Completes (.mswap a) s (fun w' => QueuedMatrix i .mswap s.w w' ∧
      (coreOf w' i.core).mx.projActive = 1 - (coreOf s.w i.core).mx.projActive ∧
      OwnRegsKept i s.w w' ∧ IssueFrame i s.w w')) ∧
  (∀ (a : At) (s : State) (i : Iss), let g := groupOf s.w i.core i.slot;
    IssuesAs a s i 7 2 ⟨[], slotUse (xSlot i) ++ slotUse (xSlot2 i) ++ [(xQ i, if sDrain i then 2 else 3, 1)] ++ ctrUse i⟩ →
    i.ex ≠ 0 → (coreOf s.w i.core).mx.queue.length < 8 →
    checksPass (streamCheck i g (coreOf s.w i.core) (launchOn s.w i.core)) = true →
    Completes (.mstream a) s (fun w' => QueuedMatrix i
      (.mstream (descOf g (xSlot i)) (if usesB i g then some (descOf g (xSlot2 i)) else none) (sM i g) (sK i g) (sN i g)
        (sA i g) (sDrain i) (sInit i) (streamInt i g (coreOf s.w i.core).mx) (rndOf (xRnd i)) (xSat i) (ctrValue i g)) s.w w' ∧
      OwnRegsKept i s.w w' ∧ IssueFrame i s.w w')) ∧
  (∀ (a : At) (s : State) (i : Iss), let g := groupOf s.w i.core i.slot;
    IssuesAs a s i 7 3 ⟨[], slotUse (xSlot i) ++ [(xQ i, 2, 1)] ++ ctrUse i⟩ →
    i.ex ≠ 0 → (coreOf s.w i.core).mx.queue.length < 8 →
    checksPass (drainCheck i g (coreOf s.w i.core) (launchOn s.w i.core)) = true →
    Completes (.mdrain a) s (fun w' => QueuedMatrix i
      (.mdrain (descOf g (xSlot i)) (dM i g) (dStart i g) (bit i.w1 35) (bit i.w1 34) (rndOf (xRnd i)) (xSat i) (ctrValue i g))
      s.w w' ∧ OwnRegsKept i s.w w' ∧ IssueFrame i s.w w')) ∧
  (∀ o ∈ moverOps, ∀ (a : At) (s : State) (i : Iss), let g := groupOf s.w i.core i.slot;
    IssuesAs a s i o.2.1 o.2.2.1 (o.2.2.2.1 i) → i.ex ≠ 0 →
    (coreOf s.w i.core).tmq.length < 8 →
    checksPass (o.2.2.2.2.1 i g (launchOn s.w i.core)) = true →
    Completes (o.1 a) s (fun w' => QueuedMover i (o.2.2.2.2.2 i g) s.w w' ∧ OwnRegsKept i s.w w' ∧ IssueFrame i s.w w'))

namespace Sys2Proof.Machine

/-- The accumulator element that a lane of ACC.RD or ACC.WR names (R149): row (u + row) mod 64 of tile t, column
32·c + lane. -/
def accElement (i : Iss) (g : Group) (lane : Nat) : Nat :=
  let row := ((uRead g (bits i.w1 28 6)).toNat + bits i.w1 22 6) % 64
  128 * (64 * bits i.w1 36 4 + row) + (32 * bits i.w1 34 2 + lane)

/-- The whole value of an accumulator element; one not listed is 0. -/
def accVal (m : Matrix) (key : Nat) : W32 := mgetD m.acc key 0

end Sys2Proof.Machine

/-- ACC.RD reads accumulator elements into g registers and ACC.WR writes them from g registers, lane by lane, once no
queued or running matrix instruction has the tile busy (R104, R149) and no element read is poisoned (R470); no other element or register changes. -/
def Obligations.AccumulatorRowsReadAndWrite : Prop :=
  (∀ (a : At) (s : State) (i : Iss), IssuesAs a s i 7 4 (accUses i) → fixedBad accMask i = false →
    (coreOf s.w i.core).clearBusy = false → writeBusy s.w.now (coreOf s.w i.core).mx (accT i) = false →
    (∀ l, l < 32 → i.ex.getLsbD l = true →
      accMark 0 (accElement i (groupOf s.w i.core i.slot) l) ∉ (coreOf s.w i.core).marks) →
    Completes (.accRd a) s (fun w' =>
      let g := groupOf s.w i.core i.slot
      let g' := groupOf w' i.core i.slot
      (∀ r l, l < 32 → gRead g' r l = if r = yR i ∧ i.ex.getLsbD l = true ∧ r ≠ 255 then
        accVal (coreOf s.w i.core).mx (accElement i g l) else gRead g r l) ∧
      g'.u = g.u ∧ g'.p = g.p ∧ g'.threads = pastIssue i g ∧ RegFrame i s.w w')) ∧
  (∀ (a : At) (s : State) (i : Iss), IssuesAs a s i 7 5 (accUses i) → fixedBad accMask i = false →
    (coreOf s.w i.core).clearBusy = false → writeBusy s.w.now (coreOf s.w i.core).mx (accT i) = false →
    readBusy (coreOf s.w i.core).mx (accT i) = false →
    Completes (.accWr a) s (fun w' =>
      let g := groupOf s.w i.core i.slot
      let m := (coreOf s.w i.core).mx
      let m' := (coreOf w' i.core).mx
      (∀ l, l < 32 → i.ex.getLsbD l = true → accVal m' (accElement i g l) = gRead g (yR i) l) ∧
      (∀ k, (∀ l, l < 32 → i.ex.getLsbD l = true → k ≠ accElement i g l) → accVal m' k = accVal m k) ∧
      m'.queue = m.queue ∧ m'.streams = m.streams ∧ m'.buf0 = m.buf0 ∧ m'.buf1 = m.buf1 ∧
      OwnRegsKept i s.w w' ∧ IssueFrame i s.w w'))

namespace Sys2Proof.Machine

/-- The ranges of an instruction's rows that are not written yet, where its destination is memory. -/
def rowRanges (e : MxEntry) (d : TensorDesc) : List (Nat × Nat) :=
  if d.global then ((e.out.zipIdx).drop e.done).map (fun x => (dRowAt d x.2, (e.out.headD []).length)) else []

/-- Whether those rows can be reached, and the state once that has been asked. -/
def unwritten (n : Nat) (e : MxEntry) (d : TensorDesc) (w : World) : VaState × World :=
  let st := rangesState (launchOn w n).ctx true (some (launchOn w n).work) (rowRanges e d) 0 w
  (st.1.1, st.2)

/-- Those rows written in order (R98, R99). -/
def rowsWritten (n : Nat) (e : MxEntry) (d : TensorDesc) (w : World) : World :=
  ((e.out.zipIdx).drop e.done).foldl (fun w x => writeSpace false n d (dRowAt d x.2) (x.1.map (·, false)) w) w

/-- The state once every line request of some ranges is admitted, those before `paid` having been; none while the
partition's bucket holds one (R345). -/
def allPaid (n before paid : Nat) (rs : List (Nat × Nat)) (w : World) : Option World :=
  let lines := rs.flatMap (fun r => rangeLines w n r.1 r.2)
  let p := payLines (launchOn w n).part (lines.drop paid) paid w
  if lines.length ≤ p.1 then some (setPaid n before 0 p.2) else none

/-- The drain port has done what it had the time for, as a matrix instruction that needs the streamer leaves the queue. -/
def drained (n : Nat) (w : World) : World :=
  (flushStreams n (coreOf w n).mx.streams.length (rowsAvailable w.now) w).2

end Sys2Proof.Machine

/-- The steps of the array's own units (R84, R92 to R99). An MLOAD leaves the queue for an idle loader, and its
completion makes the loaded set the shadow; MSWAP exchanges the sets at once, and its slot adds to MX_BUBBLE; an MSTREAM
that accumulates in place enters the array, changing no accumulator row but its own, and leaves it when its last row is
available; one that drains through adds a row when its destination row has returned; an MDRAIN holds the rows it has
converted, cleared if it asks so, and either is complete once its rows are written; the clears of a launch's start leave the
accumulators and the SLM zero. -/
def Obligations.MatrixUnitsAdvance : Prop :=
  (∀ (s : State) (n bubble : Nat) (e : MxEntry) (rest : List MxEntry) (d : TensorDesc) (x : Bool),
    (coreOf s.w n).mx.queue = e :: rest → e.op = .mload d x → mxReady s.w.now (coreOf s.w n) e = true → d.global = false →
    (loadSet n d x 0 s.w).1.2 = false →
    Completes (.matrixDispatch n bubble) s (fun w' =>
      (coreOf w' n).mx.queue = rest ∧
      (∃ k, (coreOf w' n).mx.loader = some { e with
        since := s.w.now, mhz := fld s.w (rPWR_OP (n / 64)) 0 16, wait := k, snap := some (loadSet n d x 0 s.w).1.1 }) ∧
      (coreOf w' n).mx.acc = (coreOf s.w n).mx.acc ∧ (coreOf w' n).slm = (coreOf s.w n).slm ∧ w'.mem = s.w.mem)) ∧
  (∀ (s : State) (n bubble : Nat) (e : MxEntry) (rest : List MxEntry),
    (coreOf s.w n).mx.queue = e :: rest → e.op = .mswap → (coreOf (drained n s.w) n).mx.queue = e :: rest →
    mxReady (drained n s.w).now (coreOf (drained n s.w) n) e = true →
    Completes (.matrixDispatch n bubble) s (fun w' =>
      let w1 := drained n s.w
      (coreOf w' n).mx.queue = rest ∧ (coreOf w' n).mx.active = 1 - (coreOf w1 n).mx.active ∧
      (coreOf w' n).mx.acc = (coreOf w1 n).mx.acc ∧ w'.mem = w1.mem ∧
      (∀ m, e.sem = some m → mgetD (coreOf w' n).sems m 0 = mgetD (coreOf w1 n).sems m 0 + 1) ∧
      rg w' (rMX_BUBBLE n) = (rg w1 (rMX_BUBBLE n) + (bubble + 1)) % 2 ^ 64)) ∧
  (∀ (s : State) (n bubble : Nat) (e : MxEntry) (rest : List MxEntry) (a : TensorDesc) (m k cols st : Nat) (init ip : Bool)
      (r : Rnd) (sat : Bool) (ctr : W64),
    (coreOf s.w n).mx.queue = e :: rest → e.op = .mstream a none m k cols st false init ip r sat ctr →
    let w1 := drained n s.w
    (coreOf w1 n).mx.queue = e :: rest → mxReady w1.now (coreOf w1 n) e = true → a.global = false → cols ≤ 128 →
    (∀ j, j < m → (streamCells n a j k w1).1.2 = false) →
    mxMarked (coreOf w1 n) st (if init then 0 else m) cols = false →
    Completes (.matrixDispatch n bubble) s (fun w' =>
      let x := (coreOf w1 n).mx
      let x' := (coreOf w' n).mx
      x'.queue = rest ∧ (∃ e', x'.streams = x.streams ++ [e'] ∧ e'.op = e.op ∧ e'.sem = e.sem) ∧ x'.active = x.active ∧
      (∀ j, (j < 128 * st ∨ 128 * (st + m) ≤ j) → accVal x' j = accVal x j) ∧
      (coreOf w' n).slm = (coreOf w1 n).slm ∧ (coreOf w' n).sems = (coreOf w1 n).sems ∧ w'.mem = w1.mem)) ∧
  (∀ (s : State) (n bubble : Nat) (e : MxEntry) (rest : List MxEntry) (d : TensorDesc) (m st : Nat) (ip cl : Bool) (r : Rnd)
      (sat : Bool) (ctr : W64),
    (coreOf s.w n).mx.queue = e :: rest → e.op = .mdrain d m st ip cl r sat ctr → mxReady s.w.now (coreOf s.w n) e = true →
    (∀ k ∈ (coreOf s.w n).marks, accMarkIn st m (min d.cols 128) k = false) →
    Completes (.matrixDispatch n bubble) s (fun w' =>
      let l := launchOn s.w n
      let x := (coreOf s.w n).mx
      let x' := (coreOf w' n).mx
      x'.queue = rest ∧ x'.streams = x.streams ∧
      (∃ e', x'.drainer = some e' ∧ e'.op = e.op ∧ e'.sem = e.sem ∧ e'.out = (List.range m).map (fun j =>
        (outRow l.ftz ip d r sat l.seed ctr j (accRow x (st + j) (min d.cols 128))).1)) ∧
      (∀ j, accVal x' j = if cl = true ∧ 128 * st ≤ j ∧ j < 128 * (st + m) then 0 else accVal x j) ∧
      (coreOf w' n).slm = (coreOf s.w n).slm ∧ w'.mem = s.w.mem)) ∧
  (∀ (s : State) (n : Nat) (e : MxEntry) (b : StatBuf), (coreOf s.w n).mx.loader = some e → e.snap = some b →
    Completes (.mloadComplete n) s (fun w' =>
      (coreOf w' n).mx.loader = none ∧ (coreOf w' n).mx.active = (coreOf s.w n).mx.active ∧
      bufOf (coreOf w' n).mx (1 - (coreOf s.w n).mx.active) = b ∧
      ((coreOf s.w n).mx.active ≤ 1 → bufOf (coreOf w' n).mx (coreOf s.w n).mx.active =
        bufOf (coreOf s.w n).mx (coreOf s.w n).mx.active) ∧
      (∀ m, e.sem = some m → mgetD (coreOf w' n).sems m 0 = mgetD (coreOf s.w n).sems m 0 + 1))) ∧
  (∀ (s : State) (n stall : Nat) (e : MxEntry) (rest : List MxEntry), (coreOf s.w n).mx.streams = e :: rest →
    (mxWrites e.op).2 ≠ 0 →
    Completes (.mstreamComplete n stall) s (fun w' =>
      (coreOf w' n).mx.streams = rest ∧ (coreOf w' n).mx.acc = (coreOf s.w n).mx.acc ∧
      (∀ m, e.sem = some m → mgetD (coreOf w' n).sems m 0 = mgetD (coreOf s.w n).sems m 0 + 1) ∧ w'.mem = s.w.mem)) ∧
  (∀ (s : State) (n : Nat) (e : MxEntry) (d : TensorDesc) (m st : Nat) (ip cl : Bool) (r : Rnd) (sat : Bool) (ctr : W64),
    (coreOf s.w n).mx.drainer = some e → e.op = .mdrain d m st ip cl r sat ctr → d.global = false →
    Completes (.mdrainComplete n) s (fun w' =>
      (coreOf w' n).mx.drainer = none ∧ (coreOf w' n).mx.acc = (coreOf s.w n).mx.acc ∧
      (∀ k, e.sem = some k → mgetD (coreOf w' n).sems k 0 = mgetD (coreOf s.w n).sems k 0 + 1) ∧ w'.mem = s.w.mem)) ∧
  (∀ (s : State) (w2 : World) (n : Nat) (e : MxEntry) (d : TensorDesc) (m st : Nat) (ip cl : Bool) (r : Rnd) (sat : Bool)
      (ctr : W64),
    (coreOf s.w n).mx.drainer = some e → e.op = .mdrain d m st ip cl r sat ctr →
    (unwritten n e d s.w).1 = .ready → chipDown (unwritten n e d s.w).2 (launchOn s.w n).ctx (rowRanges e d) = false →
    allPaid n e.before e.paid (rowRanges e d) (unwritten n e d s.w).2 = some w2 →
    Completes (.mdrainComplete n) s (fun w' =>
      w' = updCore n (fun c => semSignal e.sem { c with mx := { c.mx with drainer := none } }) (rowsWritten n e d w2))) ∧
  (∀ (s : State) (w2 : World) (n stall : Nat) (e : MxEntry) (rest : List MxEntry) (a d : TensorDesc) (m k cols st : Nat)
      (init ip : Bool) (r : Rnd) (sat : Bool) (ctr : W64),
    (coreOf s.w n).mx.streams = e :: rest → e.op = .mstream a (some d) m k cols st true init ip r sat ctr →
    e.out.length = m → (unwritten n e d s.w).1 = .ready →
    chipDown (unwritten n e d s.w).2 (launchOn s.w n).ctx (rowRanges e d) = false →
    allPaid n e.before e.paid (rowRanges e d) (unwritten n e d s.w).2 = some w2 →
    Completes (.mstreamComplete n stall) s (fun w' =>
      w' = updCore n (fun c => semSignal e.sem { c with mx := { c.mx with streams := rest } })
        (bump (rowsWritten n e d w2) (rMX_DRAIN_STALL n) stall))) ∧
  (∀ (s : State) (n : Nat), (coreOf s.w n).clearBusy = true →
    Completes (.launchClearComplete n) s (fun w' =>
      (coreOf w' n).clearBusy = false ∧ (∀ k, accVal (coreOf w' n).mx k = 0) ∧ (∀ a, byteAt (coreOf w' n).slm a = 0) ∧
      (coreOf w' n).slmPoison = [] ∧ (coreOf w' n).groups = (coreOf s.w n).groups ∧ w'.mem = s.w.mem)) ∧
  (∀ (s : State) (w1 w2 : World) (n : Nat) (e : MxEntry) (idx : Nat) (a d : TensorDesc) (m k cols st : Nat) (ip : Bool) (r : Rnd)
      (sat : Bool) (ctr : W64),
    readingStream (coreOf s.w n).mx = some (e, idx) → e.op = .mstream a (some d) m k cols st true false ip r sat ctr →
    let full := decide (64 ≤ e.out.length - e.done)
    flushStreams n (if full then idx + 1 else idx) (·.out.length) s.w = (true, w1) →
    let reach := rangeState (launchOn s.w n).ctx (dRowAt d e.out.length) (4 * cols) false (some (launchOn s.w n).work) w1
    reach.1.1 = .ready → allPaid n e.before (if full then 0 else e.paid) [(dRowAt d e.out.length, 4 * cols)] reach.2 = some w2 →
    (drainThrough n (e.snap.getD StatBuf.reset) a d e.out.length k cols false ip r sat ctr w2).1.2 = false →
    idx < (coreOf w2 n).mx.streams.length →
    Completes (.drainDestinationReadReturn n) s (fun w' =>
      ∃ e', (coreOf w' n).mx.streams[idx]? = some e' ∧ e'.out.length = e.out.length + 1 ∧
        (coreOf w' n).mx.acc = (coreOf w2 n).mx.acc))

/-- The mover takes the instruction at the head of its queue when it is idle: a copy into the SLM whose group has no earlier
write outstanding moves its rows, a transposition writes its rows to the SLM, a copy to memory has read its source; the
completion writes what such a copy holds, signals the semaphore and frees the mover (R179 to R182). A WATCH whose slot takes no
part from it signals at once (R160). -/
def Obligations.TensorMoverAdvances : Prop :=
  (∀ (s : State) (n : Nat) (e : TmEntry) (rest : List TmEntry) (a b : TensorDesc),
    (coreOf s.w n).tmq = e :: rest → (coreOf s.w n).tmRun = none → e.op = .copy a b → a.global = false → b.global = false →
    tmMayRead (coreOf s.w n) e = true →
    Completes (.tensorMoverStart n) s (fun w' =>
      let w1 := setPaid n e.before 0 s.w
      (coreOf w' n).tmq = rest ∧ (coreOf w' n).tmRun = some { e with parts := [], paid := 0 } ∧
      (coreOf w' n).mx = (coreOf w1 n).mx ∧
      (coreOf w' n).slm = (coreOf (iter a.rows (fun r w => copyRow n a b r w) w1) n).slm ∧
      w'.mem = s.w.mem ∧ ∀ k, k ≠ n → coreOf w' k = coreOf s.w k)) ∧
  (∀ (s : State) (n : Nat) (e : TmEntry) (rest : List TmEntry) (d : TensorDesc) (k : Nat),
    (coreOf s.w n).tmq = e :: rest → (coreOf s.w n).tmRun = none → e.op = .watch d k → watchTaken s.w n k = false →
    (cloveOf s.w k).st ≠ 2 →
    Completes (.tensorMoverStart n) s (fun w' =>
      (coreOf w' n).tmq = rest ∧ (coreOf w' n).tmRun = none ∧ (coreOf w' n).mx = (coreOf s.w n).mx ∧
      (∀ m, e.sem = some m → mgetD (coreOf w' n).sems m 0 = mgetD (coreOf s.w n).sems m 0 + 1) ∧
      w'.mem = s.w.mem ∧ ∀ j, j ≠ n → coreOf w' j = coreOf s.w j)) ∧
  (∀ (s : State) (w2 : World) (n : Nat) (e : TmEntry) (rest : List TmEntry) (a b : TensorDesc) (xposed : Bool),
    (coreOf s.w n).tmq = e :: rest → (coreOf s.w n).tmRun = none →
    e.op = (if xposed then .xpose a b else .copy a b) →
    (tmLineCount e.op = 0 ∨ trackerFull s.w n = false) → tmMayRead (coreOf s.w n) e = true →
    let rd := tensorRanges a a.rows (dRowBytes a)
    let r1 := rangesState (launchOn s.w n).ctx false (some (launchOn s.w n).work) rd 0 s.w
    r1.1.1 = .ready → chipDown r1.2 (launchOn s.w n).ctx rd = false → allPaid n e.before e.paid rd r1.2 = some w2 →
    Completes (.tensorMoverStart n) s (fun w' =>
      let moved := if xposed then ([], xposeAll n a b w2) else if b.global then copyParts n a b w2
        else ([], iter a.rows (fun r w => copyRow n a b r w) w2)
      w' = updCore n (fun c => { c with
        tmq := rest, tmRun := some { e with parts := moved.1, paid := 0 }
        tmLines := min (tmLineCount e.op) (min (512 - coreLines c) (16384 - dieLines moved.2 n)) }) moved.2)) ∧
  (∀ (s : State) (n : Nat) (e : TmEntry), (coreOf s.w n).tmRun = some e → (∀ d k, e.op ≠ .watch d k) → e.parts = [] →
    Completes (.tensorMoverComplete n) s (fun w' =>
      (coreOf w' n).tmRun = none ∧ (coreOf w' n).slm = (coreOf s.w n).slm ∧
      (∀ m, e.sem = some m → mgetD (coreOf w' n).sems m 0 = mgetD (coreOf s.w n).sems m 0 + 1) ∧
      w'.mem = s.w.mem ∧ ∀ k, k ≠ n → coreOf w' k = coreOf s.w k)) ∧
  (∀ (s : State) (w2 : World) (n : Nat) (e : TmEntry) (a b : TensorDesc), (coreOf s.w n).tmRun = some e → e.op = .copy a b →
    let wr := e.parts.map (fun p => (p.1, p.2.length))
    let r := rangesState (launchOn s.w n).ctx true (some (launchOn s.w n).work) wr 0 s.w
    r.1.1 = .ready → chipDown r.2 (launchOn s.w n).ctx wr = false → allPaid n e.before e.paid wr r.2 = some w2 →
    Completes (.tensorMoverComplete n) s (fun w' =>
      w' = tmDone n (e.parts.foldl (fun w p => writeSpace true n b p.1 p.2 w) w2)))

/-! ### Accesses on their way, and the cores' own events (chapters 05, 07, 10) -/

namespace Sys2Proof.Machine

/-- What the check of every lane of an access finds, and the physical addresses. -/
def checked (n : Nat) (l : CoreLaunch) (x : Access) (w : World) : LaneCheck := (checkLanes n l x w).1.1

/-- The block once an access has been sent to its lines. -/
def sentAccess (n : Nat) (l : CoreLaunch) (x : Access) (w : World) : World :=
  if isWrite x then writeLines n x (checkLanes n l x w).2.1 w else loadLines n x (checkLanes n l x w).2.1 w

/-- No hart holds a line modified, and no write waits for a reservation. -/
def memoryAlone (w : World) : Prop := (∀ g, ownerOf w g = none) ∧ w.mem.later = []

/-- Nor does any hart's reservation hold off a write. -/
def writesAlone (w : World) : Prop := memoryAlone w ∧ ∀ g, heldBy w none g = false

end Sys2Proof.Machine

/-- SLM_GRANT performs the oldest SLM access of the quarter whose turn it is (R168): a store's bytes are in the SLM, a
store changes no register and no global memory, and the access is gone. -/
def Obligations.SlmGrantPerformsOneAccess : Prop :=
  ∀ (s : State) (n cycles q : Nat) (x : Access), (coreOf s.w n).clearBusy = false → (coreOf s.w n).stopped = false →
    grantQuarter (coreOf s.w n) = some q → (coreOf s.w n).slmq.find? (fun a => a.slot / 16 = q) = some x →
    slmPoisonRead (coreOf s.w n) x = false →
    Completes (.slmGrant n cycles) s (fun w' =>
      (coreOf w' n).slmq = (coreOf s.w n).slmq.filter (·.id ≠ x.id) ∧ (coreOf w' n).lastGrant = q ∧
      (coreOf w' n).accs = (coreOf s.w n).accs ∧ w'.mem = s.w.mem ∧ w'.fe = s.w.fe ∧
      (∀ k, k ≠ n → coreOf w' k = coreOf s.w k) ∧
      (x.kind = .st → (coreOf w' n).groups = (coreOf s.w n).groups ∧
        ∀ a, (∀ r ∈ x.reqs, a < r.addr ∨ r.addr + sizeBytes x.size ≤ a) →
          byteAt (coreOf w' n).slm a = byteAt (coreOf s.w n).slm a) ∧
      (∀ r, x.kind = .st → x.reqs = [r] →
        bytesAt (coreOf w' n).slm r.addr (sizeBytes x.size) = r.data % 256 ^ sizeBytes x.size) ∧
      ((x.kind = .ld ∨ x.kind = .ldUniform) → (coreOf w' n).slm = (coreOf s.w n).slm))

/-- A global access goes its way (R123, R173, R247, R252): an access whose lanes all translate is ready for its lines at
the physical addresses of R247, its check touching no memory, and waits while the trackers of R244 have no room for its
lines; a walk's end returns the access to its check. -/
def Obligations.GlobalAccessesAreCheckedBeforeMemoryIsTouched : Prop :=
  (∀ (s : State) (n id pa lg : Nat) (nm : Bool) (l : CoreLaunch) (x : Access), (coreOf s.w n).launch = some l →
    (coreOf s.w n).accs.find? (·.id = id) = some x → x.phase = .unchecked → earlierWrite (coreOf s.w n) x = false →
    checked n l x s.w = .ok pa lg nm → trackerOver (sentAccess n l x s.w) n = false →
    Completes (.memoryAccessCheck n id) s (fun w' =>
      ∃ x', (coreOf w' n).accs.find? (·.id = id) = some x' ∧ x'.phase = .lines ∧
        x'.pas = (checkLanes n l x s.w).2.1.map (fun p => (p.1, p.2.1)) ∧ x'.reqs = x.reqs ∧
        w'.mem = s.w.mem ∧ w'.fe = s.w.fe ∧ (coreOf w' n).groups = (coreOf s.w n).groups ∧
        ∀ k, k ≠ n → coreOf w' k = coreOf s.w k)) ∧
  (∀ (s : State) (n id pa lg : Nat) (nm : Bool) (l : CoreLaunch) (x : Access), (coreOf s.w n).launch = some l →
    (coreOf s.w n).accs.find? (·.id = id) = some x → x.phase = .unchecked → earlierWrite (coreOf s.w n) x = false →
    checked n l x s.w = .ok pa lg nm → trackerOver (sentAccess n l x s.w) n = true →
    exec (.memoryAccessCheck n id) s = .next s) ∧
  (∀ (s : State) (n id : Nat) (l : CoreLaunch) (x : Access), (coreOf s.w n).launch = some l →
    (coreOf s.w n).accs.find? (·.id = id) = some x → x.phase = .walking →
    Completes (.tableWalkComplete n id) s (fun w' =>
      (coreOf w' n).accs.find? (·.id = id) = some { x with phase := .unchecked } ∧
      (memoryAlone s.w → w'.mem.bytes = s.w.mem.bytes) ∧ w'.mem.pte = s.w.mem.pte ∧ (coreOf w' n).groups = (coreOf s.w n).groups ∧ w'.fe = s.w.fe))

/-- What a load returns to a lane: the bytes of its line, extended as its size says. -/
def Sys2Proof.Machine.returned (c : Core) (x : Access) (lane : Nat) : Nat :=
  (laneLoad (match c.launch with | some l => l.ftz | none => false) x lane).1

/-- LOAD_RETURN and WRITE_ACKNOWLEDGE end an access every line of which is served (R173, R183): a load writes the loaded
values to its registers and no others, and neither touches memory. -/
def Obligations.ReturnsEndAccesses : Prop :=
  (∀ (s : State) (n id : Nat) (x : Access) (g : Group), (coreOf s.w n).accs.find? (·.id = id) = some x → x.kind = .ld →
    accessDone s.w n x = true → x.poison = false → (coreOf s.w n).stopped = false → accGroup? (coreOf s.w n) x = some g →
    (x.reqs.map (·.lane)).Nodup → (∀ r ∈ x.reqs, r.lane < 32) →
    Completes (.loadReturn n id) s (fun w' =>
      (∀ y ∈ (coreOf w' n).accs, y.id ≠ id) ∧ w'.mem = s.w.mem ∧ w'.fe = s.w.fe ∧
      ∃ g', mget (coreOf w' n).groups x.slot = some g' ∧ g'.threads = g.threads ∧ g'.u = g.u ∧ g'.p = g.p ∧
        (∀ r ∈ x.reqs, ∀ k, k < sizeRegs x.size → x.dst + k ≠ 255 →
          gRead g' (x.dst + k) r.lane = BitVec.ofNat 32 (returned (coreOf s.w n) x r.lane / 2 ^ (32 * k))) ∧
        (∀ r l, l < 32 → (r < x.dst ∨ x.dst + sizeRegs x.size ≤ r ∨ ∀ y ∈ x.reqs, y.lane ≠ l) →
          gRead g' r l = gRead g r l))) ∧
  (∀ (s : State) (n id : Nat) (x : Access), (coreOf s.w n).accs.find? (·.id = id) = some x → x.kind = .st →
    x.phase = .lines → x.todo = [] → chipWaits s.w n id = false →
    Completes (.writeAcknowledge n id) s (fun w' =>
      (coreOf w' n).accs = (coreOf s.w n).accs.filter (·.id ≠ id) ∧ (coreOf w' n).groups = (coreOf s.w n).groups ∧
      (coreOf w' n).flags = (coreOf s.w n).flags ||| x.fl ∧ w'.mem = s.w.mem ∧ w'.fe = s.w.fe))

namespace Sys2Proof.Machine

/-- No hart holds a copy of a line that a device write would have to fetch, and no write of it waits for a reservation:
neither granule of it is held M. -/
def noOwner (w : World) (line : Nat) : Prop :=
  ownerOf w (2 * line) = none ∧ ownerOf w (2 * line + 1) = none ∧ w.mem.later = []

end Sys2Proof.Machine

/-- SLICE_LINE_REQUEST serves a line that is present at its home (R237, R238): a store's bytes are written where its lanes
say and nowhere else, and the line is dirty; a load takes the line as the home holds it and writes nothing. Either way
the access has one line less to be served, and the partition's bucket has admitted it (R345). -/
def Obligations.LineRequestsAreServedAtTheHome : Prop :=
  ∀ (s : State) (n id line victim : Nat) (x : Access), (coreOf s.w n).accs.find? (·.id = id) = some x → x.phase = .lines →
    line ∈ x.todo → homeBusy s.w line = false → (line / 512) ∉ s.w.mem.held → earlierRequest s.w (coreOf s.w n) x line = false →
    heldByStore (coreOf s.w n) x line = false → isMain (128 * line) = true → inChip (128 * line) = false →
    inPcie (128 * line) = false → lineAdmitted s.w (launchOn s.w n).part (128 * line) = true → noOwner s.w line → (∃ d, mget s.w.mem.lines line = some d) →
    (x.kind = .st → heldByReservation s.w x line false = false →
      Completes (.sliceLineRequest n id line victim) s (fun w' =>
        (∀ a, byteAt w'.mem.bytes a = (mget (storeOverlay (match (coreOf s.w n).launch with | some l => l.ftz | none => false)
          x line).1 a).getD (byteAt s.w.mem.bytes a)) ∧
        mget w'.mem.lines line = some true ∧
        ∃ x', (coreOf w' n).accs.find? (·.id = id) = some x' ∧ x'.todo = x.todo.filter (· ≠ line))) ∧
    (x.kind = .ld → x.const = true →
      Completes (.sliceLineRequest n id line victim) s (fun w' =>
        w'.mem.bytes = s.w.mem.bytes ∧ w'.mem.poison = s.w.mem.poison ∧
        ∃ x', (coreOf w' n).accs.find? (·.id = id) = some x' ∧ x'.todo = x.todo.filter (· ≠ line) ∧
          mget x'.data line = some (listAt s.w.mem.bytes (128 * line) 128)))

/-- The memory side's own events (R234, R236, R240, R246, R252): a run installs every waiting line of its sector and its
fills are gone; the bulk requests for a line that have waited age_limit become class 0 and are counted; a slice or the system cache that has invalidated serves requests; a
confirmed invalidation leaves its keys in no translation cache. None of them changes a byte of memory. A cleared page,
which lies outside the page-table carve-out, is zero (R253). -/
def Obligations.MemorySideEventsKeepMemory : Prop :=
  (∀ (s : State) (line : Nat) (f : Fill), s.w.mem.fills.find? (·.line = line) = some f →
    (∀ x ∈ s.w.mem.fills, x.line / 4 = line / 4 ∨ homeOf s.w x.line ≠ homeOf s.w line) →
    Completes (.hbmRunComplete line) s (fun w' =>
      (∀ x ∈ w'.mem.fills, x.line / 4 ≠ line / 4) ∧ (mget w'.mem.lines line).isSome = true ∧ w'.mem.bytes = s.w.mem.bytes ∧
      w'.cores = s.w.cores)) ∧
  (∀ (s : State) (line : Nat) (f : Fill) (r : FillReq), s.w.mem.fills.find? (·.line = line) = some f → r ∈ f.reqs →
    r.aged = false → 1 ≤ r.cls → r.cls ≤ 3 → fld s.w rMEM_PRIO 16 16 ≤ 2 * (s.w.now - r.since) →
    Completes (.agePromote line) s (fun w' =>
      (∃ f', w'.mem.fills.find? (·.line = line) = some f' ∧ fillClass f' = 0) ∧ w'.mem.bytes = s.w.mem.bytes ∧
      rg w' rMEM_AGE_PROMOTE = (rg s.w rMEM_AGE_PROMOTE + (f.reqs.filter (ripe s.w)).length) % 2 ^ 64)) ∧
  (∀ (s : State) (k : Nat), k < 12 →
    Completes (.sliceInvalidateComplete k) s (fun w' =>
      bit w'.mem.invBusy k = false ∧ (∀ j, j ≠ k → bit w'.mem.invBusy j = bit s.w.mem.invBusy j) ∧
      w'.mem.bytes = s.w.mem.bytes)) ∧
  (∀ (s : State), Completes .systemCacheInvalidateComplete s (fun w' =>
      w'.mem.sysBusy = false ∧ w'.mem.bytes = s.w.mem.bytes ∧ w'.regs = s.w.regs)) ∧
  (∀ (s : State) (r : InvReq) (rest : List InvReq), s.w.mem.inval = r :: rest →
    Completes .tlbInvalidateConfirmed s (fun w' =>
      ((∀ frame units part bad, r.cont ≠ .reloaded frame units part bad) → ∃ more, w'.mem.inval = rest ++ more) ∧
      ∀ k ∈ r.keys, (∀ n, mget (coreOf w' n).tlb k = none) ∧ ∀ n, mget (clusterTlb w' n) k = none)) ∧
  (∀ (s : State) (r : InvReq) (rest : List InvReq), s.w.mem.inval = r :: rest → r.cont = .nothing →
    Completes .tlbInvalidateConfirmed s (fun w' =>
      w'.mem.inval = rest ∧ (∀ k ∈ r.keys, (∀ n, mget (coreOf w' n).tlb k = none) ∧ ∀ n, mget (clusterTlb w' n) k = none) ∧
      w'.mem.bytes = s.w.mem.bytes ∧ w'.mem.pte = s.w.mem.pte)) ∧
  (∀ (s : State) (frame : Nat) (r : MapRun), s.w.mem.maps.find? (fun m => m.dirty.contains frame) = some r →
    writesAlone s.w → s.w.mem.tableRoom ≤ frame → (∀ t ∈ s.w.mem.tables, t.2 + 4096 ≤ frame) →
    Completes (.pageClearComplete frame) s (fun w' =>
      (∀ m ∈ w'.mem.maps, frame ∉ m.dirty) ∧ (∀ a, a < pageBytes r.page2m → byteAt w'.mem.bytes (frame + a) = 0) ∧
      w'.cores = s.w.cores))

/-- The cores' own events: FT_WAIT_RELEASE readies the threads whose target the core's replica has reached (R377); a quarter
with waiting threads and none active gates, while no stop or pre-emption ends its launch there, and its gated cycles are counted (R383); a core of a stopped launch whose
accesses have completed reports, and without a write it had sent it changes no memory (R124); GROUP_PLACE gives the
launch's next group a slot of the core that freed one first, in the state of R112. -/
def Obligations.CoreEvents : Prop :=
  (∀ (s : State) (n : Nat), Completes (.ftWaitRelease n) s (fun w' =>
      (coreOf s.w n).ftSeen ≤ (coreOf w' n).ftSeen ∧
      (∀ k g t key, mget (coreOf w' n).groups k = some g → t ∈ g.threads → t.st = .waitFrame key → (coreOf w' n).ftSeen < key) ∧
      w'.mem = s.w.mem ∧ w'.regs = s.w.regs ∧ ∀ k, k ≠ n → coreOf w' k = coreOf s.w k)) ∧
  (∀ (s : State) (n q cycles k : Nat) (g : Group) (t : Thread) (sem : Nat) (v : W32), q < 4 →
    quarterActive (coreOf s.w n) q = false → mget (coreOf s.w n).groups k = some g → k / 16 = q → t ∈ g.threads →
    t.st = .waitSem sem v → (coreOf s.w n).stopped = false →
    (∀ l, (coreOf s.w n).launch = some l → l.part ∉ s.w.sched.preempt) →
    Completes (.quarterGate n q cycles) s (fun w' =>
      q ∈ (coreOf w' n).gated ∧ (coreOf w' n).groups = (coreOf s.w n).groups ∧
      rg w' (rSY_GATED n) = (rg s.w (rSY_GATED n) + cycles) % 2 ^ 64 ∧ w'.mem = s.w.mem)) ∧
  (∀ (s : State) (n part : Nat) (l : Launch), s.w.fe.launches.find? (fun p =>
      p.2.cores.contains n && p.2.stop ≠ none && !(p.2.halted.contains n)) = some (part, l) →
    (coreOf s.w n).accs = [] → mget s.w.fe.launches part = some l →
    let c := if (coreOf s.w n).stopped then coreOf s.w n else stopCore (coreOf s.w n)
    Completes (.coreStopped n) s (fun w' =>
      (coreOf w' n).stopped = true ∧ (coreOf w' n).cut = [] ∧ (coreOf w' n).groups = (coreOf s.w n).groups ∧
      mget w'.fe.launches part = some { l with halted := l.halted ++ [n] } ∧
      (c.cut = [] → w'.mem = s.w.mem))) ∧
  (∀ (s : State) (p n slot t : Nat) (l : Launch) (cl : CoreLaunch), mget s.w.fe.launches p = some l → nextFreed l = some (t, n) →
    l.stop = none → p ∉ s.w.sched.preempt → (coreOf s.w n).launch = some cl → l.placed < l.groups →
    coreRoom (coreOf s.w n) = true → placeSlot (coreOf s.w n) = some slot →
    Completes (.groupPlace p n) s (fun w' =>
      (∃ g, mget (coreOf w' n).groups slot = some g ∧ g.number = l.placed ∧ g.p = [] ∧
        (∀ r, uRead g r = if r = 0 then BitVec.ofNat 32 l.placed else if r = 1 then BitVec.ofNat 32 l.groups
          else if r = 2 then BitVec.ofNat 32 cl.rank else if r = 3 then BitVec.ofNat 32 slot else 0) ∧
        (∀ r k, k < 32 → gRead g r k = if r = 0 then BitVec.ofNat 32 k else 0) ∧
        g.threads = List.replicate 32 ⟨l.entry, .active⟩) ∧
      mget w'.fe.launches p = some { l with placed := l.placed + 1, freed := l.freed.erase (t, n) } ∧
      (∀ k, k ≠ slot → mget (coreOf w' n).groups k = mget (coreOf s.w n).groups k) ∧ w'.mem = s.w.mem))

namespace Sys2Proof.Machine

/-- Nothing the launch has done names an earlier trap of the core. -/
def noTrapYet (n : Nat) (w : World) : Prop := fld w (rKX_TRAP_INFO n) 63 1 = 0 ∧ fld w (rKX_TRAP_INFO n) 62 1 = 0

end Sys2Proof.Machine

/-- A kernel trap (R123 to R126): BRK's effect, and what any command of class INT, FP, CVT or CTRL meets at an encoding
that names no operation. The core's first trap is recorded with its slot, context, lanes, kind and program counter, the
message of R125 is on its way, the core stops, and the launch's context is LOST with cause 1. -/
def Obligations.TrapsAreRecordedAndStopTheCore : Prop :=
  ∀ (a : At) (s : State) (i : Iss) (cl : CoreLaunch) (x : Ctx), issued a s.w = some i → (coreOf s.w i.core).launch = some cl →
    ctxOf s.w cl.ctx = some x → x.st = .live → noTrapYet i.core s.w →
    let trapped (kind : Nat) (w' : World) : Prop :=
      rg w' (rKX_TRAP_INFO i.core) = (2 ^ 63 + i.slot * 2 ^ 56 + cl.ctx * 2 ^ 32 + i.path.toNat) % 2 ^ 64 ∧
      rg w' (rKX_TRAP_PC i.core) = (kind * 2 ^ 56 + bits i.pc 3 54) % 2 ^ 64 ∧
      (∃ m ∈ w'.irq.inbox, m.src = 0x100 + i.core ∧ m.ctx = cl.ctx ∧ m.cookie = kind * 2 ^ 56 + bits i.pc 3 54) ∧
      (coreOf w' i.core).stopped = true ∧
      (∃ fl, ctxOf w' cl.ctx = some { x with st := .lost, cause := 1, flags := x.flags ||| fl }) ∧
      w'.mem = s.w.mem ∧ w'.harts = s.w.harts
    (IssuesAs a s i 6 6 noUse → fixedBad (fm 8 32) i = false → i.ex ≠ 0 → Completes (.brk a) s (trapped 7)) ∧
    (opDefined (clsOp i.w1).1 (clsOp i.w1).2 = false → bit i.w1 53 = false →
      Completes (.iadd a) s (trapped 1) ∧ Completes (.fadd a) s (trapped 1) ∧ Completes (.cvt a) s (trapped 1) ∧
      Completes (.nop a) s (trapped 1))

/-! ### Registers, messages and rings (chapters 01 and 11; R5 to R8, R15 to R17, R287 to R291, R316) -/

namespace Sys2Proof.Machine

/-- The memory a ring lies in. -/
def ringMem (r : Nat) (w : World) : Map Byte := if isHostRing r then w.mem.host else w.mem.bytes

/-- The first word of a message as a ring holds it (R15, R17). -/
def msgWord (m : Msg) (seq : Nat) : Nat := m.ctx % 2 ^ 20 * 2 ^ 44 + m.status % 256 * 2 ^ 36 + m.src % 4096 * 2 ^ 24 + seq

/-- The sequence number a source unit's next message to a ring takes (R17). -/
def msgSeq (w : World) (r src : Nat) : Nat := mgetD w.irq.seqs (4096 * r + src) 0

end Sys2Proof.Machine

/-- A write of CC_ROUTE stores the bits its RW fields have and nothing else, and a read returns what is stored; a register
access R8 does not let through stores nothing, reads 0 and is counted and logged. -/
def Obligations.RoutingRegistersStoreAndUnmappedAccessesAreLogged : Prop :=
  (∀ (s : State) (agent n v : Nat), n < 512 →
    Completes (.registerWrite agent (0x5000 + 8 * n) 8 v) s (fun w' =>
      rg w' (0x5000 + 8 * n) &&& 0x33F = v &&& 0x33F ∧
      rg w' (0x5000 + 8 * n) &&& (2 ^ 64 - 1 - 0x33F) = rg s.w (0x5000 + 8 * n) &&& (2 ^ 64 - 1 - 0x33F) ∧ (∀ o, o ≠ 0x5000 + 8 * n → rg w' o = rg s.w o) ∧
      w' = { s.w with regs := w'.regs })) ∧
  (∀ (s : State) (n tag : Nat), n < 512 →
    Completes (.registerReadCapture (0x5000 + 8 * n) 8 tag) s (fun w' =>
      w' = { s.w with outs := ⟨.pcie, [tag, 0], natLe (rg s.w (0x5000 + 8 * n)) 8⟩ :: s.w.outs })) ∧
  (∀ (s : State) (off size : Nat), accessOk s.w off size = false →
    Completes (.unmappedAccess off size) s (fun w' =>
      rg w' rRAS_ACCESS_ERR = (rg s.w rRAS_ACCESS_ERR + 1) % 2 ^ 64 ∧
      (∃ e, mget w'.log (fld s.w rRAS_LOG_STATUS 32 32 % 256) = some e ∧ e.w0 = 9 * 2 ^ 56 + 4 * 2 ^ 52 + 0x026 * 2 ^ 40 ∧
        e.w1 = off % 2 ^ 57) ∧
      w'.mem = s.w.mem ∧ w'.irq = s.w.irq ∧ w'.cores = s.w.cores)) ∧
  (∀ (s : State) (agent off size v : Nat), accessOk s.w off size = false →
    Completes (.registerWrite agent off size v) s (fun w' =>
      (∀ o, o ≠ rRAS_ACCESS_ERR → o ≠ rRAS_LOG_STATUS → rg w' o = rg s.w o) ∧
      rg w' rRAS_ACCESS_ERR = (rg s.w rRAS_ACCESS_ERR + 1) % 2 ^ 64 ∧ w'.mem = s.w.mem ∧ w'.irq = s.w.irq)) ∧
  (∀ (s : State) (off size tag : Nat), accessOk s.w off size = false →
    Completes (.registerReadCapture off size tag) s (fun w' => w'.outs.head? = some ⟨.pcie, [tag, 0], natLe 0 size⟩))

/-- The oldest message of a source unit that goes to one ring, enabled and with room, takes the next sequence number of
its unit for that ring and its 16 bytes stand in the ring's next entry (R17, R287, R288), unless a hart's reservation
holds its granule (R279). The tail and the head are not moved yet. -/
def Obligations.MessagesTakeTheirNumberAndEntry : Prop :=
  ∀ (s : State) (m : Msg) (r : Nat), s.w.irq.inbox.find? (·.src = m.src) = some m → msgRings s.w m = [r] → r < 128 →
    ringOn s.w r = true → ringFull s.w r = false → (∀ x ∈ s.w.irq.waiting, x.ring ≠ r) →
    let a := ringBase s.w r + 64 + 16 * (ringNext s.w r % ringSize s.w r)
    (isHostRing r = true ∨ isMain a = true ∧ heldBy s.w none (a / 64) = false) →
    Completes (.messageDelivery m.src) s (fun w' =>
      listAt (ringMem r w') a 16 = natLe (msgWord m (msgSeq s.w r m.src)) 8 ++ natLe (m.cookie % 2 ^ 64) 8 ∧
      msgSeq w' r m.src = (msgSeq s.w r m.src + 1) % 2 ^ 24 ∧ (∀ r' u, 4096 * r' + u ≠ 4096 * r + m.src → msgSeq w' r' u = msgSeq s.w r' u) ∧
      w'.irq.inbox = s.w.irq.inbox.erase m ∧ w'.irq.waiting = s.w.irq.waiting ∧
      mgetD w'.irq.flight r [] = mgetD s.w.irq.flight r [] ++ [false] ∧
      rg w' (ringTail r) = rg s.w (ringTail r) ∧ rg w' (ringHead r) = rg s.w (ringHead r) ∧ w'.cores = s.w.cores ∧ w'.fe = s.w.fe)

/-- A message whose entry is acknowledged moves the ring's tail by one, and its tail once acknowledged rings the
destination, neither before the write it follows has reached its home: an identity pending in the hart's interrupt file, which ends the hart's wait where it is enabled (R280), or
an MSI-X vector. Enabling a ring that passes the checks
of R291 empties it: tail, head, drop count and every sequence number are 0; disabling it drops what waits; a head within
the ring's size is taken, and one beyond it is not (R286, R288, R289, R291, R316). -/
def Obligations.RingsMoveTheirTailsAndTakeHeads : Prop :=
  (∀ (s : State) (r : Nat), 64 ≤ r → r < 128 → ringAhead s.w r ≠ 0 →
    Completes (.ringEntryAcknowledged r) s (fun w' =>
      rg w' (ringTail r) = (rg s.w (ringTail r) + 1) % 2 ^ 64 ∧ ringAhead w' r = ringAhead s.w r - 1 ∧
      listAt w'.mem.host (ringBase s.w r + 8) 8 = natLe ((rg s.w (ringTail r) + 1) % 2 ^ 64) 8 ∧
      (∀ o, o ≠ ringTail r → rg w' o = rg s.w o) ∧ w'.mem.bytes = s.w.mem.bytes)) ∧
  (∀ (s : State) (r : Nat), r < 64 → ringAhead s.w r ≠ 0 → isMain (ringBase s.w r + 8) = true →
    heldBy s.w none ((ringBase s.w r + 8) / 64) = false → ringHeld s.w r (ringEntryAt s.w r) 16 = false →
    Completes (.ringEntryAcknowledged r) s (fun w' =>
      rg w' (ringTail r) = (rg s.w (ringTail r) + 1) % 2 ^ 64 ∧ ringAhead w' r = ringAhead s.w r - 1 ∧
      listAt w'.mem.bytes (ringBase s.w r + 8) 8 = natLe ((rg s.w (ringTail r) + 1) % 2 ^ 64) 8)) ∧
  (∀ (s : State) (r : Nat) (rest : List Bool), 64 ≤ r → r < 128 → mgetD s.w.irq.flight r [] = true :: rest →
    Completes (.ringTailAcknowledged r) s (fun w' =>
      w'.outs = ⟨.msix, [fld s.w (rFE_HN_CFG (r - 64)) 32 8], []⟩ :: s.w.outs ∧ mgetD w'.irq.flight r [] = rest ∧
      w'.mem = s.w.mem ∧ w'.regs = s.w.regs)) ∧
  (∀ (s : State) (r : Nat), r < 64 →
    (ringHeld s.w r (ringEntryAt s.w r) 16 = true → exec (.ringEntryAcknowledged r) s = .next s) ∧
    (ringHeld s.w r (ringBase s.w r + 8) 8 = true → exec (.ringTailAcknowledged r) s = .next s)) ∧
  (∀ (s : State) (r : Nat) (rest : List Bool), r < 64 → mgetD s.w.irq.flight r [] = true :: rest →
    ringHeld s.w r (ringBase s.w r + 8) 8 = false →
    Completes (.ringTailAcknowledged r) s (fun w' =>
      fld s.w (rCC_NQ_CFG r) 32 8 ∈ mgetD w'.irq.imsic (8 * fld s.w (rCC_NQ_CFG r) 24 5 + fld s.w (rCC_NQ_CFG r) 20 3) [] ∧
      (let h := fld s.w (rCC_NQ_CFG r) 24 5
       if bits (csrsOf s.w h).mie (fileBit (fld s.w (rCC_NQ_CFG r) 20 3)) 1 = 1 then ∀ sto, (hartOf w' h).run ≠ .wrs sto
       else hartOf w' h = hartOf s.w h) ∧
      mgetD w'.irq.flight r [] = rest ∧ w'.outs = s.w.outs ∧ w'.mem = s.w.mem ∧ w'.regs = s.w.regs)) ∧
  (∀ (s : State) (n v : Nat), n < 64 → ringOn s.w n = false →
    (ringError n true (rgSet s.w (rCC_NQ_CFG n) (v &&& ringCfgMask n))).1 = 0 →
    Completes (.ringEnable n v) s (fun w' =>
      ringOn w' n = true ∧ rg w' (rCC_NQ_TAIL n) = 0 ∧ rg w' (rCC_NQ_HEAD n) = 0 ∧ rg w' (rCC_NQ_DROP n) = 0 ∧
      (∀ u, u < 4096 → msgSeq w' n u = 0) ∧ mgetD w'.irq.flight n [] = [] ∧ w'.irq.inbox = s.w.irq.inbox ∧ w'.cores = s.w.cores)) ∧
  (∀ (s : State) (n v : Nat), n < 64 → configured s.w = true → ringOn s.w (n + 64) = false →
    (ringError (n + 64) true (rgSet s.w (rFE_HN_CFG n) (v &&& ringCfgMask (n + 64)))).1 = 0 →
    Completes (.hnRingEnable n v true) s (fun w' =>
      ringOn w' (n + 64) = true ∧ rg w' (rFE_HN_TAIL n) = 0 ∧ rg w' (rFE_HN_HEAD n) = 0 ∧ rg w' (rFE_HN_DROP n) = 0 ∧
      (∀ u, u < 4096 → msgSeq w' (n + 64) u = 0) ∧ mgetD w'.irq.flight (n + 64) [] = [] ∧
      w'.irq.inbox = s.w.irq.inbox ∧ w'.cores = s.w.cores ∧ w'.mem.bytes = s.w.mem.bytes)) ∧
  (∀ (s : State) (n v : Nat), n < 64 → ringOn s.w n = true →
    Completes (.ringDisable n v) s (fun w' =>
      ringOn w' n = false ∧ w'.irq.waiting = s.w.irq.waiting.filter (·.ring ≠ n) ∧ w'.mem = s.w.mem ∧
      rg w' (rCC_NQ_TAIL n) = rg s.w (rCC_NQ_TAIL n))) ∧
  (∀ (s : State) (n v : Nat), n < 64 → configured s.w = true → ringOn s.w (n + 64) = true →
    Completes (.hnRingDisable n v) s (fun w' =>
      ringOn w' (n + 64) = false ∧ w'.irq.waiting = s.w.irq.waiting.filter (·.ring ≠ n + 64) ∧ w'.mem = s.w.mem ∧
      rg w' (rFE_HN_TAIL n) = rg s.w (rFE_HN_TAIL n))) ∧
  (∀ (s : State) (n v : Nat), n < 64 → v < 2 ^ 64 → (∀ m ∈ s.w.irq.waiting, m.ring ≠ n) →
    Completes (.ccNqHeadWrite n v) s (fun w' =>
      rg w' (rCC_NQ_HEAD n) = (if v ≤ rg s.w (rCC_NQ_TAIL n) ∧ rg s.w (rCC_NQ_TAIL n) - v ≤ ringSize s.w n then v
        else rg s.w (rCC_NQ_HEAD n)) ∧
      (∀ o, o ≠ rCC_NQ_HEAD n → rg w' o = rg s.w o) ∧ w'.mem = s.w.mem ∧ w'.irq = s.w.irq)) ∧
  (∀ (s : State) (n v : Nat), n < 64 → configured s.w = true → v < 2 ^ 64 → (∀ m ∈ s.w.irq.waiting, m.ring ≠ n + 64) →
    Completes (.feHnHeadWrite n v) s (fun w' =>
      rg w' (rFE_HN_HEAD n) = (if v ≤ rg s.w (rFE_HN_TAIL n) ∧ rg s.w (rFE_HN_TAIL n) - v ≤ ringSize s.w (n + 64) then v
        else rg s.w (rFE_HN_HEAD n)) ∧
      (∀ o, o ≠ rFE_HN_HEAD n → rg w' o = rg s.w o) ∧ w'.mem = s.w.mem ∧ w'.irq = s.w.irq))


/-! ### The front end's queues (R292 to R302, R317, R329, R333) -/

namespace Sys2Proof.Machine

/-- A queue just enabled: empty, with no slot. -/
def freshQueue : Queue :=
  { door := 0, head := 0, done := 0, stamps := [], ents := [], slot := none, lastSlot := none, destroying := false,
    launched := [], ready := 0, taken := 0 }

/-- The other queues and every context are as before. -/
def OtherQueuesKept (q : Nat) (w w' : World) : Prop :=
  (∀ k, k ≠ q → queueOf w' k = queueOf w k) ∧ (∀ c, ctxOf w' c = ctxOf w c)

/-- A context is as before but for flags that stopped launches have raised (R55). -/
def CtxButFlags (w w' : World) : Prop :=
  ∀ c, ∃ fl, ctxOf w' c = (ctxOf w c).map (fun y => { y with flags := y.flags ||| fl })

/-- The version a GRAPH_RUN entry names: 0xFFFF is the latest. -/
def namedVersion (e : Entry) (g : Graph) : Nat := if bits e.w3 16 16 = 0xFFFF then g.latest else bits e.w3 16 16

/-- The status a GRAPH_RUN entry ends with as it binds its version, if any (R311). -/
def bindStatus (w : World) (ctx : Nat) (e : Entry) : Option Nat := match graphOf w (bits e.w3 0 11) with
  | none => some stObjGone
  | some g => if g.destroyed = true ∨ g.ctx ≠ ctx then some stObjGone
    else if mget g.versions (namedVersion e g) = none then some stVersion else none

/-- Can the whole range be accessed by the front end now? -/
def rangeReady (w : World) (ctx va n : Nat) (write : Bool) : Prop := (rangeState ctx va n write none w).1.1 = .ready

end Sys2Proof.Machine

/-- QUEUE_ENABLE of a queue that passes R317's checks empties it, writes 0 to head and sets FE_QDONE to FE_QSEQ - 1; a
ring size outside 64 to 32,768 is refused with error 3. QUEUE_DISABLE, QUEUE_DESTROY and DESTROY_QUIESCED end a queue, the last once the entries not yet read can be. A
doorbell accepts its entries and stamps them; one that R294 drops is counted and flagged. ENTRY_FETCH reads entries in
order, 32 bytes each, and writes head. SLOT_MAP gives a READY queue a free slot. ENTRY_RELEASE of an entry without a
command structure makes it work of its context, and in a context that is not LIVE completes it with CONTEXT_LOST
(R293, R294, R298, R302, R317, R322, R333). -/
def Obligations.QueuesOpenAcceptFetchReleaseAndClose : Prop :=
  (∀ (s : State) (q : Nat), configured s.w = true → q < 1024 → queueOf s.w q = none → enableError s.w q = 0 →
    rangeReady s.w (queueCtx s.w q) (ringVa s.w q) 64 true →
    (headerError q (rangeState (queueCtx s.w q) (ringVa s.w q) 64 true none s.w).2).1 = 0 →
    Completes (.queueEnable q) s (fun w' =>
      queueOf w' q = some freshQueue ∧ fld w' (rFE_QCTL q) 0 1 = 1 ∧ fld w' (rFE_QCTL q) 2 2 = 0 ∧
      rg w' (rFE_QDONE q) = (rg s.w (rFE_QSEQ q) + 2 ^ 64 - 1) % 2 ^ 64 ∧ OtherQueuesKept q s.w w' ∧
      w'.mem.pte = s.w.mem.pte)) ∧
  (∀ (s : State) (q : Nat), configured s.w = true → q < 1024 → queueOf s.w q = none →
    (ringLog s.w q < 6 ∨ 15 < ringLog s.w q) →
    Completes (.queueEnable q) s (fun w' =>
      fld w' (rFE_QCTL q) 2 2 = 3 ∧ w'.fe = { s.w.fe with enabling := s.w.fe.enabling.filter (· ≠ q) } ∧ w'.mem = s.w.mem ∧ ∀ o, o ≠ rFE_QCTL q → rg w' o = rg s.w o)) ∧
  (∀ (s : State) (q : Nat) (x : Queue), queueOf s.w q = some x → openEntries x = 0 → x.destroying = false →
    Completes (.queueDisable q) s (fun w' =>
      queueOf w' q = none ∧ fld w' (rFE_QCTL q) 0 1 = 0 ∧
      OtherQueuesKept q s.w w' ∧ w'.mem = s.w.mem ∧
      rg w' rFE_PRELOAD_MISS = (rg s.w rFE_PRELOAD_MISS +
        (s.w.fe.preloads.filter (fun p => p.2.work / 8192 = q)).length) % 2 ^ 64 ∧
      ∀ o, o ≠ rFE_QCTL q → o ≠ rFE_PRELOAD_MISS → rg w' o = rg s.w o)) ∧
  (∀ (s : State) (q : Nat) (x : Queue), queueOf s.w q = some x → x.destroying = false →
    Completes (.queueDestroy q) s (fun w' =>
      queueOf w' q = some { x with destroying := true } ∧
      (∀ k y, getWork w' k = some y → y.q = q → y.kind ≠ 4 → y.fin ≠ none ∨ y.stop ≠ none) ∧
      (∀ k, k ≠ q → queueOf w' k = queueOf s.w k) ∧ CtxButFlags s.w w' ∧ w'.mem = s.w.mem ∧ w'.regs = s.w.regs)) ∧
  (∀ (s : State) (q : Nat) (x : Queue), feHeld s.w = false → queueOf s.w q = some x → x.destroying = true →
    (∀ p ∈ s.w.fe.works, p.2.q ≠ q) → openEntries x = x.ents.length →
    Completes (.destroyQuiesced q) s (fun w' =>
      queueOf w' q = none ∧ fld w' (rFE_QCTL q) 0 1 = 0 ∧ (∀ k, k ≠ q → queueOf w' k = queueOf s.w k) ∧
      (openEntries x ≠ 0 → rg w' (rFE_QDONE q) = seqOf s.w q (x.door - 1)) ∧
      (∀ k y, getWork w' k = some y → y.kind = 5 → bit y.arg1 16 = false → bits y.arg1 0 10 = q → y.fin ≠ none) ∧
      (openEntries x = 0 → w'.mem = s.w.mem))) ∧
  (∀ (s : State) (q : Nat) (x : Queue), feHeld s.w = false → queueOf s.w q = some x → x.destroying = true →
    (∀ p ∈ s.w.fe.works, p.2.q ≠ q) → (ringAwaits q x s.w).1 = true →
    exec (.destroyQuiesced q) s = .next { s with w := (ringAwaits q x s.w).2 }) ∧
  (∀ (s : State) (q v : Nat) (x : Queue) (c : Ctx), configured s.w = true → q < 1024 → queueOf s.w q = some x →
    ctxOf s.w (queueCtx s.w q) = some c → c.st ≠ .destroying → x.destroying = false → x.door < v →
    v ≤ x.head + 2 ^ ringLog s.w q →
    Completes (.doorbell q v true) s (fun w' =>
      queueOf w' q = some { x with
        door := v
        stamps := x.stamps ++ (List.range (v - x.door)).map (fun i => c.stamp + 1 + i)
        ready := if openEntries x = 0 then s.w.fe.orders else x.ready } ∧
      ctxOf w' (queueCtx s.w q) = some { c with stamp := c.stamp + (v - x.door) } ∧
      (∀ k, k ≠ q → queueOf w' k = queueOf s.w k) ∧ w'.regs = s.w.regs ∧ w'.mem = s.w.mem)) ∧
  (∀ (s : State) (q v : Nat) (whole : Bool), configured s.w = true → q < 1024 → queueOf s.w q = none →
    Completes (.doorbell q v whole) s (fun w' =>
      rg w' rFE_DB_DROP = (rg s.w rFE_DB_DROP + 1) % 2 ^ 64 ∧ fld w' (rFE_QSTAT q) 0 1 = 1 ∧ w'.fe = s.w.fe ∧
      w'.mem = s.w.mem)) ∧
  (∀ (s : State) (q v : Nat) (x : Queue), configured s.w = true → q < 1024 → queueOf s.w q = some x → v ≠ x.door →
    (v < x.door ∨ x.head + 2 ^ ringLog s.w q < v) →
    Completes (.doorbell q v true) s (fun w' =>
      rg w' rFE_DB_DROP = (rg s.w rFE_DB_DROP + 1) % 2 ^ 64 ∧ fld w' (rFE_QSTAT q) 0 1 = 1 ∧ w'.fe = s.w.fe ∧
      w'.mem = s.w.mem)) ∧
  (∀ (s : State) (q n : Nat) (x : Queue), queueOf s.w q = some x → 0 < n → n ≤ 8 → n ≤ x.stamps.length →
    x.destroying = false →
    (∀ i, i < n → rangeReady s.w (queueCtx s.w q) (entryVa s.w q (x.head + i)) 32 false) →
    Completes (.entryFetch q n) s (fun w' =>
      ∃ es : List Entry, es.length = n ∧ es.map (·.stamp) = x.stamps.take n ∧
        es.head? = some (entryOf (vaDevRead byControl (queueCtx s.w q) (entryVa s.w q x.head) 32 s.w).1 (nth x.stamps 0 0)) ∧
        queueOf w' q = some { x with head := x.head + n, stamps := x.stamps.drop n, ents := x.ents ++ es } ∧
        OtherQueuesKept q s.w w')) ∧
  (∀ (s : State) (q slot : Nat) (x : Queue), queueOf s.w q = some x → wantsSlot x = true → slot < 32 →
    (∀ p ∈ s.w.fe.queues, p.2.slot ≠ some slot) →
    (s.w.fe.queues.filter (fun p => wantsSlot p.2)).length ≤ 32 - (s.w.fe.queues.filter (fun p => p.2.slot ≠ none)).length →
    Completes (.slotMap q slot) s (fun w' =>
      queueOf w' q = some { x with slot := some slot, lastSlot := some slot, taken := s.w.fe.orders } ∧
      rg w' rFE_SLOT_MAPS = (rg s.w rFE_SLOT_MAPS + 1) % 2 ^ 64 ∧ OtherQueuesKept q s.w w' ∧ w'.mem = s.w.mem)) ∧
  (∀ (s : State) (q : Nat) (x : Queue) (e : Entry) (es : List Entry), feHeld s.w = false → queueOf s.w q = some x →
    x.ents = e :: es → x.slot ≠ none → x.destroying = false → getWork s.w (workKey q none) = none →
    (ctxLive s.w (queueCtx s.w q) = true → entBad e = false → entKind e = 6 →
      Completes (.entryRelease q) s (fun w' =>
        (∃ y, getWork w' (workKey q none) = some y ∧ y.q = q ∧ y.node = none ∧ y.kind = 6 ∧ y.ctx = queueCtx s.w q ∧
          y.stamp = e.stamp ∧ y.cookie = e.w2 ∧ y.notify = entNotify e ∧ y.arg0 = e.w1 ∧ y.arg1 = e.w3 ∧ y.stop = none ∧
          y.fin = bindStatus s.w (queueCtx s.w q) e) ∧
        (∀ g, bindStatus s.w (queueCtx s.w q) e = none → graphOf s.w (bits e.w3 0 11) = some g →
          ∃ r, runOf w' (workKey q none) = some r ∧ r.graph = bits e.w3 0 11 ∧ r.version = namedVersion e g ∧
            r.nodes = (versionNodes s.w (bits e.w3 0 11) (namedVersion e g)).map (fun _ => .waiting)) ∧
        w'.fe.queues = s.w.fe.queues ∧ w'.mem = s.w.mem ∧ w'.regs = s.w.regs)) ∧
    (ctxLive s.w (queueCtx s.w q) = true → entBad e = false → namesCmd (entKind e) = false → entKind e ≠ 6 →
      (entKind e = 5 → waitBad s.w q e = false) →
      Completes (.entryRelease q) s (fun w' =>
        (∃ y, getWork w' (workKey q none) = some y ∧ y.q = q ∧ y.node = none ∧ y.kind = entKind e ∧
          y.ctx = queueCtx s.w q ∧ y.stamp = e.stamp ∧ y.since = s.w.now ∧ y.cookie = e.w2 ∧ y.notify = entNotify e ∧
          y.arg0 = e.w1 ∧ y.arg1 = e.w3 ∧ y.fin = none ∧ y.stop = none) ∧
        w'.fe.queues = s.w.fe.queues ∧ w'.mem = s.w.mem ∧ w'.regs = s.w.regs)) ∧
    (ctxLive s.w (queueCtx s.w q) = false →
      Completes (.entryRelease q) s (fun w' =>
        queueOf w' q = some { x with done := x.done + 1, ents := es } ∧ rg w' (rFE_QDONE q) = seqOf s.w q x.done ∧
        fld w' (rFE_QSTAT q) 56 8 = 2 ∧ (entNotify e = true → ∃ m ∈ w'.irq.inbox, m.status = 2 ∧ m.cookie = e.w2) ∧
        w'.mem = s.w.mem)))


/-- ENTRY_NOP and a WAIT whose condition holds end with OK; a WAIT whose condition does not hold goes on waiting; an entry
past its time limit is stopped with TIMEOUT and its context is lost with cause 3; a completed entry advances FE_QDONE
by one and shows its status (R12, R296, R298, R299, R300). -/
def Obligations.EntriesEndWithTheirStatus : Prop :=
  (∀ (s : State) (k : Nat) (x : Work), getWork s.w k = some x → x.fin = none → x.kind = 0 →
    Completes (.entryNop k) s (fun w' =>
      getWork w' k = some { x with fin := some 0 } ∧ w'.regs = s.w.regs ∧ w'.mem = s.w.mem ∧
      w'.fe.queues = s.w.fe.queues ∧ ∀ k', k' ≠ k → getWork w' k' = getWork s.w k')) ∧
  (∀ (s : State) (k : Nat) (x : Work), getWork s.w k = some x → x.fin = none → x.kind = 5 →
    (waitMet s.w x = true →
      Completes (.waitEntry k) s (fun w' =>
        getWork w' k = some { x with fin := some 0 } ∧ w'.regs = s.w.regs ∧ w'.mem = s.w.mem ∧
        w'.fe.queues = s.w.fe.queues ∧ ∀ k', k' ≠ k → getWork w' k' = getWork s.w k')) ∧
    (waitMet s.w x = false → Completes (.waitEntry k) s (fun w' => w' = s.w)) ∧
    (bit x.arg1 16 = true → waitMet s.w x = true →
      Completes (.waitFrameTimeReached k) s (fun w' =>
        getWork w' k = some { x with fin := some 0 } ∧ w'.regs = s.w.regs ∧ w'.mem = s.w.mem))) ∧
  (∀ (s : State) (k : Nat) (x : Work) (c : Ctx), getWork s.w k = some x → x.limit ≠ 0 → x.since + x.limit ≤ s.w.now →
    x.fin = none → x.stop = none → ctxOf s.w x.ctx = some c → c.st = .live →
    Completes (.entryTimeout k) s (fun w' =>
      (∃ fl, ctxOf w' x.ctx = some { c with st := .lost, cause := 3, flags := c.flags ||| fl }) ∧
      (∃ y, getWork w' k = some y ∧ (y.stop = some 6 ∨ y.fin = some 6)) ∧
      rg w' rFE_CTX_LOSSES = (rg s.w rFE_CTX_LOSSES + 1) % 2 ^ 64 ∧ w'.mem.bytes = s.w.mem.bytes)) ∧
  (∀ (s : State) (k st : Nat) (x : Work) (y : Queue), feHeld s.w = false → getWork s.w k = some x → x.node = none →
    x.fin = some st → queueOf s.w x.q = some y → nodesOut s.w x.q = false → stepOf s.w k = none →
    Completes (.entryComplete k) s (fun w' =>
      queueOf w' x.q = some { y with done := y.done + 1, ents := y.ents.drop 1 } ∧
      rg w' (rFE_QDONE x.q) = seqOf s.w x.q y.done ∧ fld w' (rFE_QSTAT x.q) 56 8 = finalStatus s.w x st % 256 ∧
      w'.mem = s.w.mem ∧ ∀ j, j ≠ x.q → queueOf w' j = queueOf s.w j))
/-! ### Stored graphs and launches (R303 to R312) -/

namespace Sys2Proof.Machine

/-- The nodes that a GRAPH_CREATE's or GRAPH_PATCH's bytes hold. -/
def createdNodes (x : Work) (b : List Byte) : List (List Byte) := nodeList (gCount x.cmd) (b.drop 64)

/-- The reads a graph command makes answer these bytes. -/
def feBytes (w : World) (ctx va n stamp : Nat) (b : List Byte) : Prop :=
  ∃ u, feRead ctx va n stamp w = (.bytes b, u)

/-- A work that runs, not stopped, whose graph command passes the checks of R310's table for an op and is the oldest of
its graph (R312). -/
def graphCmd (w : World) (k op : Nat) (x : Work) : Prop :=
  getWork w k = some x ∧ x.kind = 7 ∧ x.fin = none ∧ x.stop = none ∧ gOther x.cmd = false ∧ gFieldBad x.cmd = false ∧ le x.cmd 1 1 = op ∧
    graphBehind w x = false

/-- A work has ended with a status, everything else of it unchanged. -/
def Ended (w' : World) (k st : Nat) (x : Work) : Prop := getWork w' k = some { x with fin := some st }

end Sys2Proof.Machine

namespace Sys2Proof.Machine

/-- A launch that starts on a partition, by its work's key and command. -/
def launchFrom (w : World) (p k ctx : Nat) (cmd : List Byte) (l : Launch) : Prop :=
  l.work = k ∧ l.ctx = ctx ∧ l.groups = dGroups cmd ∧ l.regs = dRegs cmd ∧ l.slmKib = dSlm cmd ∧ l.entry = dEntry cmd ∧
    l.cores = partCores w p ∧ l.stop = none ∧ l.halted = [] ∧ l.pageIns = 0 ∧ l.started = w.now ∧
    l.epoch = fld w rFE_EPOCH 0 32 ∧ l.lcb = (cmd.drop 64).take 512

/-- A core of a partition where a launch has just been started: the launch, clears under way, semaphores 0, empty
caches, an idle matrix array whose accumulators are as they were (R92, R166, R172, R308, R380). -/
def JustStarted (k ctx p : Nat) (cmd : List Byte) (old c : Core) : Prop :=
  (∃ l, c.launch = some l ∧ l.work = k ∧ l.ctx = ctx ∧ l.part = p ∧ l.regs = dRegs cmd) ∧ c.clearBusy = true ∧
    c.stopped = false ∧ c.sems = [] ∧ c.l1 = [] ∧ c.ccache = [] ∧ c.accs = [] ∧ c.slm = old.slm ∧ c.flags = 0 ∧
    c.mx = { Matrix.reset with acc := old.mx.acc }

end Sys2Proof.Machine

/-- GRAPH_CREATE stores version 1 with the records it reads; GRAPH_PATCH makes the next version the latest and keeps the
others that runs use; GRAPH_DESTROY ends a graph no run uses, and a run's version outlives it; GRAPH_RUN starts the run
that its release has bound to a version: its ready nodes are released, the others wait. PRELOAD reads the launch that the
scheduler will start next. A launch is checked, started on every core of its partition, and ended
(R306 to R312). -/
def Obligations.GraphsKeepVersionsAndLaunchesStartAndEnd : Prop :=
  (∀ (s : State) (k : Nat) (x : Work) (b : List Byte), graphCmd s.w k 1 x → 0 < gCount x.cmd → gCount x.cmd ≤ 4096 →
    feBytes s.w x.ctx (gSrc x.cmd) (64 + 768 * gCount x.cmd) x.stamp b → le b 0 1 = 1 →
    zeroBytes ((b.take 64).drop 1) = true → graphOf s.w (gNum x.cmd) = none → storeRoom s.w (gCount x.cmd) = true →
    (createdNodes x b).zipIdx.all (fun p => nodeOk p.2 p.1 && ndIndex p.1 = 0) = true →
    Completes (.graphCreate k) s (fun w' =>
      Ended w' k 0 x ∧ versionNodes w' (gNum x.cmd) 1 = createdNodes x b ∧
      (∃ g, graphOf w' (gNum x.cmd) = some g ∧ g.ctx = x.ctx ∧ g.destroyed = false ∧ g.latest = 1) ∧
      (∀ g, g ≠ gNum x.cmd → graphOf w' g = graphOf s.w g))) ∧
  (∀ (s : State) (k : Nat) (x : Work) (b : List Byte) (g : Graph), graphCmd s.w k 2 x → 0 < gCount x.cmd →
    gCount x.cmd ≤ 4096 → feBytes s.w x.ctx (gSrc x.cmd) (768 * gCount x.cmd) x.stamp b → ownGraph s.w x = some g →
    gBase x.cmd = g.latest → (g.versions.filter (fun v => (runVersions s.w (gNum x.cmd)).contains v.1)).length < 16 →
    storeRoom s.w (gCount x.cmd) = true →
    (nodeList (gCount x.cmd) b).all (fun p => nodeOk (ndIndex p) p &&
      decide (ndIndex p < (mgetD g.versions g.latest []).length)) = true →
    Completes (.graphPatch k) s (fun w' =>
      Ended w' k 0 x ∧ ∃ g', graphOf w' (gNum x.cmd) = some g' ∧ g'.ctx = g.ctx ∧ g'.destroyed = false ∧
        g'.latest = (if g.latest = 0xFFFE then 1 else g.latest + 1) ∧
        (mgetD g'.versions g'.latest []).length = (mgetD g.versions g.latest []).length ∧
        ∀ v, v ∈ runVersions s.w (gNum x.cmd) → v ≠ g'.latest → mget g'.versions v = mget g.versions v)) ∧
  (∀ (s : State) (k : Nat) (x : Work) (g : Graph), graphCmd s.w k 3 x → ownGraph s.w x = some g →
    (s.w.fe.graphs.map (·.1)).Pairwise (· < ·) →
    Completes (.graphDestroy k) s (fun w' =>
      Ended w' k 0 x ∧ w'.mem = s.w.mem ∧
      (runVersions s.w (gNum x.cmd) = [] → graphOf w' (gNum x.cmd) = none) ∧
      (∀ v ns, v ∈ runVersions s.w (gNum x.cmd) → mget g.versions v = some ns →
        ∃ g', graphOf w' (gNum x.cmd) = some g' ∧ g'.destroyed = true ∧ mget g'.versions v = some ns))) ∧
  (∀ (s : State) (k : Nat) (x : Work) (r : GraphRun), feHeld s.w = false → getWork s.w k = some x → k = workKey x.q none →
    x.fin = none → x.stop = none → x.node = none → x.begun = false → stepOf s.w k = none → runOf s.w k = some r →
    (nodeSteps (versionNodes s.w r.graph r.version)).all (· = 0) = true →
    Completes (.graphRun k) s (fun w' =>
      getWork w' k = some { x with begun := true } ∧
      (∃ r', runOf w' k = some r' ∧ r'.graph = r.graph ∧ r'.version = r.version ∧ r'.nodes.length = r.nodes.length ∧
        ∀ (i : Nat) (nd : List Byte), (versionNodes s.w r.graph r.version)[i]? = some nd → r.nodes[i]? = some .waiting →
          (nodeReady r nd = false → r'.nodes[i]? = some .waiting) ∧
          (nodeReady r nd = true → entKind (ndEntry nd) ∉ [1, 2, 3] → r'.nodes[i]? = some .released)) ∧
      w'.mem = s.w.mem ∧ w'.fe.graphs = s.w.fe.graphs)) ∧
  (∀ (s : State) (k : Nat) (x : Work) (cmd : List Byte) (u : World), feHeld s.w = false → getWork s.w k = some x →
    x.kind = 1 → x.fin = none → x.begun = false → x.stop = none → launchCmd k x s.w = (.ok cmd, u) →
    (x.node ≠ none ∨ dStep cmd = 0) →
    Completes (.launch k) s (fun w' =>
      getWork w' k = some { x with cmd := cmd, begun := true, limit := 1000 * dLimit cmd } ∧
      w'.fe.launches = s.w.fe.launches ∧ w'.fe.queues = s.w.fe.queues)) ∧
  (∀ (s : State) (k st : Nat) (x : Work) (u : World), feHeld s.w = false → getWork s.w k = some x → x.kind = 1 →
    x.fin = none → x.begun = false → x.stop = none → launchCmd k x s.w = (.fail st, u) → st ≠ 2 →
    x.ctx < 2 ^ 20 → x.q < 1024 →
    Completes (.launch k) s (fun w' =>
      Ended w' k st x ∧ fld w' rFE_LAUNCH_ERR 63 1 = 1 ∧
      (fld s.w rFE_LAUNCH_ERR 63 1 = 0 → fld w' rFE_LAUNCH_ERR 56 6 = if x.node.isSome then 5 else if st = 9 then 2 else 3) ∧
      w'.fe.launches = s.w.fe.launches)) ∧
  (∀ (s : State) (p : Nat) (c : Cand), nextStart s.w p = some (c, none) → c.saved = false → candCmd s.w c ≠ [] →
    Completes (.preload p c.key) s (fun w' =>
      (∃ r, mget w'.fe.preloads p = some r ∧ r.work = c.key ∧ r.num = workNum s.w c.key ∧ r.cmd = candCmd s.w c ∧
        r.code = (codeWords c.ctx (dEntry (candCmd s.w c)) s.w).1 ∧ r.ready = false) ∧
      (∀ j, j ≠ p → mget w'.fe.preloads j = mget s.w.fe.preloads j) ∧
      w'.mem = (codeWords c.ctx (dEntry (candCmd s.w c)) s.w).2.mem)) ∧
  (∀ (s : State) (p : Nat) (c : Cand) (x : Ahead) (cmd : List Byte) (u : World), nextStart s.w p = some (c, some x) →
    c.saved = false → x.cmd = [] → readLaunch c.ctx p x.entry.stamp stCtxLost x.entry.w1 s.w = (.ok cmd, u) →
    Completes (.preload p c.key) s (fun w' =>
      (∃ r, mget w'.fe.preloads p = some r ∧ r.work = c.key ∧ r.num = x.num ∧ r.cmd = cmd ∧
        r.code = (codeWords c.ctx (dEntry cmd) u).1 ∧ r.ready = false) ∧
      (∀ j, j ≠ p → mget w'.fe.preloads j = mget u.fe.preloads j) ∧
      w'.mem = (codeWords c.ctx (dEntry cmd) u).2.mem)) ∧
  (∀ (s : State) (p : Nat) (r : Preload), mget s.w.fe.preloads p = some r →
    Completes (.preloadComplete p) s (fun w' =>
      mget w'.fe.preloads p = some { r with ready := true } ∧ w'.regs = s.w.regs ∧ w'.mem = s.w.mem ∧ w'.cores = s.w.cores)) ∧
  (∀ (s : State) (p : Nat) (c : Cand) (r : Preload), feHeld s.w = false → mget s.w.fe.launches p = none →
    partDefined s.w p = true → choose s.w p = some c → c.saved = false → c.step = false → c.fallback = false →
    mget s.w.fe.preloads p = some r → epochReady s.w p = true → r.work = c.key → r.num = workNum s.w c.key →
    r.cmd = candCmd s.w c → r.ready = true → coopTooLarge s.w p r.cmd = false →
    Completes (.launchStart p) s (fun w' =>
      (∃ l, mget w'.fe.launches p = some l ∧ launchFrom s.w p c.key c.ctx r.cmd l) ∧
      (∀ n ∈ partCores s.w p, JustStarted c.key c.ctx p r.cmd (coreOf s.w n) (coreOf w' n)) ∧
      (∀ n, n ∉ partCores s.w p → coreOf w' n = coreOf s.w n) ∧ mget w'.fe.preloads p = none ∧
      rg w' rFE_LAUNCHES = (rg s.w rFE_LAUNCHES + 1) % 2 ^ 64 ∧ w'.mem = s.w.mem)) ∧
  (∀ (s : State) (p : Nat) (l : Launch) (x : Work), feHeld s.w = false → mget s.w.fe.launches p = some l → l.stop = none →
    l.placed = l.groups → (∀ n ∈ l.cores, coreDrained (coreOf s.w n) = true) → stepOfWork s.w l.work = none →
    s.w.ras.retiring = [] → fld s.w rRAS_STATUS 1 1 = 0 → getWork s.w l.work = some x → x.fin = none →
    Completes (.launchComplete p) s (fun w' =>
      mget w'.fe.launches p = none ∧ Ended w' l.work (if l.shrunk then 7 else 0) x ∧
      (∀ n ∈ l.cores, (coreOf w' n).launch = none ∧ (coreOf w' n).groups = []) ∧
      (∀ n, n ∉ l.cores → coreOf w' n = coreOf s.w n) ∧
      (∀ c, ctxOf s.w l.ctx = some c → ctxOf w' l.ctx =
        some { c with flags := c.flags ||| l.cores.foldl (fun f n => f ||| (coreOf s.w n).flags) 0 }) ∧
      w'.mem = s.w.mem))
/-! ### Memory commands and models (R253 to R259, R325, R326) -/

namespace Sys2Proof.Machine

/-- The memory command that a work may start, of a supported version and of one op. -/
def memJob (w : World) (k op : Nat) (x : Work) (j : MemJob) : Prop :=
  getWork w k = some x ∧ memJobOf w k = some j ∧ jobBad j = false ∧ le j.cmd 1 1 = op

/-- The work has started, and has not ended. -/
def Begun (w' : World) (k : Nat) (x : Work) : Prop := getWork w' k = some { x with begun := true }

/-- The work has started and ended with a status. -/
def BegunEnded (w' : World) (k st : Nat) (x : Work) : Prop :=
  getWork w' k = some { x with begun := true, fin := some st }

/-- What a MAP asks for. -/
def mapRun (j : MemJob) (fs : List Nat) : MapRun :=
  { work := j.work, ctx := j.ctx, part := j.part, va := j.va, len := j.len, host := bit j.flags 2, page2m := bit j.flags 1,
    attr := bits j.flags 4 2, wp := bit j.flags 3, frames := fs, dirty := fs }

/-- A MAP whose fields pass R254 to R256. -/
def mapFine (j : MemJob) (w : World) : Prop :=
  jobUnused true false false true true false j = false ∧ rangeBad (pageBytes (bit j.flags 1)) j.va j.len = false ∧
    bits j.flags 4 2 < 2 ∧ overlaps w j.ctx j.va j.len = false ∧
    ∀ m ∈ w.mem.maps, m.ctx = j.ctx → j.va + j.len ≤ m.va ∨ m.va + m.len ≤ j.va

/-- The object table has an entry for one MAP more. -/
def mapRoom (w : World) : Prop := w.mem.objs.length + (w.mem.maps.filter (fun m => !(m.frames.isEmpty))).length < 262144

/-- A byte outside the page tables, and outside the carve-out they come from, keeps its value. -/
def PageKept (w w' : World) (a : Nat) : Prop :=
  memoryAlone w → w.mem.tableRoom ≤ a → (∀ t ∈ w.mem.tables, a < t.2 ∨ t.2 + 4096 ≤ a) →
    byteAt w'.mem.bytes a = byteAt w.mem.bytes a

/-- What a command that writes page-table entries leaves: every byte but the tables', the poison outside the carve-out they
come from, and every register but the count of recalls. -/
def OnlyTables (w w' : World) : Prop :=
  (∀ a, PageKept w w' a) ∧ (∀ l, w.mem.tableRoom ≤ 128 * l → (l ∈ w'.mem.poison ↔ l ∈ w.mem.poison)) ∧
    ∀ o, o ≠ rCC_RECALL → rg w' o = rg w o

/-- No byte of memory and no register changes. -/
def NoMemory (w w' : World) : Prop := w'.mem.bytes = w.mem.bytes ∧ w'.mem.poison = w.mem.poison ∧ w'.regs = w.regs

end Sys2Proof.Machine

/-- MAP takes its pages from the partition's pool and starts to clear them; one that may not wait and finds too few ends
with TIMEOUT; MAP_RESUME gives pages to the MAP that has waited longest. UNMAP and MODEL_DEREG drain the object of their
address; ALIAS writes its leaves, in its legacy format, over its storage's pages. MODEL_REG of an unregistered model
registers it WARM and maps it; MODEL_PIN and MODEL_UNPIN count; MODEL_HOT of a HOT model ends with OK and otherwise waits
for it. A landed page has the warm page's bytes in its hot frame; an eviction returns the hot pages. OBJECT_FREE
invalidates every leaf of a draining object that nothing holds, and of its aliases; an alias of its own it leaves to its
storage object (R250, R253, R256 to R259, R325, R326). -/
def Obligations.MemoryCommandsMapModelsAndObjects : Prop :=
  (∀ (s : State) (k : Nat) (x : Work) (j : MemJob) (fs : List Nat) (pool : Pool), memJob s.w k 1 x j → mapFine j s.w →
    mapRoom s.w → allocN (bit j.flags 1) (j.len / pageBytes (bit j.flags 1)) (poolOf s.w (bit j.flags 2) j.part) = some (fs, pool) →
    Completes (.mapObject k) s (fun w' =>
      Begun w' k x ∧ w'.mem.maps = s.w.mem.maps ++ [mapRun j fs] ∧ poolOf w' (bit j.flags 2) j.part = pool ∧
      NoMemory s.w w' ∧ w'.mem.objs = s.w.mem.objs ∧ w'.mem.pte = s.w.mem.pte)) ∧
  (∀ (s : State) (k : Nat) (x : Work) (j : MemJob), memJob s.w k 1 x j → mapFine j s.w → bit j.flags 0 = true →
    allocN (bit j.flags 1) (j.len / pageBytes (bit j.flags 1)) (poolOf s.w (bit j.flags 2) j.part) = none →
    Completes (.mapObject k) s (fun w' => BegunEnded w' k 6 x ∧ w'.mem = s.w.mem ∧ w'.regs = s.w.regs)) ∧
  (∀ (s : State) (k : Nat) (r : MapRun) (fs : List Nat) (pool : Pool),
    s.w.mem.maps.find? (fun m => m.work = some k && m.frames.isEmpty) = some r →
    s.w.mem.maps.find? (fun m => m.frames.isEmpty && m.part = r.part && m.host = r.host) = some r → mapRoom s.w →
    allocN r.page2m (r.len / pageBytes r.page2m) (poolOf s.w r.host r.part) = some (fs, pool) →
    Completes (.mapResume k) s (fun w' =>
      { r with frames := fs, dirty := fs } ∈ w'.mem.maps ∧ poolOf w' r.host r.part = pool ∧ NoMemory s.w w' ∧
      w'.fe = s.w.fe)) ∧
  (∀ (s : State) (k id : Nat) (x : Work) (j : MemJob) (o : Obj) (c : Ctx), memJob s.w k 2 x j →
    jobUnused false false false true false false j = false → objFirst s.w j.ctx j.va = some (id, o) →
    objOf s.w id = some o → o.drain = none → ctxOf s.w o.ctx = some c →
    Completes (.unmapObject k) s (fun w' =>
      BegunEnded w' k 0 x ∧ objOf w' id = some { o with drain := some c.stamp } ∧ NoMemory s.w w' ∧
      w'.mem.pte = s.w.mem.pte)) ∧
  (∀ (s : State) (k id : Nat) (x : Work) (j : MemJob) (o : Obj) (c : Ctx), memJob s.w k 5 x j →
    jobUnused false false true true false false j = false → objFirst s.w j.ctx j.va = some (id, o) →
    objOf s.w id = some o → o.kind = .model j.key → o.drain = none → ctxOf s.w o.ctx = some c →
    Completes (.modelDereg k) s (fun w' =>
      BegunEnded w' k 0 x ∧ objOf w' id = some { o with drain := some c.stamp } ∧ NoMemory s.w w' ∧
      w'.mem.models = s.w.mem.models)) ∧
  (∀ (s : State) (k id : Nat) (x : Work) (j : MemJob) (o : Obj), memJob s.w k 3 x j → srcGone s.w j = false →
    jobUnused false true false true true true j = false → rangeBad 65536 j.va j.len = false →
    overlaps s.w j.ctx j.va j.len = false → le j.cmd 3 1 ≠ 0 → le j.cmd 3 1 < 6 → objFirst s.w j.ctx j.src = some (id, o) →
    o.page2m = false → j.len * aliasBytes (le j.cmd 3 1) / 4 ≤ o.len → objRoom s.w = true →
    (∀ i, i < j.len / 65536 → (aliasLeaf s.w o (aliasBytes (le j.cmd 3 1)) (le j.cmd 3 1) i).isSome = true) →
    Completes (.aliasObject k) s (fun w' =>
      Begun w' k x ∧
      (∃ o', objOf w' s.w.mem.nextObj = some o' ∧ o'.kind = .aliasOf (aliasRoot id o) ∧ o'.ctx = j.ctx ∧ o'.va = j.va ∧ o'.len = j.len ∧
        o'.drain = none) ∧
      (∀ i, i < j.len / 65536 → pteOf w' j.ctx 0 (j.va + 65536 * i) =
        (aliasLeaf s.w o (aliasBytes (le j.cmd 3 1)) (le j.cmd 3 1) i).getD 0 % 2 ^ 64) ∧
      OnlyTables s.w w' ∧ (∃ r ∈ w'.mem.inval, r.cont = .finish (some k) 0))) ∧
  (∀ (s : State) (k id : Nat) (x : Work) (j : MemJob) (o : Obj), memJob s.w k 4 x j → modelOf s.w j.key = none →
    srcGone s.w j = false → jobUnused false false true true true true j = false → rangeBad 65536 j.va j.len = false →
    overlaps s.w j.ctx j.va j.len = false → objFirst s.w j.ctx j.src = some (id, o) → o.kind = .map → o.host = true →
    o.attr = 0 → j.len ≤ o.len → s.w.mem.models.length < 1024 → objRoom s.w = true →
    Completes (.modelReg k) s (fun w' =>
      Begun w' k x ∧
      (∃ m, modelOf w' j.key = some m ∧ m.st = .warm ∧ m.warm = id ∧ m.len = j.len ∧ m.use = 0 ∧ m.pins = 0 ∧ m.frames = []) ∧
      (∃ o', objOf w' s.w.mem.nextObj = some o' ∧ o'.kind = .model j.key ∧ o'.ctx = j.ctx ∧ o'.va = j.va ∧ o'.wp = true) ∧
      OnlyTables s.w w')) ∧
  (∀ (s : State) (k : Nat) (x : Work) (j : MemJob) (m : Model), jobUnused false false true false false false j = false →
    modelOf s.w j.key = some m →
    (memJob s.w k 6 x j → Completes (.modelPin k) s (fun w' =>
      BegunEnded w' k 0 x ∧ modelOf w' j.key = some { m with pins := m.pins + 1 } ∧ NoMemory s.w w')) ∧
    (memJob s.w k 7 x j → Completes (.modelUnpin k) s (fun w' =>
      BegunEnded w' k 0 x ∧ modelOf w' j.key = some { m with pins := m.pins - 1 } ∧ NoMemory s.w w')) ∧
    (memJob s.w k 8 x j → m.st = .hot → Completes (.modelHot k) s (fun w' =>
      BegunEnded w' k 0 x ∧ w'.mem = s.w.mem ∧ w'.regs = s.w.regs)) ∧
    (memJob s.w k 8 x j → m.st ≠ .hot → Completes (.modelHot k) s (fun w' =>
      Begun w' k x ∧ (∃ m', modelOf w' j.key = some m' ∧ m'.waiters = m.waiters ++ [some k]) ∧
      ∀ a, PageKept s.w w' a))) ∧
  (∀ (s : State) (k : Nat) (m : Model), modelOf s.w k = some m → m.st = .loading → m.landed < m.frames.length →
    admits s.w 1 m.part = true → writesAlone s.w → Memory.wf s.w.mem.bytes = true →
    let hot := nth m.frames m.landed 0
    let warm (i : Nat) : Nat := warmUnit s.w m (pageUnits m * m.landed + i)
    s.w.mem.tableRoom ≤ hot → (∀ t ∈ s.w.mem.tables, hot + pageBytes (modelBig m) ≤ t.2 ∨ t.2 + 4096 ≤ hot) →
    (∀ i, i < pageUnits m → warm i + 65536 ≤ hot ∨ hot + pageBytes (modelBig m) ≤ warm i) →
    Completes (.promotionPageLanded k) s (fun w' =>
      (∀ i a, i < pageUnits m → a < 65536 →
        byteAt w'.mem.bytes (hot + 65536 * i + a) = byteAt s.w.mem.bytes (warm i + a)) ∧
      (∀ a, a < hot ∨ hot + pageBytes (modelBig m) ≤ a → PageKept s.w w' a) ∧
      ∃ m', modelOf w' k = some m' ∧ m'.landed = m.landed + 1 ∧ m'.frames = m.frames ∧
        m'.st = (if m.landed + 1 = m.frames.length then .hot else .loading))) ∧
  (∀ (s : State) (k : Nat) (m : Model), modelOf s.w k = some m → m.st = .evicting → invPending s.w (modelKeys s.w k) = false →
    (∀ p ∈ s.w.mem.models, p.2.again = false) →
    Completes (.evictionComplete k) s (fun w' =>
      modelOf w' k = some { m with st := .warm, frames := [], landed := 0 } ∧
      fld w' (rMEM_HOT m.part) 0 26 = fld s.w (rMEM_HOT m.part) 0 26 - hotUnits m ∧
      w'.mem.bytes = s.w.mem.bytes ∧ w'.mem.pte = s.w.mem.pte)) ∧
  (∀ (s : State) (id : Nat) (o : Obj), objOf s.w id = some o → o.drain ≠ none → o.freeing = false →
    heldSelf s.w id o = false → (∀ t, o.kind ≠ .aliasOf t) →
    Completes (.objectFree id) s (fun w' =>
      objOf w' id = some { o with freeing := true } ∧
      (∀ va ∈ objPages o, pteOf w' o.ctx (lvlOf o.page2m) va = 0) ∧
      (let os := o :: (aliasesOf s.w id).map (·.2)
       ∃ r ∈ w'.mem.inval, r.cont = .freeObj id (os.flatMap (ownedPages s.w)) (os.flatMap (offSlots s.w)) ∧
        ∀ key ∈ objKeys o, key ∈ r.keys) ∧
      (∀ a ∈ aliasesOf s.w id, ∀ va ∈ objPages a.2, pteOf w' a.2.ctx (lvlOf a.2.page2m) va = 0) ∧
      OnlyTables s.w w' ∧ w'.fe = s.w.fe)) ∧
  (∀ (s : State) (id t : Nat) (o : Obj), objOf s.w id = some o → o.kind = .aliasOf t →
    Completes (.objectFree id) s (fun w' => w' = s.w))
/-! ### Contexts (R319 to R342) -/

namespace Sys2Proof.Machine

/-- FE_CTX_CMD may run a command, on the context FE_CTX_SEL names. -/
def ctxSelected (w : World) (n : Nat) : Prop :=
  configured w = true ∧ w.fe.ctxRun = none ∧ fld w rFE_CTX_SEL 0 20 = n ∧ n ≠ 0 ∧ n ≠ 0xFFFFF

/-- What FE_CTX_RESULT shows: the result, and whether the command is still running. -/
def resultIs (w' : World) (r busy : Nat) : Prop := fld w' rFE_CTX_RESULT 0 8 = r ∧ fld w' rFE_CTX_RESULT 63 1 = busy

/-- The three arguments. -/
def argsAre (w : World) (a b c : Nat) : Prop := ctxArg w 0 = a ∧ ctxArg w 1 = b ∧ ctxArg w 2 = c

/-- Nothing changes but the result that FE_CTX_RESULT shows. -/
def onlyResult (w w' : World) (r : Nat) : Prop :=
  fld w' rFE_CTX_RESULT 0 8 = r ∧ (∀ o, o ≠ rFE_CTX_RESULT → rg w' o = rg w o) ∧ w'.fe = w.fe ∧ w'.mem = w.mem ∧
    w'.sched = w.sched ∧ w'.irq = w.irq ∧ w'.cores = w.cores

/-- Every other context is as before but for flags that its stopped launches have raised (R55). -/
def OtherCtxsButFlags (n : Nat) (w w' : World) : Prop :=
  ∀ c, c ≠ n → ∃ fl, ctxOf w' c = (ctxOf w c).map (fun y => { y with flags := y.flags ||| fl })

/-- The tables that the pages of a window need can be created (R247). -/
def ioTablesFit (w : World) (n va len : Nat) : Bool :=
  ((pagesOf false va len).foldl (fun (a : Bool × World) v =>
    ((a.1 && (makeTables n 0 v a.2).1), (makeTables n 0 v a.2).2)) (true, w)).1

/-- Every other context is as before. -/
def OtherCtxsKept (n : Nat) (w w' : World) : Prop := ∀ c, c ≠ n → ctxOf w' c = ctxOf w c

end Sys2Proof.Machine

/-- CREATE makes a FREE context LIVE in its partition; KILL makes a LIVE one LOST with cause 6 and leaves a LOST one as it
is; DESTROY makes a LOST one, or a LIVE one without enabled queues, DESTROYING; of any other state each returns
WRONG_STATE and changes nothing. SUBSCRIBE takes a free handle, refuses a queue that is not enabled with BAD_ARG and a
completed entry with ALREADY_DONE, and UNSUBSCRIBE ends it; MAP_IO maps its
window as IO and runs on until the entries are confirmed (R252); MEMCMD takes the context's next stamp, and a structure of another version ends with VERSION_MISMATCH;
FE_CTX_FLAGS clears bits. When a destroy completes the number is FREE: no object, table entry or subscription of it
remains. An owner reset disables every host ring and destroys every context of the host, and no other (R323, R330, R331,
R335 to R337, R339, R342). -/
def Obligations.ContextCommandsActAndLeaveNothingBehind : Prop :=
  (∀ (s : State) (cc : Bool) (n p : Nat), ctxSelected s.w n → argsAre s.w p 0 0 → p < 16 → llynState s.w = 2 →
    ctxOf s.w n = none → s.w.fe.ctxs.length < 4096 → partDefined s.w p = true → tablePlace s.w ≠ none →
    Completes (.ctxCreate cc) s (fun w' =>
      ctxOf w' n = some { part := p, cc := cc, st := .live, cause := 0, flags := 0, stamp := 0 } ∧
      fld w' rFE_CTX_RESULT 0 8 = 0 ∧
      residencyOf w' n = (if placesTaken s.w p < residentMax s.w p then .resident else .swapped) ∧
      OtherCtxsKept n s.w w' ∧ (mget w'.mem.tables (tableKey n 4 0)).isSome = true ∧ w'.mem.pte = s.w.mem.pte ∧
      w'.mem.objs = s.w.mem.objs ∧ ∀ a, PageKept s.w w' a)) ∧
  (∀ (s : State) (n : Nat) (c : Ctx), ctxSelected s.w n → argsAre s.w 0 0 0 → ctxOf s.w n = some c → c.st = .live →
    Completes .ctxKill s (fun w' =>
      (∃ fl, ctxOf w' n = some { c with st := .lost, cause := 6, flags := c.flags ||| fl }) ∧
      resultIs w' 0 (if s.w.fe.works.any (fun p => p.2.ctx = n) then 1 else 0) ∧ OtherCtxsButFlags n s.w w' ∧
      w'.mem = s.w.mem)) ∧
  (∀ (s : State) (n : Nat), ctxSelected s.w n → argsAre s.w 0 0 0 →
    (∀ c, ctxOf s.w n = some c → c.st = .lost → Completes .ctxKill s (fun w' => onlyResult s.w w' 0)) ∧
    ((∀ c, ctxOf s.w n = some c → c.st = .destroying) →
      Completes .ctxKill s (fun w' => onlyResult s.w w' 7) ∧ Completes .ctxDestroy s (fun w' => onlyResult s.w w' 7)) ∧
    (∀ c, ctxOf s.w n = some c → c.st = .live → ctxQueues s.w n ≠ [] →
      Completes .ctxDestroy s (fun w' => onlyResult s.w w' 7))) ∧
  (∀ (s : State) (n : Nat) (c : Ctx), ctxSelected s.w n → argsAre s.w 0 0 0 → ctxOf s.w n = some c →
    (c.st = .lost ∨ (c.st = .live ∧ ctxQueues s.w n = [])) →
    Completes .ctxDestroy s (fun w' =>
      (∃ fl, ctxOf w' n = some { c with st := .destroying, flags := c.flags ||| fl }) ∧ resultIs w' 0 1 ∧
      (∀ q x, q ∈ ctxQueues s.w n → queueOf w' q = some x → x.destroying = true) ∧ OtherCtxsButFlags n s.w w' ∧
      w'.mem = s.w.mem)) ∧
  (∀ (s : State) (n q : Nat), ctxSelected s.w n → bits (ctxArg s.w 1) 0 10 = q → ctxArg s.w 1 &&& subMask = ctxArg s.w 1 →
    (queueOf s.w q).isSome = true → ctxLive s.w n = true → s.w.fe.subs.length < 4096 →
    serialGe (queueDone s.w q) (ctxArg s.w 0) = false →
    Completes .subscribe s (fun w' =>
      let h := fld w' rFE_CTX_RESULT 16 12
      fld w' rFE_CTX_RESULT 0 8 = 0 ∧ mget s.w.fe.subs h = none ∧
      (∃ u, mget w'.fe.subs h = some u ∧ u.ctx = n ∧ u.q = q ∧ u.seq = ctxArg s.w 0 ∧ u.cookie = ctxArg s.w 2) ∧
      (∀ h', h' ≠ h → mget w'.fe.subs h' = mget s.w.fe.subs h') ∧ w'.mem = s.w.mem)) ∧
  (∀ (s : State) (n q : Nat), ctxSelected s.w n → bits (ctxArg s.w 1) 0 10 = q → ctxArg s.w 1 &&& subMask = ctxArg s.w 1 →
    (queueOf s.w q = none → Completes .subscribe s (fun w' => onlyResult s.w w' 9)) ∧
    ((queueOf s.w q).isSome = true → ctxLive s.w n = true → s.w.fe.subs.length < 4096 →
      serialGe (queueDone s.w q) (ctxArg s.w 0) = true → Completes .subscribe s (fun w' => onlyResult s.w w' 8))) ∧
  (∀ (s : State) (n h : Nat) (u : Sub), ctxSelected s.w n → argsAre s.w h 0 0 → h < 4096 → mget s.w.fe.subs h = some u →
    u.ctx = n → (ctxLive s.w n = true ∨ ctxLost s.w n = true) →
    Completes .unsubscribe s (fun w' =>
      mget w'.fe.subs h = none ∧ fld w' rFE_CTX_RESULT 0 8 = 0 ∧
      (∀ h', h' ≠ h → mget w'.fe.subs h' = mget s.w.fe.subs h') ∧ w'.mem = s.w.mem)) ∧
  (∀ (s : State) (n va pa len : Nat), ctxSelected s.w n → argsAre s.w va pa len → rangeBad 65536 va len = false →
    pa % 65536 = 0 → (inPcie pa = true ∧ inPcie (pa + len - 1) = true ∨ inChip pa = true ∧ inChip (pa + len - 1) = true) →
    overlaps s.w n va len = false → ctxLive s.w n = true → objRoom s.w = true → ioTablesFit s.w n va len = true →
    Completes .mapIo s (fun w' =>
      (∀ i, i < len / 65536 → pteOf w' n 0 (va + 65536 * i) = leafWord 1 2 false 0 false (pa + 65536 * i)) ∧
      (∃ o, objOf w' s.w.mem.nextObj = some o ∧ o.kind = .io ∧ o.ctx = n ∧ o.va = va ∧ o.len = len) ∧
      resultIs w' 0 1 ∧ (∃ r ∈ w'.mem.inval, r.cont = .mapIo) ∧ ∀ a, PageKept s.w w' a)) ∧
  (∀ (s : State) (n pa : Nat) (c : Ctx), ctxSelected s.w n → argsAre s.w pa 0 0 → pa % 64 = 0 → isMain pa = true →
    ctxOf s.w n = some c → c.st = .live →
    Completes .memcmd s (fun w' =>
      ctxOf w' n = some { c with stamp := c.stamp + 1 } ∧ fld w' rFE_CTX_RESULT 0 8 = 0 ∧
      (memoryAlone s.w → byteAt s.w.mem.bytes pa ≠ 1 →
        fld w' rFE_CTX_RESULT 40 8 = 9 ∧ fld w' rFE_CTX_RESULT 63 1 = 0 ∧ w'.fe.ctxRun = none ∧
        w'.mem.bytes = s.w.mem.bytes ∧ w'.mem.objs = s.w.mem.objs))) ∧
  (∀ (s : State) (n v : Nat) (c : Ctx), configured s.w = true → fld s.w rFE_CTX_SEL 0 20 = n → ctxOf s.w n = some c →
    c.st ≠ .destroying →
    Completes (.feCtxFlagsClear v) s (fun w' =>
      ctxOf w' n = some { c with flags := c.flags &&& ~~~(BitVec.ofNat 16 (v % 128)) } ∧ OtherCtxsKept n s.w w' ∧
      w'.regs = s.w.regs ∧ w'.mem = s.w.mem)) ∧
  (∀ (s : State) (n : Nat) (c : Ctx), n < 2 ^ 20 → ctxOf s.w n = some c → c.st = .destroying → ctxQueues s.w n = [] →
    s.w.mem.inval = [] → (∀ m ∈ s.w.irq.inbox, m.ctx ≠ n) → (∀ m ∈ s.w.mem.maps, m.ctx ≠ n) →
    (s.w.mem.objs.map (·.1)).Nodup →
    Completes (.contextDestroyComplete n) s (fun w' =>
      ctxOf w' n = none ∧ (∀ p ∈ w'.mem.objs, p.2.ctx ≠ n) ∧ (∀ p ∈ w'.fe.subs, p.2.ctx ≠ n) ∧
      (∀ l va, l < 8 → va < 2 ^ 57 → pteOf w' n l va = 0) ∧
      (s.w.fe.ctxRun = some (.destroy n) → w'.fe.ctxRun = none ∧ fld w' rFE_CTX_RESULT 63 1 = 0) ∧
      OtherCtxsKept n s.w w')) ∧
  (∀ (s : State), (s.w.fe.ctxs.map (·.1)).Nodup →
    Completes .functionLevelReset s (fun w' =>
      (∀ r, r < 64 → ringOn w' (r + 64) = false) ∧
      (∀ n c, ctxOf s.w n = some c → ∃ fl, ctxOf w' n = some { (if c.cc then c
        else { c with st := .destroying, cause := if c.st = .live then 7 else c.cause }) with flags := c.flags ||| fl }) ∧
      w'.mem = s.w.mem))
/-! ### Cassia and Saffron (chapters 08 and 09) -/

namespace Sys2Proof.Machine

/-- A Cassia command that passes R197 and is the next to execute, behind every page-in (R199, R203). -/
def casReady (w : World) (k op : Nat) (x : Work) : Prop :=
  getWork w k = some x ∧ x.kind = 2 ∧ x.fin = none ∧ x.stop = none ∧ w.cas.run = none ∧
    w.cas.pageIns = [] ∧ (casNext w).map (·.1) = some k ∧ cBad x.cmd = false ∧ cOp x.cmd = op

/-- The slot a Cassia command names. -/
def slotKey (x : Work) : Nat := casKey x.part (cSlot x.cmd)

/-- The page of a leaf, as brought in: its entry maps the frame and keeps its other fields. -/
def pageMapped (w w' : World) (ctx : Nat) (m : CasMove) (f : Nat) : Prop :=
  pteOf w' ctx m.level m.va =
    leafWord 1 (pteAttr (pteOf w ctx m.level m.va)) (pteWp (pteOf w ctx m.level m.va))
      (pteLegacy (pteOf w ctx m.level m.va)) (bit (pteOf w ctx m.level m.va) 54) f % 2 ^ 64

/-- A 64 KiB page holds what another held before. -/
def pageCopied (w w' : World) (src dst : Nat) : Prop :=
  ∀ a, a < 65536 → byteAt w'.mem.bytes (dst + a) = byteAt w.mem.bytes (src + a)

/-- The bytes of a Cassia command are moved, and it waits for these translations to be confirmed invalid (R252). -/
def AwaitsLast (w' : World) (k : Nat) (keys : List Nat) : Prop := ∃ q ∈ w'.mem.inval, q.cont = .casDone k ∧ q.keys = keys

/-- No hart holds a line modified or reserved, memory is in its canonical form, and a page lies outside the page tables. -/
def quietMemory (w : World) (pa : Nat) : Prop :=
  writesAlone w ∧ Memory.wf w.mem.bytes = true ∧ ∀ t ∈ w.mem.tables, pa + 65536 ≤ t.2 ∨ t.2 + 4096 ≤ pa

end Sys2Proof.Machine

/-- OFFLOAD takes host pages and marks its range's pages leaving; without the pages the slot is RETAINED and the entry ends
with OK. Once acknowledged its leaves are off-loaded and its pages hold the tensor, and once their translations are confirmed
invalid the slot is HOST and the entry ends. PREFETCH brings a HOST slot in, page by page, and frees it once the last page's
translations are confirmed, and frees another at once; DISCARD frees a slot; a page-in maps its page (R199 to R205, R252). -/
def Obligations.CassiaMovesTensors : Prop :=
  (∀ (s : State) (k : Nat) (x : Work), casReady s.w k 1 x → cVa x.cmd + cLen x.cmd ≤ 2 ^ 57 →
    rangeGone s.w x.ctx (cVa x.cmd) (cLen x.cmd) x.stamp = false → cSlot x.cmd < casSlots s.w x.part →
    casSlot s.w (slotKey x) = none →
    (∀ l ∈ rangeLeaves s.w x.ctx (cVa x.cmd) (cLen x.cmd), leafRefused (cVa x.cmd) (cLen x.cmd) l = false) →
    (∀ fs pool, allocN false (cLen x.cmd / 65536) (casPool s.w x.part) = some (fs, pool) →
      Completes (.offload k) s (fun w' =>
        casSlot w' (slotKey x) = some { st := .out, owner := x.ctx, va := cVa x.cmd, len := cLen x.cmd, pages := fs } ∧
        casPool w' x.part = pool ∧
        (∀ l ∈ rangeLeaves s.w x.ctx (cVa x.cmd) (cLen x.cmd), pteKind (pteOf w' x.ctx l.1.level l.1.va) = 2) ∧
        (∃ r, w'.cas.run = some r ∧ r.work = k ∧ r.op = 1 ∧ r.slot = slotKey x) ∧ OnlyTables s.w w' ∧ w'.fe = s.w.fe)) ∧
    (allocN false (cLen x.cmd / 65536) (casPool s.w x.part) = none →
      Completes (.offload k) s (fun w' =>
        casSlot w' (slotKey x) = some { st := .retained, owner := x.ctx, va := cVa x.cmd, len := cLen x.cmd, pages := [] } ∧
        Ended w' k 0 x ∧ rg w' rCAS_NOSPACE = (rg s.w rCAS_NOSPACE + 1) % 2 ^ 64 ∧ w'.mem = s.w.mem))) ∧
  (∀ (s : State) (r : CasRun) (y : CasSlot) (x : Work), s.w.cas.run = some r → r.op = 1 → casSlot s.w r.slot = some y →
    getWork s.w r.work = some x → x.stop = none → casEnding s.w r.work = false →
    invPending s.w (moveKeys y.owner r.moves) = false → admits s.w 1 x.part = true →
    Completes .offloadAcknowledged s (fun w' =>
      casSlot w' r.slot = some y ∧ w'.cas.run = some { r with moved := true } ∧ getWork w' r.work = some x ∧
      AwaitsLast w' r.work (moveKeys y.owner r.moves) ∧
      rg w' rCAS_BYTES_OUT = (rg s.w rCAS_BYTES_OUT + y.len) % 2 ^ 64 ∧
      (x.part < 16 → (∀ m ∈ r.moves, (m.va - y.va) / 65536 < 2 ^ 24) →
        ∀ m ∈ r.moves, pteKind (pteOf w' y.owner m.level m.va) = 3) ∧
      (∀ m, r.moves = [m] → m.level = 0 → quietMemory s.w (nth y.pages ((m.va - y.va) / 65536) 0) →
        pageCopied s.w w' m.frame (nth y.pages ((m.va - y.va) / 65536) 0)))) ∧
  (∀ (s : State) (r : CasRun) (y : CasSlot) (x : Work) (q : InvReq) (rest : List InvReq), s.w.mem.inval = q :: rest →
    q.cont = .casDone r.work → s.w.cas.run = some r → casSlot s.w r.slot = some y → getWork s.w r.work = some x → x.fin = none →
    (r.op = 1 → r.moved = true → Completes .tlbInvalidateConfirmed s (fun w' =>
      casSlot w' r.slot = some { y with st := .host } ∧ w'.cas.run = none ∧ Ended w' r.work 0 x ∧ w'.mem.inval = rest ∧
      w'.mem.bytes = s.w.mem.bytes ∧ w'.mem.pte = s.w.mem.pte)) ∧
    (r.op = 2 → Completes .tlbInvalidateConfirmed s (fun w' =>
      casSlot w' r.slot = none ∧ w'.cas.run = none ∧ Ended w' r.work 0 x ∧ w'.mem.inval = rest ∧
      w'.mem.bytes = s.w.mem.bytes ∧ w'.mem.pte = s.w.mem.pte))) ∧
  (∀ (s : State) (k : Nat) (x : Work) (y : CasSlot), casReady s.w k 2 x → ownSlot s.w x = some (some y) →
    (y.st = .host → Completes (.prefetch k) s (fun w' =>
      casSlot w' (slotKey x) = some { y with st := .inn } ∧
      w'.cas.run = some { work := k, op := 2, slot := slotKey x, moves := [], moved := false } ∧ w'.mem = s.w.mem ∧ w'.fe = s.w.fe)) ∧
    (y.st ≠ .host → Completes (.prefetch k) s (fun w' =>
      casSlot w' (slotKey x) = none ∧ Ended w' k 0 x ∧ w'.mem.bytes = s.w.mem.bytes ∧ w'.mem.pte = s.w.mem.pte))) ∧
  (∀ (s : State) (k : Nat) (x : Work) (y : CasSlot), casReady s.w k 3 x → ownSlot s.w x = some (some y) →
    Completes (.casDiscard k) s (fun w' =>
      casSlot w' (slotKey x) = none ∧ Ended w' k 0 x ∧ w'.mem.bytes = s.w.mem.bytes ∧ w'.mem.pte = s.w.mem.pte)) ∧
  (∀ (s : State) (r : CasRun) (y : CasSlot) (x : Work), s.w.cas.run = some r → r.op = 2 → casSlot s.w r.slot = some y →
    getWork s.w r.work = some x → x.stop = none → x.fin = none → casEnding s.w r.work = false →
    (nextOff s.w r.slot y = none → Completes .prefetchPageMapped s (fun w' =>
      casSlot w' r.slot = none ∧ w'.cas.run = none ∧ Ended w' r.work 0 x ∧ w'.mem.bytes = s.w.mem.bytes)) ∧
    (∀ m f pool, nextOff s.w r.slot y = some m → allocPage (m.level = 1) (hbmPool s.w x.part) = some (f, pool) →
      admits s.w 1 x.part = true → Completes .prefetchPageMapped s (fun w' =>
        pageMapped s.w w' y.owner m f ∧ (∃ q ∈ w'.mem.inval, q.keys = [pteKey y.owner m.level m.va]) ∧
        rg w' rCAS_BYTES_IN = (rg s.w rCAS_BYTES_IN + pageBytes (m.level = 1)) % 2 ^ 64 ∧
        (m.level = 0 → quietMemory s.w f →
          pageCopied s.w w' (nth y.pages (pteOffPage (pteOf s.w y.owner m.level m.va)) 0) f)))) ∧
  (∀ (s : State) (p : PageIn) (rest : List PageIn) (f : Nat) (y : CasSlot), s.w.cas.pageIns = p :: rest →
    p.frame = some f → casSlot s.w p.slot = some y → p.ctx = y.owner → offTo p.slot (pteOf s.w p.ctx p.level p.va) = true →
    admits s.w 1 (p.slot / 65536) = true →
    Completes .pageInComplete s (fun w' =>
      w'.cas.pageIns = rest ∧ pageMapped s.w w' p.ctx ⟨p.va, p.level, f⟩ f ∧
      (∃ q ∈ w'.mem.inval, q.keys = [pteKey p.ctx p.level p.va]) ∧
      rg w' rCAS_BYTES_IN = (rg s.w rCAS_BYTES_IN + pageBytes (p.level = 1)) % 2 ^ 64 ∧
      (p.level = 0 → quietMemory s.w f →
        pageCopied s.w w' (nth y.pages (pteOffPage (pteOf s.w p.ctx p.level p.va)) 0) f)))

namespace Sys2Proof.Machine

/-- A Saffron command that passes R209's table and is not yet with the units. -/
def safReady (w : World) (k op : Nat) (x : Work) : Prop :=
  getWork w k = some x ∧ x.kind = 3 ∧ x.fin = none ∧ x.stop = none ∧ safOf w k = none ∧ sBad x.cmd = false ∧ sOp x.cmd = op

/-- A Saffron command of which nothing is done. -/
def newSafCmd (k ctx : Nat) (cmd : List Byte) : SafCmd :=
  { work := k, ctx := ctx, cmd := cmd, flags := 0, poison := false, version := false, gone := false, failed := []
    skipped := [], done := [], loaded := [], waits := [] }

/-- The command is with the units, at its place in release order, and nothing of it is done. -/
def Queued (w w' : World) (k : Nat) (x : Work) (cmd : List Byte) : Prop :=
  let earlier (c : SafCmd) : Bool := (getWork w c.work).any (fun y => y.order < x.order)
  w'.saf.cmds = w.saf.cmds.takeWhile earlier ++ [newSafCmd k x.ctx cmd] ++ w.saf.cmds.dropWhile earlier ∧ w'.fe = w.fe

/-- A command that the units hold, whose unit `u` may go on with it. -/
def unitMay (w : World) (k u : Nat) (c : SafCmd) (x : Work) : Prop :=
  safOf w k = some c ∧ getWork w k = some x ∧ x.stop = none ∧ u < 12 ∧ unitReached w k u = true ∧ admits w 0 x.part = true

/-- The block once the pages of a unit's reads are found ready, and their lines are counted for the partition's rate. -/
def safCharged (c : SafCmd) (x : Work) (rs : List (Nat × Nat)) (n : Nat) (w : World) : World :=
  charge 0 x.part n (safRanges c.ctx c.work rs w).2

/-- Every page of these ranges can be read. -/
def safReadable (c : SafCmd) (rs : List (Nat × Nat)) (w : World) : Prop := (safRanges c.ctx c.work rs w).1 = .ready

/-- A unit's copy of a factor: its source once read. -/
def factorRead (u : Nat) (c : SafCmd) (x : Work) (w : World) : List Byte × World :=
  streamRead bySaffron (0x050 + u) 0 c.ctx (sRecBase c.cmd) 131072 (safCharged c x [(sRecBase c.cmd, 131072)] 131072 w)

/-- PROG_LOAD's check finds the pages of its source ready, and reads bytes of it. -/
def progRead (k : Nat) (x : Work) (n a m : Nat) (w : World) (b : List Byte) (v : World) : Prop :=
  rangeNormal w x.ctx (sRecBase x.cmd) n x.stamp = true ∧
  (rangeState x.ctx (sRecBase x.cmd) n false (some k) w).1.1 = .ready ∧
  streamRead bySaffron 0x050 0 x.ctx (sRecBase x.cmd + a) m (rangeState x.ctx (sRecBase x.cmd) n false (some k) w).2 = (b, v) ∧
  poisonAt v x.ctx (sRecBase x.cmd + a) m = none

/-- The gradient of a record, as its rule takes it (R216 to R220). -/
def recordGrad (w : World) (c : SafCmd) (u j : Nat) (g q : List Byte) : List FVal :=
  if sRule c.cmd = 3 then slicedGrad (sFlag c.cmd 1) (sFmt c.cmd) (nth (sHyper c.cmd) 0 0) g q
      (mgetD w.saf.factors (8 * u + sFactor c.cmd + j / 8) []) (j % 8)
  else plainGrad (sFlag c.cmd 1) (sFmt c.cmd) (nth (sHyper c.cmd) 0 0) g q

end Sys2Proof.Machine

/-- An accepted UPDATE, FACTOR_LOAD or PROG_LOAD goes to the units in release order; a refused one ends at once and is
counted. A unit takes a record that is next in its row: its 256 bytes become those of one step of the rule, or, with a
wrong CRC, it fails and stays. A load's copy makes the unit's slot valid. A completed command puts its flags into its
context's word, and one that met poison loses it (R212, R213, R214, R221, R222, R227, R229). -/
def Obligations.SaffronUpdatesRecordsInOrder : Prop :=
  (∀ (s : State) (k : Nat) (x : Work), safReady s.w k 1 x →
    (rangesNormal s.w x.ctx x.stamp (updateRanges x.cmd) = true → updateBad s.w x.cmd = false →
      Completes (.safUpdate k) s (fun w' => Queued s.w w' k x x.cmd ∧ w'.mem = s.w.mem ∧ w'.regs = s.w.regs)) ∧
    (rangesNormal s.w x.ctx x.stamp (updateRanges x.cmd) = false →
      Completes (.safUpdate k) s (fun w' =>
        Ended w' k 3 x ∧ rg w' rSAF_REJECT = (rg s.w rSAF_REJECT + 1) % 2 ^ 64 ∧ w'.saf = s.w.saf ∧ w'.mem = s.w.mem))) ∧
  (∀ (s : State) (k : Nat) (x : Work), safReady s.w k 2 x → rangeNormal s.w x.ctx (sRecBase x.cmd) 131072 x.stamp = true →
    sRecBase x.cmd % 256 = 0 →
    Completes (.factorLoad k) s (fun w' => Queued s.w w' k x x.cmd ∧ w'.mem = s.w.mem ∧ w'.regs = s.w.regs)) ∧
  (∀ (s : State) (k n : Nat) (x : Work) (h b : List Byte) (u v : World), safReady s.w k 3 x →
    16 ≤ sRule x.cmd → sRule x.cmd < 32 → progRead k x 4 0 4 s.w h u → le h 0 1 = 1 → le h 1 1 = n → 0 < n → n ≤ 64 →
    le h 2 2 = 0 → progRead k x (4 + 4 * n) 4 (4 * n) u b v → (sProg (x.cmd ++ b)).all microOk = true →
    Completes (.progLoad k) s (fun w' => Queued s.w w' k x (x.cmd ++ b))) ∧
  (∀ (s : State) (u k i : Nat) (c : SafCmd) (x : Work), unitMay s.w k u c x → sOp c.cmd = 1 → mayTake s.w c u i = true →
    let r := i / sRowRecs c.cmd
    let j := i % sRowRecs c.cmd
    let va := recVa c.cmd r j
    let rs := (va, 256) :: gradRanges c.cmd r j
    let reads := recordReads u c r j (safCharged c x rs (recordBytesMoved c.cmd r j) s.w)
    safReadable c rs s.w → (∀ p ∈ rs, p.2 ≠ 0 → poisonAt reads.2 c.ctx p.1 p.2 = none) →
    let rd := reads.1
    (crc32c (rd.1.take 252) = le rd.1 252 4 → le rd.1 0 1 = 1 → le rd.1 1 1 = sRule c.cmd →
      ∀ b' wrapped fl, stepRecord c.cmd (mgetD s.w.saf.progs (16 * u + (sRule c.cmd - 16)) []) rd.1
        (recordGrad s.w c u j rd.2.1 rd.2.2) = .done b' wrapped fl →
      Completes (.recordUpdate u k i) s (fun w' =>
        (∃ c', safOf w' k = some c' ∧ i ∈ c'.done ∧ c'.flags = c.flags ||| fl ∧ c'.failed = c.failed) ∧
        rg w' rSAF_RECORDS = (rg s.w rSAF_RECORDS + 1) % 2 ^ 64 ∧
        (∀ pa, writesAlone s.w → va % 256 = 0 → vaRead s.w c.ctx va = some pa → isMain pa = true → b'.length = 256 →
          listAt w'.mem.bytes pa 256 = b'))) ∧
    (crc32c (rd.1.take 252) ≠ le rd.1 252 4 →
      Completes (.recordUpdate u k i) s (fun w' =>
        (∃ c', safOf w' k = some c' ∧ i ∈ c'.done ∧ u ∈ c'.failed ∧ c'.poison = true) ∧ fld w' rSAF_ERR 63 1 = 1 ∧
        rg w' rSAF_RECORDS = rg s.w rSAF_RECORDS ∧ (memoryAlone s.w → w'.mem.bytes = s.w.mem.bytes)))) ∧
  (∀ (s : State) (u k : Nat) (c : SafCmd) (x : Work), unitMay s.w k u c x → u ∉ c.loaded →
    (sOp c.cmd = 3 → c.poison = false → Completes (.factorLoadCopyComplete u k) s (fun w' =>
      mget w'.saf.progs (16 * u + (sRule c.cmd - 16)) = some (sProg c.cmd) ∧
      (∃ c', safOf w' k = some c' ∧ u ∈ c'.loaded) ∧ w'.saf.factors = s.w.saf.factors ∧
      (memoryAlone s.w → w'.mem.bytes = s.w.mem.bytes))) ∧
    (sOp c.cmd = 2 → safReadable c [(sRecBase c.cmd, 131072)] s.w →
      poisonAt (factorRead u c x s.w).2 c.ctx (sRecBase c.cmd) 131072 = none →
      Completes (.factorLoadCopyComplete u k) s (fun w' =>
        (∃ c', safOf w' k = some c' ∧ u ∈ c'.loaded) ∧ w'.saf.progs = s.w.saf.progs ∧
        ∃ m, mget w'.saf.factors (8 * u + sFactor c.cmd) = some m ∧
          (memoryAlone s.w → ∀ a pa, a < 131072 → sRecBase c.cmd % 64 = 0 → vaRead s.w c.ctx (sRecBase c.cmd + a) = some pa →
            isMain pa = true → byteAt m a = byteAt s.w.mem.bytes pa)))) ∧
  (∀ (s : State) (k : Nat) (c : SafCmd) (x : Work), safOf s.w k = some c → getWork s.w k = some x → x.fin = none →
    c.poison = false → (if sOp c.cmd = 1 then c.done.length = recCount c else ∀ u, u < 12 → u ∈ c.loaded) →
    Completes (.saffronCommandComplete k) s (fun w' =>
      Ended w' k (if c.gone then 3 else if c.version then 9 else 0) x ∧ safOf w' k = none ∧
      (∀ y, ctxOf s.w c.ctx = some y → ctxOf w' c.ctx = some { y with flags := y.flags ||| c.flags }) ∧
      w'.mem = s.w.mem ∧ w'.regs = s.w.regs)) ∧
  (∀ (s : State) (k : Nat) (c : SafCmd) (x : Work) (y : Ctx), safOf s.w k = some c → getWork s.w k = some x → x.fin = none →
    x.stop = none → ctxOf s.w x.ctx = some y → y.st = .live → c.poison = true →
    (if sOp c.cmd = 1 then c.done.length = recCount c else ∀ u, u < 12 → u ∈ c.loaded) →
    Completes (.saffronCommandComplete k) s (fun w' =>
      (∃ z, getWork w' k = some z ∧ z.fin = some 4) ∧ safOf w' k = none ∧
      (∃ fl, ctxOf w' x.ctx = some { y with st := .lost, cause := 2, flags := y.flags ||| fl }) ∧ w'.mem = s.w.mem))
/-! ### Scheduling and batch steps (chapters 13 and 14) -/

namespace Sys2Proof.Machine

/-- A step that waits for its decision, which frame time has reached, with Meridian enabled. Its entry may be being
stopped, before its release too. -/
def decisionDue (w : World) (k : Nat) (t : Step) (x : Work) : Prop :=
  stepOf w k = some t ∧ getWork w k = some x ∧ t.decide = true ∧ t.decided = false ∧
    fld w rMER_CTL 0 1 = 1 ∧ reachedKey w t.decision = true

/-- The predicted end of a step, from now: lin(now) + ceil(est_ticks · (n - d) / n), in 64-bit integers (R363). -/
def predictedEnd (w : World) (t : Step) : Nat :=
  (ftbTicks w w.ftb.acc + (t.est * (t.total - t.finished) + t.total - 1) / t.total) % 2 ^ 64

/-- A byte outside the records that a launch of `n` cores writes to a save slot keeps its value. -/
def RecordsOnly (w w' : World) (p slot n : Nat) : Prop :=
  memoryAlone w → ∀ a, (∀ i, i < n → a < recordPa w p slot i ∨ recordPa w p slot i + recordSize ≤ a) →
    byteAt w'.mem.bytes a = byteAt w.mem.bytes a

/-- The lines of a record that are poisoned, by their number in it. -/
def badLines (w : World) (pa : Nat) : List Nat := (List.range (recordSize / 128)).filter (fun j => poisoned w (pa + 128 * j) 1)

end Sys2Proof.Machine

/-- A launch being pre-empted whose cores are quiet is saved, with its cores' records, to the lowest free slot, and a chosen
saved launch runs on with them, poisoned where its records are (the place of a record and of its words in the save area,
which is not an interface, is the model's: log entry 136). A swap-out that ends leaves its context SWAPPED with its pages in
the host tier, a swap-in leaves it RESIDENT; a refill raises every bucket with a rate by 500 bytes for each unit of it, up to its burst. At its release a
step acquires each model it names and may start. At its decision, once, Meridian predicts its end; before it, and of a
step that has ended or been decided, an evaluation changes nothing. A step predicted to end before its deadline is left
alone; any other is abandoned for its fallback, with one message (R258, R345, R353, R355 to R357, R360, R363, R364,
R474). -/
def Obligations.LaunchesAreSavedAndStepsDecided : Prop :=
  (∀ (s : State) (p : Nat) (l : Launch), mget s.w.fe.launches p = some l → p ∈ s.w.sched.preempt → l.stop = none →
    (∀ n ∈ l.cores, coreQuiet (coreOf s.w n) = true) → s.w.ras.retiring = [] → fld s.w rRAS_STATUS 1 1 = 0 →
    ¬ (l.placed = l.groups ∧ ∀ n ∈ l.cores, coreDrained (coreOf s.w n) = true) →
    Completes (.launchSaved p) s (fun w' =>
      mget w'.fe.launches p = none ∧ p ∉ w'.sched.preempt ∧
      (∃ v, mgetD w'.sched.saved p [] = mgetD s.w.sched.saved p [] ++ [v] ∧ v.launch = l ∧ v.lost = false ∧
        v.slot = freeSaveSlot s.w p ∧ v.cores = l.cores.map (fun n =>
          (n, { coreOf s.w n with tlb := [], l1 := [], ccache := [], icache := [], gated := [] }))) ∧
      (∀ n ∈ l.cores, (coreOf w' n).launch = none) ∧ (∀ n, n ∉ l.cores → coreOf w' n = coreOf s.w n) ∧
      rg w' rSCHED_PREEMPTS = (rg s.w rSCHED_PREEMPTS + 1) % 2 ^ 64 ∧
      RecordsOnly s.w w' p (freeSaveSlot s.w p) l.cores.length)) ∧
  (∀ (s : State) (p : Nat) (c : Cand) (v : Saved), feHeld s.w = false → mget s.w.fe.launches p = none →
    choose s.w p = some c → c.saved = true → (savedOf s.w p).find? (fun v => v.launch.work = c.key) = some v →
    v.lost = false → (∀ n ∈ v.launch.cores, coreServes s.w n = true) → (v.cores.map (·.1)).Nodup →
    Completes (.restoreComplete p) s (fun w' =>
      (∃ l, mget w'.fe.launches p = some l ∧ l.work = v.launch.work ∧ l.placed = v.launch.placed ∧
        l.cores = v.launch.cores ∧ l.pageIns = v.launch.pageIns ∧ l.freed = v.launch.freed ∧ l.started = s.w.now) ∧
      (∀ x i, (x, i) ∈ v.cores.zipIdx → ∃ ls, coreOf w' x.1 = markRestored ls (restoredCore (coreOf s.w x.1) x.2) ∧
        (memoryAlone s.w → ls = badLines s.w (recordPa s.w p v.slot i))) ∧
      (∀ y ∈ savedOf w' p, y.launch.work ≠ c.key) ∧
      rg w' rSCHED_RESTORES = (rg s.w rSCHED_RESTORES + 1) % 2 ^ 64 ∧
      (memoryAlone s.w → w'.mem.bytes = s.w.mem.bytes))) ∧
  (∀ (s : State) (c : Nat) (fs : List Nat) (pool : Pool), residencyOf s.w c = .swappingOut →
    admits s.w 1 (ctxPart s.w c) = true → runnable s.w (ctxPart s.w c) c = false →
    allocList ((swapPages s.w c).map (·.big)) (hostPool s.w (ctxPart s.w c)) = some (fs, pool) →
    Completes (.swapOutComplete c) s (fun w' =>
      residencyOf w' c = .swapped ∧ rg w' rSCHED_SWAP_OUT = (rg s.w rSCHED_SWAP_OUT + 1) % 2 ^ 64 ∧
      (mgetD w'.sched.moved c []).map (·.key) = (swapPages s.w c).map (·.key) ∧
      (∀ x, swapPages s.w c = [x] → x.big = false → quietMemory s.w (fs.headD 0) →
        pageCopied s.w w' x.frame (fs.headD 0)) ∧
      w'.fe = s.w.fe)) ∧
  (∀ (s : State) (c : Nat) (fs : List Nat) (pool : Pool), residencyOf s.w c = .swappingIn →
    admits s.w 1 (ctxPart s.w c) = true → runnable s.w (ctxPart s.w c) c = true →
    allocList ((movedPages s.w c).map (·.big)) (hbmPool s.w (ctxPart s.w c)) = some (fs, pool) →
    Completes (.swapInComplete c) s (fun w' =>
      residencyOf w' c = .resident ∧ rg w' rSCHED_SWAP_IN = (rg s.w rSCHED_SWAP_IN + 1) % 2 ^ 64 ∧
      mget w'.sched.moved c = none ∧
      (∀ x, movedPages s.w c = [x] → x.big = false → quietMemory s.w (fs.headD 0) →
        pageCopied s.w w' x.frame (fs.headD 0)) ∧
      w'.fe = s.w.fe)) ∧
  (∀ (s : State), Completes .bucketRefill s (fun w' =>
      (∀ b p, b < 3 → p < 16 → mgetD w'.sched.rates (16 * b + p) 0 = fld s.w (bucketReg b p) 0 16) ∧
      (∀ b p, b < 3 → p < 16 → (b = 2 → ∀ c ∈ s.w.net.conns, c.2.again = 0) → mget w'.sched.levels (16 * b + p) =
        if fld s.w (bucketReg b p) 0 16 = 0 then none
        else some (min (mgetD s.w.sched.levels (16 * b + p) 0 + fld s.w (bucketReg b p) 0 16 * 500)
          (1024 * fld s.w (bucketReg b p) 32 16))) ∧
      ((∀ c ∈ s.w.net.conns, c.2.again = 0) → w'.regs = s.w.regs) ∧
      w'.mem = s.w.mem ∧ w'.fe = s.w.fe ∧ w'.cores = s.w.cores)) ∧
  (∀ (s : State) (k : Nat) (t : Step) (x : Work), feHeld s.w = false → stepOf s.w k = some t → getWork s.w k = some x →
    t.released = false → x.stop = none → x.fin = none → (t.release = 0 ∨ reachedKey s.w t.release = true) →
    Completes (.stepRelease k) s (fun w' =>
      let known := t.models.filter (fun m => (modelOf s.w m).isSome)
      stepOf w' k = some { t with released := true, models := known } ∧
      (∀ m d, modelOf s.w m = some d → ∃ d', modelOf w' m = some d' ∧ d'.use = d.use + known.count m) ∧
      (∀ a, PageKept s.w w' a) ∧ w'.fe = s.w.fe)) ∧
  (∀ (s : State) (k : Nat), (∀ t, stepOf s.w k = some t → t.decide = false ∨ t.decided = true ∨
      reachedKey s.w t.decision = false ∨ fld s.w rMER_CTL 0 1 = 0) →
    Completes (.meridianEvaluation k) s (fun w' => w' = s.w)) ∧
  (∀ (s : State) (k : Nat) (t : Step) (x : Work), decisionDue s.w k t x →
    predictedEnd s.w t < linOfKey s.w t.deadline % 2 ^ 64 →
    Completes (.meridianEvaluation k) s (fun w' =>
      stepOf w' k = some { t with decided := true, predicted := predictedEnd s.w t } ∧
      rg w' rMER_DECISIONS = (rg s.w rMER_DECISIONS + 1) % 2 ^ 64 ∧ rg w' rMER_FALLBACKS = rg s.w rMER_FALLBACKS ∧
      w'.fe = s.w.fe ∧ w'.irq = s.w.irq ∧ w'.mem = s.w.mem)) ∧
  (∀ (s : State) (k : Nat) (t : Step) (x : Work), decisionDue s.w k t x →
    linOfKey s.w t.deadline % 2 ^ 64 ≤ predictedEnd s.w t →
    Completes (.meridianEvaluation k) s (fun w' =>
      stepOf w' k = some { t with decided := true, predicted := predictedEnd s.w t, abandoned := true } ∧
      rg w' rMER_DECISIONS = (rg s.w rMER_DECISIONS + 1) % 2 ^ 64 ∧
      rg w' rMER_FALLBACKS = (rg s.w rMER_FALLBACKS + 1) % 2 ^ 64 ∧
      (∃ m ∈ w'.irq.inbox, m.src = 0x0A0 ∧ m.ctx = t.ctx ∧ m.status = 5) ∧ w'.mem = s.w.mem))
/-! ### Frame time (chapter 15) -/

namespace Sys2Proof.Machine

/-- Nothing but the frame time base, its registers, its messages and the cores' view of it changes. -/
def OnlyFrameTime (w w' : World) : Prop :=
  w'.mem = w.mem ∧ w'.fe = w.fe ∧ w'.net = w.net ∧ w'.sched = w.sched ∧ w'.now = w.now ∧
    (∀ o, o < 0x600000 ∨ 0x600098 ≤ o → rg w' o = rg w o)

/-- The frame time base's last message: an event of R376. -/
def ftbTold (w' : World) (event : Nat) : Prop :=
  ∃ m, w'.irq.inbox.getLast? = some m ∧ m.src = 0x0A1 ∧ m.ctx = 0xFFFFF ∧ m.cookie / 2 ^ 56 = event

/-- A reference time in ns since the epoch, in units of the accumulator (R369, R372). -/
def ptpRef (w : World) (ns : Nat) : Nat := ns * ftbNum w * ftbLpf w * 65536 / (ftbDen w * 10 ^ 9) * ftbUnit w

end Sys2Proof.Machine

/-- The first measurement after the image loads, and one that a resync waits for, set the time and are told; a PTP message
that completes no measurement changes nothing; sixteen measurements within lock_ns lock; LOCKED without a measurement
for loss_ms becomes HOLDOVER; an analogue reference of another rate is told once; an armed alignment sets the frame
count (R372 to R376, R392). -/
def Obligations.FrameTimeIsSetMeasuredAndLost : Prop :=
  (∀ (s : State) (ns : Nat), ftbSource s.w = 2 → ftbState s.w ≠ 0 →
    (fld s.w rFTB_STATUS 2 1 = 0 ∨ fld s.w rFTB_STATUS 3 1 = 1) →
    Completes (.ptpEventMessage true ns) s (fun w' =>
      w'.ftb.acc = ptpRef s.w ns ∧ w'.ftb.last = s.w.now ∧ fld w' rFTB_STATUS 2 1 = 1 ∧
      fld w' rFTB_STATUS 3 1 = 0 ∧
      rg w' rFTB_STEPS = (rg s.w rFTB_STEPS + 1) % 2 ^ 64 ∧ rg w' rFTB_MEAS = (rg s.w rFTB_MEAS + 1) % 2 ^ 64 ∧
      ftbTold w' 2 ∧ ftbState w' = ftbState s.w ∧ OnlyFrameTime s.w w')) ∧
  (∀ (s : State) (ns : Nat), Completes (.ptpEventMessage false ns) s (fun w' => w' = s.w)) ∧
  (∀ (s : State) (ns : Nat), ftbSource s.w = 2 → ftbState s.w = 1 → fld s.w rFTB_STATUS 2 1 = 1 →
    fld s.w rFTB_STATUS 3 1 = 0 → s.w.ftb.good = 15 →
    ((s.w.ftb.acc : Int) - ptpRef s.w ns).natAbs ≤ fld s.w rFTB_SERVO 0 32 * ftbNs s.w →
    Completes (.ptpEventMessage true ns) s (fun w' =>
      ftbState w' = 2 ∧ w'.ftb.acc = s.w.ftb.acc ∧ rg w' rFTB_MEAS = (rg s.w rFTB_MEAS + 1) % 2 ^ 64 ∧ ftbTold w' 1 ∧
      OnlyFrameTime s.w w')) ∧
  (∀ (s : State), ftbState s.w = 2 → s.w.ftb.last + fld s.w rFTB_SERVO 48 16 * 10 ^ 6 ≤ s.w.now →
    Completes .ftbLossTimeout s (fun w' =>
      ftbState w' = 3 ∧ w'.ftb.acc = s.w.ftb.acc ∧ rg w' rFTB_LOSSES = (rg s.w rFTB_LOSSES + 1) % 2 ^ 64 ∧ ftbTold w' 1 ∧
      OnlyFrameTime s.w w')) ∧
  (∀ (s : State) (period lines : Nat), ftbSource s.w = 3 → ftbState s.w ≠ 0 →
    let fits := within1000 (10 ^ 9 * ftbDen s.w) (ftbNum s.w * period) && within1000 lines (ftbLpf s.w)
    Completes (.analogFrameStart period lines) s (fun w' =>
      (fits = false → fld w' rFTB_STATUS 5 1 = 1 ∧ (fld s.w rFTB_STATUS 5 1 = 0 → ftbTold w' 3) ∧
        rg w' rFTB_MEAS = rg s.w rFTB_MEAS ∧ (fld s.w rFTB_ALIGN 63 1 = 0 → w'.ftb = s.w.ftb)) ∧
      (fits = true → rg w' rFTB_MEAS = (rg s.w rFTB_MEAS + 1) % 2 ^ 64 ∧ w'.ftb.last = s.w.now) ∧
      (fld s.w rFTB_ALIGN 63 1 = 1 → 0 < ftbFrame s.w →
        fld w' rFTB_ALIGN 63 1 = 0 ∧ w'.ftb.acc / ftbFrame s.w = fld s.w rFTB_ALIGN 0 48) ∧ OnlyFrameTime s.w w')) ∧
  (∀ (s : State), configured s.w = true → 2 ≤ ftbSource s.w →
    Completes .resync s (fun w' =>
      fld w' rFTB_STATUS 3 1 = 1 ∧ (∀ o, o ≠ rFTB_STATUS → rg w' o = rg s.w o) ∧ w'.ftb = s.w.ftb ∧ w'.irq = s.w.irq)) ∧
  (∀ (s : State) (frame : Nat), configured s.w = true → ftbSource s.w = 3 →
    Completes (.ftbAlignArm frame) s (fun w' =>
      fld w' rFTB_ALIGN 63 1 = 1 ∧ fld w' rFTB_ALIGN 0 48 = frame % 2 ^ 48 ∧
      (∀ o, o ≠ rFTB_ALIGN → rg w' o = rg s.w o) ∧ w'.ftb = s.w.ftb))

/-! ### Barriers (R385 to R390) -/

namespace Sys2Proof.Machine

/-- A BAR.ARV that arrives: its handle, and the arrival it makes. -/
def barHandle (i : Iss) (w : World) : Nat := (uRead (groupOf w i.core i.slot) (fB i)).toNat
def barArrival (i : Iss) (w : World) : BarArrival :=
  { slot := i.slot, handle := barHandle i w, sem := ySem i, mask := i.path, pc := i.pc }

/-- Its encoding and handle are legal, the launch is cooperative, and the network group takes it (R149, R389). -/
def barLegal (i : Iss) (w : World) : Prop :=
  fixedBad (fm 35 5 + fm 24 8) i = false ∧ ySem i < 16 ∧ i.ex ≠ 0 ∧ (launchOn w i.core).coop = true ∧
    handleBad (barHandle i w) = false ∧ nbgRefuses w (barHandle i w) (launchOn w i.core) = false

/-- The arrivals of its barrier that its core holds. -/
def barPeers (i : Iss) (w : World) : List BarArrival := arrivalsOf (coreOf w i.core) (hBarrier (barHandle i w))

end Sys2Proof.Machine

/-- BAR.ARV arrives at its core; the last of the groups the core expects sends one contribution to its cluster; a second
arrival of a group is held and its lanes wait. A contribution that fills its counter releases the barrier at the level
of its scope, or goes up. A release raises each distinct semaphore by 1 and clears the phase. A network group takes ARRIVE
of a child in its phase and counts any datagram that fails R410's checks; RELEASE from its parent completes the phase
and releases its cores; an ARRIVE without a RELEASE is sent again after retry_us; enabling a group starts it at phase 0
(R386 to R390, R392, R410). -/
def Obligations.BarriersAndNetworkGroupsCountAndRelease : Prop :=
  (∀ (a : At) (s : State) (i : Iss), IssuesAs a s i 5 3 ⟨[], [(fB i, 1, 1)]⟩ → barLegal i s.w →
    let c := coreOf s.w i.core
    let b := hBarrier (barHandle i s.w)
    (hasArrived c i.slot b = false → (∀ y ∈ (barPeers i s.w).head?, handleDiffers y.handle (barHandle i s.w) = false) →
      (barPeers i s.w).length + 1 ≠ c.expect →
      Completes (.barArv a) s (fun w' =>
        (coreOf w' i.core).arrived = c.arrived ++ [barArrival i s.w] ∧ (coreOf w' i.core).held = c.held ∧
        (groupOf w' i.core i.slot).threads = pastIssue i (groupOf s.w i.core i.slot) ∧
        (coreOf w' i.core).sems = c.sems ∧ OwnRegsKept i s.w w' ∧ IssueFrame i s.w w')) ∧
    (∀ cl l, hasArrived c i.slot b = false →
      (∀ y ∈ (barPeers i s.w).head?, handleDiffers y.handle (barHandle i s.w) = false) →
      (barPeers i s.w).length + 1 = c.expect → c.launch = some cl → mget s.w.fe.launches cl.part = some l →
      Completes (.barArv a) s (fun w' =>
        (coreOf w' i.core).arrived = c.arrived ++ [barArrival i s.w] ∧
        mget w'.fe.launches cl.part = some { l with barMsgs := l.barMsgs ++
          [⟨1, i.core / 16, ((barPeers i s.w).headD (barArrival i s.w)).handle, [i.core]⟩] } ∧ w'.mem = s.w.mem)) ∧
    (hasArrived c i.slot b = true →
      Completes (.barArv a) s (fun w' =>
        (coreOf w' i.core).held = c.held ++ [barArrival i s.w] ∧ (coreOf w' i.core).arrived = c.arrived ∧
        (groupOf w' i.core i.slot).threads =
          lanesChanged i.path (fun t => { t with st := .waitBar b (ySem i) }) (pastIssue i (groupOf s.w i.core i.slot)) ∧
        OwnRegsKept i s.w w' ∧ IssueFrame i s.w w'))) ∧
  (∀ (s : State) (part idx : Nat) (l : Launch) (m : BarMsg), mget s.w.fe.launches part = some l →
    l.barMsgs[idx]? = some m →
    let key := barKey m.level m.unit (hBarrier m.handle)
    let old := mgetD l.bars key ⟨0, [], m.handle⟩
    handleDiffers old.handle m.handle = false →
    (old.count + 1 ≠ barExpect l m.level m.unit →
      Completes (.barrierContribution part idx) s (fun w' =>
        mget w'.fe.launches part = some { l with
          barMsgs := l.barMsgs.eraseIdx idx, bars := mset l.bars key ⟨old.count + 1, old.cores ++ m.cores, old.handle⟩ } ∧
        w'.cores = s.w.cores ∧ w'.mem = s.w.mem ∧ w'.regs = s.w.regs)) ∧
    (old.count + 1 = barExpect l m.level m.unit → m.level = hScope old.handle + 1 →
      Completes (.barrierContribution part idx) s (fun w' =>
        mget w'.fe.launches part = some { l with
          barMsgs := l.barMsgs.eraseIdx idx, bars := mdel l.bars (barKey m.level m.unit (hBarrier old.handle))
          barRels := l.barRels ++ (old.cores ++ m.cores).map (·, hBarrier old.handle) } ∧
        w'.cores = s.w.cores ∧ w'.mem = s.w.mem ∧ w'.regs = s.w.regs)) ∧
    (old.count + 1 = barExpect l m.level m.unit → m.level ≠ hScope old.handle + 1 → m.level ≠ 3 →
      Completes (.barrierContribution part idx) s (fun w' =>
        mget w'.fe.launches part = some { l with
          barMsgs := l.barMsgs.eraseIdx idx ++ [⟨m.level + 1, if m.level = 1 then m.unit / 4 else 0, old.handle,
            old.cores ++ m.cores⟩]
          bars := mdel l.bars (barKey m.level m.unit (hBarrier old.handle)) } ∧
        w'.cores = s.w.cores ∧ w'.mem = s.w.mem ∧ w'.regs = s.w.regs))) ∧
  (∀ (s : State) (n b : Nat) (cl : CoreLaunch) (l : Launch), (coreOf s.w n).launch = some cl →
    mget s.w.fe.launches cl.part = some l → (n, b) ∈ l.barRels → (∀ y ∈ (coreOf s.w n).held, hBarrier y.handle ≠ b) →
    Completes (.barrierRelease n b) s (fun w' =>
      mget w'.fe.launches cl.part = some { l with barRels := l.barRels.erase (n, b) } ∧
      (coreOf w' n).arrived = (coreOf s.w n).arrived.filter (fun y => hBarrier y.handle ≠ b) ∧
      (∀ m, mgetD (coreOf w' n).sems m 0 = mgetD (coreOf s.w n).sems m 0 +
        (if m ∈ (arrivalsOf (coreOf s.w n) b).map (·.sem) then 1 else 0)) ∧
      (∀ k, k ≠ n → coreOf w' k = coreOf s.w k) ∧ w'.mem = s.w.mem)) ∧
  (∀ (s : State) (port d k : Nat), configured s.w = true → portRole s.w port = 1 → btSender s.w d = some k → k < 16 →
    let g := bits d 16 4
    let b := bits d 24 6
    bits d 32 16 = (phaseOf s.w g b).phase → k ∉ (phaseOf s.w g b).arrived → (phaseOf s.w g b).cores = none →
    Completes (.nbgArrive port d) s (fun w' =>
      phaseOf w' g b = { phaseOf s.w g b with arrived := sIns (phaseOf s.w g b).arrived k } ∧ b ∈ (nbgOf w' g).inflight ∧
      w'.regs = s.w.regs ∧ w'.fe = s.w.fe ∧ w'.mem = s.w.mem)) ∧
  (∀ (s : State) (port d : Nat), configured s.w = true → portRole s.w port = 1 → btSender s.w d = none →
    Completes (.nbgArrive port d) s (fun w' =>
      rg w' rBT_NET_DROP = (rg s.w rBT_NET_DROP + 1) % 2 ^ 64 ∧ w'.nbgs = s.w.nbgs ∧ w'.fe = s.w.fe) ∧
    Completes (.nbgRelease port d) s (fun w' =>
      rg w' rBT_NET_DROP = (rg s.w rBT_NET_DROP + 1) % 2 ^ 64 ∧ w'.nbgs = s.w.nbgs ∧ w'.fe = s.w.fe)) ∧
  (∀ (s : State) (port d : Nat) (l : Launch), configured s.w = true → portRole s.w port = 1 → btSender s.w d = some 16 →
    let g := bits d 16 4
    let b := bits d 24 6
    bits d 32 16 = (phaseOf s.w g b).phase → nbgLaunch s.w g = some l →
    (∀ v ∈ mgetD s.w.sched.saved (nbgPart s.w g) [], v.launch.work ≠ (nbgOf s.w g).work) →
    Completes (.nbgRelease port d) s (fun w' =>
      phaseOf w' g b = { blankPhase with phase := ((phaseOf s.w g b).phase + 1) % 65536 } ∧
      b ∉ (nbgOf w' g).inflight ∧ rg w' rBT_COMPLETIONS = (rg s.w rBT_COMPLETIONS + 1) % 2 ^ 64 ∧
      mget w'.fe.launches (nbgPart s.w g) =
        some { l with barRels := l.barRels ++ ((phaseOf s.w g b).cores.getD []).map (·, b) } ∧ w'.mem = s.w.mem)) ∧
  (∀ (s : State) (g b t : Nat), (phaseOf s.w g b).sent = some t → (phaseOf s.w g b).released = false →
    nbgActive s.w g = true →
    t + 1000 * fld s.w (rBT_NBG_CFG g) 48 16 ≤ s.w.now →
    Completes (.arriveResend g b) s (fun w' =>
      phaseOf w' g b = { phaseOf s.w g b with sent := some s.w.now } ∧
      rg w' rBT_NET_RETRY = (rg s.w rBT_NET_RETRY + 1) % 2 ^ 64 ∧ w'.fe = s.w.fe ∧ w'.mem = s.w.mem)) ∧
  (∀ (s : State) (g : Nat), configured s.w = true → g < 16 →
    Completes (.nbgEnable g) s (fun w' =>
      fld w' (rBT_NBG_STATUS g) 0 2 = 1 ∧ (nbgOf w' g).ctx = none ∧ (nbgOf w' g).inflight = [] ∧
      (∀ b, (phaseOf w' g b).phase = 0) ∧ (∀ k, k ≠ g → nbgOf w' k = nbgOf s.w k) ∧ w'.fe = s.w.fe))
/-! ### Ports, frames and RoCEv2 (chapter 16) -/

namespace Sys2Proof.Machine

/-- A virtual range lies in one page of main memory from a physical address on, and nothing else reaches memory. -/
def onePage (w : World) (ctx va n pa : Nat) : Prop :=
  vaRead w ctx va = some pa ∧ pa % 64 = va % 64 ∧ va % 65536 + n ≤ 65536 ∧ isMain pa = true ∧ isMain (pa + n - 1) = true ∧
    writesAlone w

/-- A message of a source unit is on its way, the last sent. -/
def lastMsg (w' : World) (src event : Nat) : Prop :=
  ∃ m, w'.irq.inbox.getLast? = some m ∧ m.src = src ∧ m.ctx = 0xFFFFF ∧ m.cookie / 2 ^ 56 = event

/-- A packet's payload is charged to no bucket with a rate (R345, R346). -/
def unlimited (w : World) (k : NetPkt) : Prop := ∀ p, pktPart w k = some p → mgetD w.sched.rates (32 + p) 0 = 0

/-- The connection sends its packets again, oldest first: `again` of them are left because the bucket of the next one
refuses it. -/
def SentAgain (w w' : World) (i : Nat) (c : Conn) (again : Nat) : Prop :=
  connOf w' i = some { c with since := w.now, rnr := none, again := again } ∧ again ≤ c.sent.length ∧
    rg w' rNET_RETX = (rg w rNET_RETX + (c.sent.length - again)) % 2 ^ 64 ∧
    (again ≠ 0 → ∃ k ∈ c.sent, ∃ p, pktPart w k = some p ∧ admits w' 2 p = false) ∧
    ((∀ k ∈ c.sent, unlimited w k) → again = 0) ∧ w'.mem = w.mem ∧ w'.fe = w.fe

/-- The connection's peer has an address, or it is the twin pair's internal one. -/
def peerThere (w : World) (i : Nat) : Prop := i = twinConn ∨ peerGone w i = false

/-- The connection that an inbound packet names by its destination QPN (R403): 0x100 is connection 0's. -/
def qpn (i : Nat) : Nat := 0x100 + i

/-- A range can be read by a port: its pages translate, and it holds no poison. -/
def readable (w : World) (ctx va n : Nat) : Prop :=
  (rangeState ctx va n false none w).1.1 = .ready ∧ poisonAt (rangeState ctx va n false none w).2 ctx va n = none

end Sys2Proof.Machine

/-- A failed lane of an undegraded optical port is to be replaced by its spare, counted and logged, and the port's status says
so once it resumes; a link comes up and goes down with its message; a received frame stands in its ring's entry and advances the tail; a frame of the transmit ring leaves
as it stands in memory; a node table of version 1 is enabled (R397, R398, R400, R401). -/
def Obligations.PortsCarryFrames : Prop :=
  (∀ (s : State) (p l : Nat), p < 16 → l < 8 → configured s.w = true → portRole s.w p ≠ 0 →
    bit (lanesOut s.w p) l = false → bit (lanesOut s.w p) 8 = false → portDegraded s.w p = false →
    spareFor s.w p = 15 →
    Completes (.laneFailure p l) s (fun w' =>
      mget w'.net.subs p = some l ∧ failedLanes w' p = failedLanes s.w p ∧ spareUsed w' p = spareUsed s.w p ∧
      portUp w' p = false ∧
      rg w' rNET_LANE_SUB = (rg s.w rNET_LANE_SUB + 1) % 2 ^ 64 ∧
      rg w' rRAS_CE_COUNT = (rg s.w rRAS_CE_COUNT + 1) % 2 ^ 64 ∧ w'.mem = s.w.mem ∧ w'.fe = s.w.fe)) ∧
  (∀ (s : State) (p : Nat), p < 20 → configured s.w = true → portRole s.w p ≠ 0 → portUp s.w p = false →
    linkTrains s.w p = true →
    Completes (.linkUp p) s (fun w' =>
      portUp w' p = true ∧ fld w' (rNET_PORT_STATUS p) 8 4 = (if isOptical p && !(portDegraded s.w p) then 8 else 4) ∧
      mget w'.net.subs p = none ∧
      (∀ l, mget s.w.net.subs p = some l → l < 9 → bit (failedLanes w' p) l = true ∧ spareUsed w' p = l) ∧
      lastMsg w' (0x070 + p) 1 ∧ w'.mem = s.w.mem ∧ w'.fe = s.w.fe ∧
      ∀ o, o ≠ rNET_PORT_STATUS p → rg w' o = rg s.w o)) ∧
  (∀ (s : State) (p : Nat), p < 20 → configured s.w = true → portUp s.w p = true → (∀ l ∈ mget s.w.net.subs p, l < 9) →
    Completes (.linkDown p) s (fun w' =>
      portUp w' p = false ∧ lastMsg w' (0x070 + p) 2 ∧ w'.mem = s.w.mem ∧ w'.fe = s.w.fe ∧
      ∀ o, o ≠ rNET_PORT_STATUS p → rg w' o = rg s.w o)) ∧
  (∀ (s : State) (p : Nat) (data : List Byte), p < 20 → configured s.w = true → portRole s.w p = 1 → portUp s.w p = true →
    data.length ≤ 9216 → frOn s.w (frReg false p) = true → frPlaced s.w (frReg false p) = true →
    rg s.w (rNET_FR_RX_TAIL p) - rg s.w (rNET_FR_RX_HEAD p) < frSize s.w (frReg false p) →
    Completes (.receiveFrame p data) s (fun w' =>
      let a := frEntry s.w (frReg false p) (rg s.w (rNET_FR_RX_TAIL p))
      rg w' (rNET_FR_RX_TAIL p) = (rg s.w (rNET_FR_RX_TAIL p) + 1) % 2 ^ 64 ∧ lastMsg w' (0x070 + p) 0 ∧
      rg w' (rNET_FR_RX_HEAD p) = rg s.w (rNET_FR_RX_HEAD p) ∧ w'.fe = s.w.fe ∧
      (writesAlone s.w → listAt w'.mem.bytes (a + 64) data.length = data ∧
        listAt w'.mem.bytes a 2 = natLe data.length 2 ∧
        ∀ b, (b < frBase s.w (frReg false p) + 8 ∨ frBase s.w (frReg false p) + 16 ≤ b) →
          (b < a ∨ a + 64 + data.length ≤ b) → byteAt w'.mem.bytes b = byteAt s.w.mem.bytes b))) ∧
  (∀ (s : State) (p t len : Nat), p < 20 → configured s.w = true → portRole s.w p = 1 → portUp s.w p = true →
    frOn s.w (frReg true p) = true → frPlaced s.w (frReg true p) = true → memoryAlone s.w →
    leNat (listAt s.w.mem.bytes (frBase s.w (frReg true p) + 8) 8) = t → rg s.w (rNET_FR_TX_HEAD p) < t →
    t - rg s.w (rNET_FR_TX_HEAD p) ≤ frSize s.w (frReg true p) →
    let a := frEntry s.w (frReg true p) (rg s.w (rNET_FR_TX_HEAD p))
    leNat (listAt s.w.mem.bytes a 2) = len → len ≤ 9216 → poisoned s.w a (64 + len) = false →
    Completes (.transmitFrame p) s (fun w' =>
      w'.outs = ⟨.frame, [p], listAt s.w.mem.bytes (a + 64) len⟩ :: s.w.outs ∧
      rg w' (rNET_FR_TX_HEAD p) = (rg s.w (rNET_FR_TX_HEAD p) + 1) % 2 ^ 64 ∧ rg w' (rNET_FR_TX_TAIL p) = t ∧
      w'.mem.bytes = s.w.mem.bytes ∧ w'.fe = s.w.fe)) ∧
  (∀ (s : State) (v : Nat), configured s.w = true → fld s.w rNET_NODETAB 0 1 = 0 → memoryAlone s.w →
    let b := bits v 6 46 * 64
    let n := leNat (listAt s.w.mem.bytes (b + 4) 4)
    inHbm b = true → byteAt s.w.mem.bytes b = 1 → 0 < n → n ≤ 262144 → inHbm (b + 63 + 16 * n) = true →
    Completes (.nodeTableEnable v) s (fun w' =>
      fld w' rNET_NODETAB 0 1 = 1 ∧ fld w' rNET_NODETAB 2 2 = 0 ∧ nodeTable w' = b ∧ w'.mem = s.w.mem ∧
      ∀ o, o ≠ rNET_NODETAB → rg w' o = rg s.w o))

/-- CONNECTION_INSTALL puts a connection that may use its port in RTS at the PSNs written, and CONNECTION_RESET returns it
to RESET; congestion halves its rate and quiet raises it by 5 %; REGION_ENABLE of a region that passes the checks opens
it under the next generation and REGION_DISABLE closes it (R402 to R404, R407). -/
def Obligations.ConnectionsAndRegionsOpenAndClose : Prop :=
  (∀ (s : State) (v : Nat) (c : Conn), configured s.w = true → (connOf s.w (connSel s.w)).getD blankConn = c →
    bit c.cfg 63 = false → connPortOk s.w (bits v 36 5) c.peer = true →
    Completes (.connectionInstall v) s (fun w' =>
      (∃ c', connOf w' (connSel s.w) = some c' ∧ bit c'.cfg 63 = true ∧ cPort c' = bits v 36 5 ∧ cCtx c' = bits v 41 20 ∧
        c'.peer = c.peer ∧ c'.st = 1 ∧ c'.next = bits c.psn 24 24 ∧ c'.expect = bits c.psn 0 24 ∧ c'.sent = []) ∧
      (∀ k, k ≠ connSel s.w → connOf w' k = connOf s.w k) ∧ w'.regs = s.w.regs ∧ w'.mem = s.w.mem)) ∧
  (∀ (s : State) (v : Nat) (c : Conn), configured s.w = true → connOf s.w (connSel s.w) = some c → bit c.cfg 63 = true →
    (∀ r ∈ s.w.net.runs, r.conn ≠ connSel s.w) →
    Completes (.connectionReset v) s (fun w' =>
      connOf w' (connSel s.w) = some { blankConn with cfg := c.cfg - 2 ^ 63, peer := c.peer, psn := c.psn } ∧
      (∀ k, k ≠ connSel s.w → connOf w' k = connOf s.w k) ∧ w'.regs = s.w.regs ∧ w'.mem = s.w.mem ∧ w'.fe = s.w.fe)) ∧
  (∀ (s : State) (i : Nat) (c : Conn), connHears s.w i = some c →
    (∀ t, c.cut = some t → t + 50000 ≤ s.w.now) →
    Completes (.cnpReceived (qpn i)) s (fun w' =>
      connOf w' i = some { c with rateAt := s.w.now, cut := some s.w.now, rate := max 1000000000 (c.rate / 2) } ∧
      rg w' rNET_CNP_RX = (rg s.w rNET_CNP_RX + 1) % 2 ^ 64 ∧ w'.mem = s.w.mem ∧ w'.fe = s.w.fe)) ∧
  (∀ (s : State) (i : Nat) (c : Conn), connOf s.w i = some c → c.st = 1 → c.rateAt + 55000 ≤ s.w.now →
    Completes (.rateIncreaseTimer i) s (fun w' =>
      connOf w' i = some { c with
        rateAt := s.w.now
        rate := min (portRate s.w (if i = twinConn then 15 else cPort c))
          (c.rate + portRate s.w (if i = twinConn then 15 else cPort c) / 20) } ∧
      w'.regs = s.w.regs ∧ w'.mem = s.w.mem ∧ w'.fe = s.w.fe)) ∧
  (∀ (s : State) (v : Nat) (r : Region), configured s.w = true → regionOf s.w (regSel s.w) = r → rOn r = false →
    regionError s.w { r with cfg := (v &&& regMask) + rGen r * 2 ^ 20 } = 0 →
    Completes (.regionEnable v) s (fun w' =>
      let r' := regionOf w' (regSel s.w)
      rOn r' = true ∧ rGen r' = (rGen r + 1) % 2 ^ 20 ∧ rCtx r' = bits v 40 20 ∧ r'.va = r.va ∧ r'.len = r.len ∧
      r'.ranks = [] ∧ r'.staged = [] ∧ r'.given = [] ∧ w'.regs = s.w.regs ∧ w'.mem = s.w.mem)) ∧
  (∀ (s : State) (v : Nat) (r : Region), configured s.w = true → regionOf s.w (regSel s.w) = r → rOn r = true →
    Completes (.regionDisable v) s (fun w' =>
      regionOf w' (regSel s.w) = { r with cfg := r.cfg - 2 ^ 63 } ∧ w'.regs = s.w.regs ∧ w'.mem = s.w.mem ∧
      ∀ k, k ≠ regSel s.w → regionOf w' k = regionOf s.w k))

namespace Sys2Proof.Machine

/-- A work whose executor has given it a status. -/
def finIs (w' : World) (k st : Nat) : Prop := ∃ y, getWork w' k = some y ∧ y.fin = some st

/-- The run of a network command on a connection: its work has not ended. -/
def runIs (w : World) (r : NetRun) (i : Nat) (x : Work) : Prop :=
  r ∈ w.net.runs ∧ r.conn = i ∧ getWork w r.work = some x ∧ x.order = r.order ∧ x.fin = none

end Sys2Proof.Machine

/-- An inbound WRITE in sequence stands in the region's memory and is acknowledged; an inbound READ leaves memory as it is
and takes one PSN for each 4,096 bytes. An acknowledgement of every packet completes the commands that have sent all;
an RNR NAK holds the connection back until its timer; a timeout sends again, as far as the partition's bucket admits, and the
eighth, like an access NAK, takes the connection to ERROR (R402, R404, R406). -/
def Obligations.RoceRequestsAndAcknowledgements : Prop :=
  (∀ (s : State) (i psn rkey off rank imm ri : Nat) (notify : Bool) (data : List Byte) (poison : List Nat) (c : Conn)
      (r : Region), connHears s.w i = some c → psn = c.expect → data.length ≤ 4096 →
    regionFor s.w 0 rkey off data.length = some (ri, r) → rangeReady s.w (rCtx r) (r.va + off) data.length true →
    Completes (.rdmaWriteRequest (qpn i) psn 0 rkey off data.length rank true true false notify imm data poison) s (fun w' =>
      (∃ c', connOf w' i = some c' ∧ c'.expect = (c.expect + 1) % 2 ^ 24 ∧ c'.rx = none ∧ c'.st = c.st ∧ c'.sent = c.sent) ∧
      (∀ pa, onePage s.w (rCtx r) (r.va + off) data.length pa → listAt w'.mem.bytes pa data.length = data ∧
        ∀ a, (a < pa ∨ pa + data.length ≤ a) → byteAt w'.mem.bytes a = byteAt s.w.mem.bytes a) ∧
      (notify = true → ∃ m ∈ w'.irq.inbox, m.ctx = rCtx r ∧ m.cookie = 2 * 2 ^ 57 + ri * 2 ^ 32 + imm % 2 ^ 32) ∧
      w'.fe = s.w.fe ∧ regionOf w' ri = r)) ∧
  (∀ (s : State) (i psn rkey off len ri : Nat) (c : Conn) (r : Region), connHears s.w i = some c → psn = c.expect →
    regionFor s.w 2 rkey off len = some (ri, r) → len ≠ 0 → readable s.w (rCtx r) (r.va + off) len →
    Completes (.rdmaReadRequest (qpn i) psn rkey off len false) s (fun w' =>
      (∃ c', connOf w' i = some c' ∧ c'.expect = (c.expect + (len + 4095) / 4096) % 2 ^ 24 ∧ c'.sent = c.sent) ∧
      (memoryAlone s.w → w'.mem.bytes = s.w.mem.bytes) ∧ w'.fe = s.w.fe ∧
      (∀ pa a, i ≠ twinConn → len ≤ 4096 → onePage s.w (rCtx r) (r.va + off) len pa → nodeAddr s.w c.peer = some a →
        isMain (nodeTable s.w + 4) = true → isMain (nodeTable s.w + 64 + 16 * c.peer) = true →
        ∃ o, w'.outs.head? = some o ∧ o.kind = .packet ∧ o.data = listAt s.w.mem.bytes pa len))) ∧
  (∀ (s : State) (i psn : Nat) (ce : Bool) (c : Conn), connHears s.w i = some c → i ≠ twinConn →
    s.w.net.twin.leaving = false → c.sent ≠ [] → (∀ k ∈ c.sent, k.op ≠ 2 ∧ psnLe k.psn psn = true) →
    Completes (.roceAck (qpn i) psn ce) s (fun w' =>
      (∃ cn, connOf w' i = some { c with
          sent := [], again := 0, retries := 0, since := s.w.now, rnr := none, cnpSent := cn } ∧
        (ce = false → cn = c.cnpSent)) ∧
      (∀ r x, runIs s.w r i x → r.all = true → r.op ≠ 4 → finIs w' r.work 0) ∧ w'.mem = s.w.mem)) ∧
  (∀ (s : State) (i : Nat) (c : Conn) (k : NetPkt) (rest : List NetPkt), connHears s.w i = some c → i ≠ twinConn →
    s.w.net.twin.leaving = false → c.sent = k :: rest → k.psn < 2 ^ 24 →
    Completes (.roceNak (qpn i) k.psn 0x13 false) s (fun w' =>
      connOf w' i = some { c with rnr := some s.w.now } ∧ w'.mem = s.w.mem ∧ w'.fe = s.w.fe) ∧
    Completes (.roceNak (qpn i) k.psn 0x11 false) s (fun w' =>
      (∃ c', connOf w' i = some c' ∧ c'.st = 2 ∧ c'.sent = []) ∧
      (∀ r x, runIs s.w r i x → r.order = k.owner → r.op ≠ 5 → finIs w' r.work 3) ∧ w'.mem = s.w.mem)) ∧
  (∀ (s : State) (i : Nat) (c : Conn), connOf s.w i = some c → c.st = 1 → c.sent ≠ [] → c.rnr = none →
    c.since + 65500 ≤ s.w.now →
    (c.retries < 7 → peerThere s.w i → Completes (.ackTimeout i) s (fun w' =>
      ∃ again, SentAgain s.w w' i { c with retries := c.retries + 1 } again)) ∧
    (c.retries < 7 → ¬ peerThere s.w i → s.w.net.twin.leaving = false → Completes (.ackTimeout i) s (fun w' =>
      (∀ r x, runIs s.w r i x → (c.sent.any (·.owner = r.order)) = true → finIs w' r.work 3) ∧ w'.mem = s.w.mem)) ∧
    (7 ≤ c.retries → i ≠ twinConn → Completes (.ackTimeout i) s (fun w' =>
      ∃ c', connOf w' i = some c' ∧ c'.st = 2 ∧ c'.sent = []))) ∧
  (∀ (s : State) (i t : Nat) (c : Conn), connOf s.w i = some c → c.rnr = some t → c.st = 1 → t + 10000 ≤ s.w.now →
    peerThere s.w i → Completes (.rnrRetryTimer i) s (fun w' => ∃ again, SentAgain s.w w' i c again))

namespace Sys2Proof.Machine

/-- A network command that starts now: it passes R405's checks, and nothing holds its connection back. -/
def netStarts (w : World) (k op : Nat) (x : Work) (i : Nat) (c : Conn) : Prop :=
  getWork w k = some x ∧ x.kind = 8 ∧ x.fin = none ∧ x.stop = none ∧ netRun w k x = none ∧ netBad w x.cmd = false ∧
    netUnready w x = false ∧ nOp x.cmd = op ∧ w.net.runs.length < 4096 ∧ connOf w i = some c ∧ stalled w x i = false

/-- The block once a network command is under way, with nothing sent. -/
def netBegun (k op : Nat) (x : Work) (i : Nat) (w : World) : World :=
  setNetRun { work := k, order := x.order, op := op, conn := i, sent := 0, all := false, copy := 0 } w

/-- A connection has one packet more to be acknowledged, with the next PSN. -/
def sentOne (w' : World) (i : Nat) (c : Conn) (k : NetPkt) : Prop :=
  ∃ c', connOf w' i = some c' ∧ c'.sent = c.sent ++ [k] ∧ c'.next = (c.next + k.span) % 2 ^ 24 ∧ k.psn = c.next ∧
    c'.expect = c.expect ∧ c'.st = c.st

end Sys2Proof.Machine

/-- A network command that starts sends its first packet: WRITE and RWRITE up to 4,096 bytes of local memory to the R_Key
and offset they name, READ its request, MIRROR the first bytes of the shard copy that is not the newest, REFILL those
of the newest complete copy; DIGEST sends and holds the record of a closed slot. The last response of a READ stands in
local memory and completes it (R405, R406, R414, R415, R418). -/
def Obligations.NetworkCommandsSend : Prop :=
  (∀ o ∈ [(Instr.netWrite, 1, 0), (Instr.rwrite, 3, 1)], ∀ (s : State) (k : Nat) (x : Work) (c : Conn),
    netStarts s.w k o.2.1 x (nConn x.cmd) c → nConn x.cmd ≠ twinConn → netGone s.w x = false →
    (nodeAddr s.w c.peer).isSome = true → admits s.w 2 x.part = true →
    readable (netBegun k o.2.1 x (nConn x.cmd) s.w) x.ctx (nLocal x.cmd) (min 4096 (nLen x.cmd)) →
    Completes (o.1 k 0) s (fun w' =>
      (∃ p, sentOne w' (nConn x.cmd) c p ∧ p.op = o.2.2 ∧ p.span = 1 ∧ p.rkey = nRkey x.cmd ∧ p.off = nRoff x.cmd ∧
        p.len = nLen x.cmd ∧ p.rank = nRank x.cmd ∧ p.first = true ∧ p.last = decide (nLen x.cmd ≤ 4096) ∧
        p.data.length = min 4096 (nLen x.cmd) ∧
        ∀ pa, onePage s.w x.ctx (nLocal x.cmd) (min 4096 (nLen x.cmd)) pa →
          p.data = listAt s.w.mem.bytes pa (min 4096 (nLen x.cmd))) ∧
      (memoryAlone s.w → w'.mem.bytes = s.w.mem.bytes) ∧ w'.fe = s.w.fe)) ∧
  (∀ (s : State) (k : Nat) (x : Work) (c : Conn), netStarts s.w k 2 x (nConn x.cmd) c → netGone s.w x = false →
    (nodeAddr s.w c.peer).isSome = true →
    Completes (.netRead k) s (fun w' =>
      (∃ p, sentOne w' (nConn x.cmd) c p ∧ p.op = 2 ∧ p.span = (nLen x.cmd + 4095) / 4096 ∧ p.rkey = nRkey x.cmd ∧
        p.off = nRoff x.cmd ∧ p.len = nLen x.cmd) ∧ w'.mem = s.w.mem ∧ w'.fe = s.w.fe)) ∧
  (∀ (s : State) (k held : Nat) (x : Work) (c : Conn), netStarts s.w k 4 x twinConn c → netGone s.w x = false →
    rangeReady (netBegun k 4 x twinConn s.w) x.ctx (nLocal x.cmd) (min 4096 (nLen x.cmd)) false → 4096 < nLen x.cmd →
    Completes (.mirror k 0 held) s (fun w' =>
      (∃ p, sentOne w' twinConn c p ∧ p.op = 3 ∧ p.len = nLen x.cmd ∧ p.first = true ∧ p.off = 0 ∧
        p.rkey = 2 * nImm x.cmd + (if (mget s.w.net.twin.mine (nImm x.cmd)).getD held = 0 then 1 else 0) ∧
        p.data.length = 4096) ∧ (memoryAlone s.w → w'.mem.bytes = s.w.mem.bytes) ∧ w'.fe = s.w.fe)) ∧
  (∀ (s : State) (k : Nat) (x : Work) (c : Conn) (h : HoldCopy), netStarts s.w k 6 x twinConn c → admits s.w 2 x.part = true →
    newestCopy s.w (nImm x.cmd) = some h → h.len ≠ 0 → h.poison = [] →
    Completes (.refill k 0) s (fun w' =>
      (∃ p, sentOne w' twinConn c p ∧ p.op = 0 ∧ p.rkey = nRkey x.cmd ∧ p.off = nRoff x.cmd ∧ p.len = h.len ∧
        p.data = listAt h.bytes 0 (min 4096 h.len)) ∧ w'.mem = s.w.mem ∧ w'.fe = s.w.fe)) ∧
  (∀ (s : State) (k : Nat) (x : Work) (c : Conn), netStarts s.w k 5 x twinConn c → admits s.w 2 x.part = true →
    (cloveOf s.w (nRank x.cmd)).st = 2 → s.w.net.twin.leaving = false → s.w.net.twin.digests.length < 64 →
    (∀ d ∈ s.w.net.twin.digests, d.own ≠ some x.order) →
    Completes (.digest k) s (fun w' =>
      w'.net.twin.digests = s.w.net.twin.digests ++ [{ slot := nRank x.cmd, tag := nTag x.cmd,
                                                        bytes := (cloveOf s.w (nRank x.cmd)).record, since := s.w.now,
                                                        own := some x.order }] ∧ w'.mem = s.w.mem ∧ w'.fe = s.w.fe)) ∧
  (∀ (s : State) (i psn : Nat) (data : List Byte) (c : Conn) (p : NetPkt) (rest : List NetPkt) (r : NetRun) (x : Work),
    connHears s.w i = some c → i ≠ twinConn → s.w.net.twin.leaving = false → c.sent = p :: rest → p.op = 2 → p.psn = psn →
    p.len ≤ 4096 → data.length = p.len → s.w.net.runs.find? (·.order = p.owner) = some r → runIs s.w r i x → r.all = true →
    r.op = 2 → (∀ k ∈ rest, k.owner ≠ r.order) →
    rangeReady s.w x.ctx (nLocal x.cmd + (p.off - nRoff x.cmd)) p.len true →
    Completes (.rdmaReadResponse (qpn i) psn false data) s (fun w' =>
      (∃ c', connOf w' i = some c' ∧ c'.sent = rest ∧ c'.retries = 0 ∧ c'.st = c.st) ∧ finIs w' r.work 0 ∧
      (∀ pa, onePage s.w x.ctx (nLocal x.cmd + (p.off - nRoff x.cmd)) p.len pa →
        listAt w'.mem.bytes pa p.len = data ∧
        ∀ a, (a < pa ∨ pa + p.len ≤ a) → byteAt w'.mem.bytes a = byteAt s.w.mem.bytes a)))
/-! ### The twin pair (R411 to R418) -/

namespace Sys2Proof.Machine

/-- A twin datagram arrives at a module whose twin link is up. -/
def twinHears (w : World) : Prop := configured w = true ∧ twinUp w = true

/-- The datagram just received, by its sequence number. -/
def heardTwin (w w' : World) (seq : Nat) : Prop :=
  fld w' rNET_TWIN_STATUS 32 32 = seq % 2 ^ 32 ∧ w'.net.twin.lastRx = w.now

/-- A twin datagram of a type has been sent, the newest output: with the partner's MAC address as learnt, the port's own, and
the UDP ports and DSCP of NET_UDP. -/
def twinSent (w w' : World) (typ : Nat) : Prop :=
  ∃ o own, w'.outs.head? = some o ∧ o.kind = .packet ∧
    o.nums = [15, typ, w.net.twin.seq, own, w'.net.twin.mac.getD Config.noAddress, portMac w 15, fld w rNET_UDP 0 16,
      fld w rNET_UDP 0 16, fld w rNET_UDP 16 6]

/-- The copies in the hold area after a loss of the pair: those being filled are INCOMPLETE. -/
def holdEnded (w w' : World) : Prop :=
  ∀ k h, mget w.net.twin.hold k = some h → mget w'.net.twin.hold k = some (if h.st = 1 then { h with st := 3 } else h)

end Sys2Proof.Machine

/-- A HELLO of the partner takes an unpaired module to PAIRING, and once each has seen the other to PAIRED, with the
partner's node, serial and MAC address, and one from a reserved node is dropped; HELLOs go out every 100 µs until then,
heartbeats after 10 µs of silence; PAIRING without an answer ends after loss_us. A PAIRED module stores what a journal advances
and sends all 1,024 values every ms; a shard copy is FILLING from SHARD_BEGIN to SHARD_END, which makes it COMPLETE and newest
once every byte has come, and the newest COMPLETE copy is never overwritten (that the module refuses a SHARD_BEGIN that names
it is the model's choice, log entry 137); a digest is compared with the local record of its slot and tag, and its result ends
the DIGEST; a record held too long expires; DETACH, a commanded detach and the loss of the partner dissolve the pair (R412 to
R416). -/
def Obligations.TwinModulesPairMirrorAndDetach : Prop :=
  (∀ (s : State) (seq node mac serial cap size inst : Nat) (seen : Bool), twinHears s.w → twinState s.w = 0 →
    node < 0x40000 →
    Completes (.hello seq (fld s.w rGLB_ID 0 8) node mac serial cap size inst true seen) s (fun w' =>
      twinState w' = 1 ∧ w'.net.twin.mac = some mac ∧ w'.net.twin.serial = serial ∧ w'.net.twin.left = 0 ∧ twinSent s.w w' 0x10 ∧ heardTwin s.w w' seq ∧
      w'.mem = s.w.mem ∧ w'.fe = s.w.fe)) ∧
  (∀ (s : State) (seq gen node mac serial cap size inst : Nat) (twinRole seen : Bool), 0x40000 ≤ node →
    Completes (.hello seq gen node mac serial cap size inst twinRole seen) s (fun w' => w' = s.w)) ∧
  (∀ (s : State) (seq node mac cap size inst : Nat), twinHears s.w → twinState s.w = 1 → s.w.net.twin.seen = true →
    s.w.net.twin.serial < 2 ^ 64 → node < 0x40000 →
    Completes (.hello seq (fld s.w rGLB_ID 0 8) node mac s.w.net.twin.serial cap size inst true true) s (fun w' =>
      twinState w' = 2 ∧ fld w' rNET_TWIN_STATUS 12 20 = node % 2 ^ 20 ∧ rg w' rNET_TWIN_SERIAL = s.w.net.twin.serial ∧
      w'.net.twin.mirror = [] ∧ (∃ c, connOf w' twinConn = some c ∧ c.st = 1 ∧ c.sent = []) ∧ heardTwin s.w w' seq ∧
      w'.mem = s.w.mem ∧ w'.fe = s.w.fe)) ∧
  (∀ (s : State), twinHears s.w → twinState s.w ≠ 2 → s.w.net.twin.helloAt + 100000 ≤ s.w.now →
    Completes .helloTimer s (fun w' =>
      twinSent s.w w' 0x10 ∧ w'.net.twin.helloAt = s.w.now ∧ w'.net.twin.seq = (s.w.net.twin.seq + 1) % 2 ^ 32 ∧
      twinState w' = twinState s.w ∧ w'.mem = s.w.mem ∧ w'.fe = s.w.fe)) ∧
  (∀ (s : State), twinState s.w = 1 → s.w.net.twin.lastRx + lossNs s.w ≤ s.w.now → s.w.net.twin.left < 4 →
    Completes .pairingTimeout s (fun w' =>
      twinState w' = s.w.net.twin.left ∧ w'.net.twin.seen = false ∧ (∀ o, o ≠ rNET_TWIN_STATUS → rg w' o = rg s.w o) ∧
      w'.mem = s.w.mem ∧ w'.fe = s.w.fe)) ∧
  (∀ (s : State) (seq : Nat), twinHears s.w → twinState s.w = 2 →
    Completes (.heartbeat seq) s (fun w' =>
      heardTwin s.w w' seq ∧ twinState w' = 2 ∧ w'.outs = s.w.outs ∧ w'.mem = s.w.mem ∧ w'.fe = s.w.fe)) ∧
  (∀ (s : State), twinUp s.w = true → twinState s.w = 2 → s.w.net.twin.lastTx + 10000 ≤ s.w.now →
    Completes .heartbeatTimer s (fun w' =>
      twinSent s.w w' 0x11 ∧ w'.net.twin.lastTx = s.w.now ∧ w'.mem = s.w.mem ∧ w'.fe = s.w.fe)) ∧
  (∀ (s : State) (seq lo hi q v : Nat), twinHears s.w → twinState s.w = 2 → q < 1024 → v < 2 ^ 64 →
    Completes (.journal seq lo hi [q, v]) s (fun w' =>
      let d := (v + 2 ^ 64 - mirrorOf s.w q) % 2 ^ 64
      mirrorOf w' q = (if d ≠ 0 ∧ d < 2 ^ 63 then v else mirrorOf s.w q) ∧ (∀ k, k ≠ q → mirrorOf w' k = mirrorOf s.w k) ∧
      w'.net.twin.stampLo = lo % 2 ^ 64 ∧ w'.net.twin.stampHi = hi % 2 ^ 64 ∧ heardTwin s.w w' seq ∧ w'.mem = s.w.mem)) ∧
  (∀ (s : State), twinUp s.w = true → twinState s.w = 2 → s.w.net.twin.sweepAt + 1000000 ≤ s.w.now →
    Completes .journalSweep s (fun w' =>
      w'.outs.length = s.w.outs.length + 16 ∧ w'.net.twin.sweepAt = s.w.now ∧ w'.mem = s.w.mem ∧ w'.fe = s.w.fe)) ∧
  (∀ (s : State) (seq shard copy len : Nat), twinHears s.w → twinState s.w = 2 → shard < nShards s.w → copy < 2 →
    Completes (.shardBegin seq shard copy len) s (fun w' =>
      (let newest := ∃ h, mget s.w.net.twin.hold (2 * shard + copy) = some h ∧ h.st = 2 ∧
         mget s.w.net.twin.newest shard = some copy
       (¬ newest → mget w'.net.twin.hold (2 * shard + copy) =
         some { st := 1, len := len, bytes := [], poison := [], got := 0, refused := false }) ∧
       (newest → ∃ h, mget w'.net.twin.hold (2 * shard + copy) = some { h with refused := true } ∧
         mget s.w.net.twin.hold (2 * shard + copy) = some h)) ∧
      (∀ k, k ≠ 2 * shard + copy → mget w'.net.twin.hold k = mget s.w.net.twin.hold k) ∧
      w'.net.twin.newest = s.w.net.twin.newest ∧ w'.mem = s.w.mem)) ∧
  (∀ (s : State) (seq shard copy : Nat) (h : HoldCopy) (c : Conn), twinHears s.w → twinState s.w = 2 → copy < 2 →
    mget s.w.net.twin.hold (2 * shard + copy) = some h → h.st = 1 → connOf s.w twinConn = some c →
    (h.got ≠ h.len → Completes (.shardEnd seq shard copy) s (fun w' =>
      w'.net.twin.hold = s.w.net.twin.hold ∧ w'.net.twin.newest = s.w.net.twin.newest ∧ w'.net.conns = s.w.net.conns ∧
      w'.outs = s.w.outs ∧ w'.mem = s.w.mem)) ∧
    (h.got = h.len → Completes (.shardEnd seq shard copy) s (fun w' =>
      mget w'.net.twin.hold (2 * shard + copy) = some { h with st := 2 } ∧ mget w'.net.twin.newest shard = some copy ∧
      connOf w' twinConn = some { c with expect := (c.expect + 1) % 2 ^ 24 } ∧ w'.mem = s.w.mem))) ∧
  (∀ (s : State) (seq slot tag : Nat) (record : List Byte), twinHears s.w → twinState s.w = 2 → slot < 64 →
    (cloveOf s.w slot).st = 2 → (cloveOf s.w slot).armTag = tag →
    Completes (.digestReceived seq slot tag record) s (fun w' =>
      (if record.take 76 = (cloveOf s.w slot).record.take 76
        then rg w' rNET_DIGEST_MATCH = (rg s.w rNET_DIGEST_MATCH + 1) % 2 ^ 64
        else rg w' rNET_DIGEST_MISMATCH = (rg s.w rNET_DIGEST_MISMATCH + 1) % 2 ^ 64) ∧
      twinSent s.w w' 0x16 ∧ w'.net.twin.digests = s.w.net.twin.digests ∧ w'.mem = s.w.mem)) ∧
  (∀ (s : State) (seq slot tag : Nat) (d : Digest) (r : NetRun) (x : Work), twinHears s.w → twinState s.w = 2 →
    s.w.net.twin.digests.find? (fun d => d.own.isSome && d.slot = slot && d.tag = tag) = some d →
    s.w.net.runs.find? (fun r => some r.order = d.own) = some r → getWork s.w r.work = some x → x.order = r.order →
    x.fin = none → s.w.net.twin.leaving = false →
    Completes (.digestResult seq slot tag 0) s (fun w' =>
      w'.net.twin.digests = s.w.net.twin.digests.erase d ∧ Ended w' r.work 0 x ∧
      rg w' rNET_DIGEST_MATCH = (rg s.w rNET_DIGEST_MATCH + 1) % 2 ^ 64 ∧ w'.mem = s.w.mem)) ∧
  (∀ (s : State) (d : Digest),
    s.w.net.twin.digests.find? (fun d => decide (d.since + 1000 * fld s.w rNET_TWIN_TIMER 32 32 ≤ s.w.now)) = some d →
    s.w.net.twin.leaving = false →
    Completes .digestHoldExpiry s (fun w' =>
      w'.net.twin.digests = s.w.net.twin.digests.erase d ∧
      rg w' rNET_DIGEST_EXPIRED = (rg s.w rNET_DIGEST_EXPIRED + 1) % 2 ^ 64 ∧ w'.mem = s.w.mem)) ∧
  (∀ (s : State) (seq : Nat), twinHears s.w → twinState s.w = 2 →
    Completes (.detach seq) s (fun w' =>
      twinState w' = 3 ∧ fld w' rNET_TWIN_STATUS 2 2 = 1 ∧ holdEnded s.w w' ∧ connOf w' twinConn = none ∧
      w'.mem = s.w.mem)) ∧
  (∀ (s : State), configured s.w = true → twinState s.w = 2 → (∀ r ∈ s.w.net.runs, r.op < 4) →
    Completes .commandedDetach s (fun w' =>
      twinState w' = 3 ∧ fld w' rNET_TWIN_STATUS 2 2 = 1 ∧ holdEnded s.w w' ∧ connOf w' twinConn = none ∧
      w'.mem = s.w.mem)) ∧
  (∀ (s : State), twinState s.w = 2 → s.w.net.twin.lastRx + lossNs s.w ≤ s.w.now →
    Completes .twinLoss s (fun w' =>
      twinState w' = 3 ∧ fld w' rNET_TWIN_STATUS 2 2 = (if portUp s.w 15 then 2 else 3) ∧ holdEnded s.w w' ∧
      connOf w' twinConn = none ∧ w'.mem = s.w.mem))

/-! ### Power (chapter 19) and thermal readings (R260) -/

namespace Sys2Proof.Machine

/-- A power command of an agent is accepted: the agent is the holder, no command runs, and the device is not STOPPED. -/
def powerFree (w : World) (agent : Nat) : Prop := agent = holder w ∧ w.pwr.runs = [] ∧ bootPhase w ≠ 8

/-- A power command has ended with a result: the register shows it and its message is the last sent (R457). -/
def powerTold (w' : World) (res : Nat) : Prop :=
  fld w' rPWR_CMD_STATUS 0 8 = res ∧
    ∃ m, w'.irq.inbox.getLast? = some m ∧ m.src = 0x0A8 ∧ m.ctx = 0xFFFFF ∧ m.cookie = 0x20 * 2 ^ 56 + res

/-- A power command changes no memory, no core and nothing of the front end, nor a domain beside `d`. -/
def DomainFrame (d : Nat) (w w' : World) : Prop :=
  w'.mem = w.mem ∧ w'.fe = w.fe ∧ w'.cores = w.cores ∧
    ∀ k, k < 144 → k ≠ d → rg w' (rPWR_DOM k) = rg w (rPWR_DOM k)

/-- Nothing but registers, the power state and messages changes. -/
def PowerFrame (w w' : World) : Prop :=
  w'.mem = w.mem ∧ w'.fe = w.fe ∧ w'.cores = w.cores ∧ w'.harts = w.harts ∧ w'.net = w.net

/-- A trip has been detected: its cause and source are recorded, and the rail is to go (R439). -/
def tripped (w w' : World) (cause source : Nat) : Prop :=
  w'.pins.tripAt = some w.now ∧ rg w' rPWR_TRIP_INFO = source % 256 * 256 + cause

end Sys2Proof.Machine

/-- The holder alone commands power: a host's write of PWR_AUTH sets the holder, at the end of a running command at the
latest, a hart may only give it up, and another agent's write is dropped and counted. DOMAIN_ON and DOMAIN_OFF take a
domain through STARTING and STOPPING and end with a result and a message; a domain in transition takes either; a hart
group's harts are stopped, and start held at the reset vector; the chiplet's domain is ON once its site has negotiated;
HART_RESTART and HART_RESET put a hart at the reset vector (R436, R437, R440 to R442, R456,
R457, R283, R284). -/
def Obligations.PowerDomainsAreSwitchedByTheHolder : Prop :=
  (∀ (s : State) (v : Nat), s.w.pwr.runs = [] → s.w.pwr.was = none →
    Completes (.pwrAuthWrite 0 v) s (fun w' =>
      holder w' = v % 2 ∧ (∀ o, o ≠ rPWR_AUTH → rg w' o = rg s.w o) ∧ w'.pwr = s.w.pwr ∧ PowerFrame s.w w')) ∧
  (∀ (s : State) (v : Nat), s.w.pwr.runs ≠ [] →
    Completes (.pwrAuthWrite 0 v) s (fun w' => fld w' rPWR_AUTH 0 1 = v % 2 ∧ holder w' = holder s.w ∧ PowerFrame s.w w')) ∧
  (∀ (s : State) (v : Nat), v % 2 = 1 → Completes (.pwrAuthWrite 1 v) s (fun w' => w' = s.w)) ∧
  (∀ (s : State) (agent off : Nat), holderReg off = true → agent ≠ holder s.w →
    Completes (.deniedWrite agent off) s (fun w' =>
      rg w' rPWR_DENIED = (rg s.w rPWR_DENIED + 1) % 2 ^ 64 ∧ (∀ o, o ≠ rPWR_DENIED → rg w' o = rg s.w o) ∧
      w'.pwr = s.w.pwr ∧ PowerFrame s.w w')) ∧
  (∀ (s : State) (t : Nat), s.w.pwr.pcieDown = some t → t + 10 ^ 9 ≤ s.w.now → s.w.pwr.fallback = true →
    fld s.w rPWR_AUTH 0 1 = 0 → s.w.pwr.runs = [] → s.w.pwr.was = none →
    Completes .pcieLinkDownFallback s (fun w' => holder w' = 1 ∧ PowerFrame s.w w')) ∧
  (∀ (s : State), Completes (.pcieLinkStateChange false) s (fun w' =>
    w'.pwr = { s.w.pwr with pcieDown := some (s.w.pwr.pcieDown.getD s.w.now) } ∧ w'.regs = s.w.regs ∧ PowerFrame s.w w')) ∧
  (∀ (s : State), s.w.pins.perstN = true → domState s.w 142 ≠ 0 → Completes (.pcieLinkStateChange true) s (fun w' =>
    w'.pwr = { s.w.pwr with pcieDown := none } ∧ w'.regs = s.w.regs ∧ PowerFrame s.w w')) ∧
  (∀ (s : State) (agent d : Nat), powerFree s.w agent → d < 144 →
    (domState s.w d = 2 → Completes (.domainOn agent d) s (fun w' =>
      powerTold w' 0 ∧ domState w' d = 2 ∧ w'.pwr = s.w.pwr ∧ DomainFrame d s.w w')) ∧
    (domState s.w d = 0 → Completes (.domainOn agent d) s (fun w' =>
      domState w' d = 1 ∧ w'.pwr.runs = [⟨1, d, 0⟩] ∧ fld w' rPWR_CMD_STATUS 63 1 = 1 ∧
      mget w'.pwr.since d = some s.w.now ∧ w'.irq = s.w.irq ∧ DomainFrame d s.w w'))) ∧
  (∀ (s : State) (agent d : Nat), powerFree s.w agent → d < 144 →
    (offAllowed s.w d = false → Completes (.domainOff agent d) s (fun w' =>
      powerTold w' 2 ∧ domState w' d = domState s.w d ∧ w'.pwr = s.w.pwr ∧ DomainFrame d s.w w')) ∧
    (offAllowed s.w d = true → domState s.w d = 2 → Completes (.domainOff agent d) s (fun w' =>
      domState w' d = 3 ∧ w'.pwr.runs = [⟨2, d, 0⟩] ∧ fld w' rPWR_CMD_STATUS 63 1 = 1 ∧
      (isHartGroup d = true → ∀ h ∈ groupHarts d, (hartOf w' h).run =
        if (hartOf s.w h).run = .stopped ∧ hartClean (hartOf s.w h) = true then .stopped else .stopping) ∧
      w'.irq = s.w.irq ∧ DomainFrame d s.w w'))) ∧
  (∀ (s : State) (agent d : Nat), agent = holder s.w → bootPhase s.w ≠ 8 → d < 144 → domState s.w d = 3 →
    Completes (.domainOn agent d) s (fun w' =>
      domState w' d = 4 ∧ fld w' (rPWR_DOM d) 3 1 = 1 ∧ w'.pwr.runs = s.w.pwr.runs ++ [⟨1, d, 0⟩] ∧ DomainFrame d s.w w')) ∧
  (∀ (s : State) (agent d : Nat), agent = holder s.w → d < 144 → offAllowed s.w d = true →
    (domState s.w d = 1 → Completes (.domainOff agent d) s (fun w' =>
      domState w' d = 1 ∧ d ∈ w'.pwr.offNext ∧ w'.pwr.runs = s.w.pwr.runs ++ [⟨2, d, 0⟩] ∧ DomainFrame d s.w w')) ∧
    (domState s.w d = 4 → Completes (.domainOff agent d) s (fun w' =>
      domState w' d = 3 ∧ fld w' (rPWR_DOM d) 3 1 = 0 ∧ (⟨1, d, 0⟩ ∈ s.w.pwr.runs → powerTold w' 1) ∧
      w'.pwr.runs = s.w.pwr.runs.filter (fun r => !(decide (r = ⟨1, d, 0⟩))) ++ [⟨2, d, 0⟩] ∧ DomainFrame d s.w w'))) ∧
  (∀ (s : State), Config.variantA = true → fld s.w rD2D_CHIP_STATUS 0 2 < 2 →
    Completes (.domainStartupComplete 143) s (fun w' => w' = s.w)) ∧
  (∀ (s : State) (d : Nat), d < 144 → domState s.w d = 1 →
    (d = 143 → Config.variantA = true → 2 ≤ fld s.w rD2D_CHIP_STATUS 0 2) →
    (d ∉ s.w.pwr.offNext → Completes (.domainStartupComplete d) s (fun w' =>
      domState w' d = 2 ∧ (⟨1, d, 0⟩ ∈ s.w.pwr.runs → powerTold w' 0) ∧
      (isHartGroup d = true → ∀ h ∈ groupHarts d, hartOf w' h =
        { Hart.reset with run := .stopped, pc := Config.resetVector s.w.boot.bundle }) ∧
      DomainFrame d s.w w')) ∧
    (d ∈ s.w.pwr.offNext → Completes (.domainStartupComplete d) s (fun w' =>
      domState w' d = 3 ∧ d ∉ w'.pwr.offNext ∧ (⟨1, d, 0⟩ ∈ s.w.pwr.runs → powerTold w' 0) ∧ DomainFrame d s.w w'))) ∧
  (∀ (s : State) (d : Nat), d < 144 → domState s.w d = 3 ∨ domState s.w d = 4 → domDrained s.w d = true →
    Completes (.domainShutdownComplete d) s (fun w' =>
      domState w' d = (if domState s.w d = 3 then 0 else 1) ∧ (⟨2, d, 0⟩ ∈ s.w.pwr.runs → powerTold w' 0) ∧
      (isHartGroup d = true → ∀ h ∈ groupHarts d, (hartOf w' h).run = .stopped ∧ (hartOf w' h).sLines = []) ∧
      (isHartGroup d = false → w'.harts = s.w.harts ∧ w'.mem = s.w.mem) ∧ w'.fe = s.w.fe ∧ w'.cores = s.w.cores)) ∧
  (∀ (s : State) (d : Nat), isHartGroup d = true → domState s.w d = 3 ∨ domState s.w d = 4 → domDrained s.w d = false →
    mgetD s.w.pwr.since d 0 + 100000 ≤ s.w.now →
    Completes (.handshakeTimeout d) s (fun w' =>
      domState w' d = 2 ∧ (∀ h ∈ groupHarts d, (hartOf w' h).run = .stopped) ∧
      (⟨2, d, 0⟩ ∈ s.w.pwr.runs → ⟨1, d, 0⟩ ∉ s.w.pwr.runs → powerTold w' 4) ∧ DomainFrame d s.w w')) ∧
  (∀ (s : State) (agent h : Nat), powerFree s.w agent → h < 32 → domState s.w (128 + h / 4) = 2 →
    0x0E0 + h ∉ s.w.ras.retired →
    Completes (.hartReset agent h) s (fun w' =>
      hartOf w' h = { Hart.reset with pc := Config.resetVector s.w.boot.bundle } ∧ (∀ k, k ≠ h → hartOf w' k = hartOf s.w k) ∧
      powerTold w' 0 ∧ w'.fe = s.w.fe ∧ w'.cores = s.w.cores) ∧
    ((hartOf s.w h).run = .stopped → Completes (.hartRestart agent h) s (fun w' =>
      hartOf w' h = { Hart.reset with pc := Config.resetVector s.w.boot.bundle } ∧ (∀ k, k ≠ h → hartOf w' k = hartOf s.w k) ∧
      powerTold w' 0 ∧ w'.fe = s.w.fe ∧ w'.cores = s.w.cores)) ∧
    ((hartOf s.w h).run ≠ .stopped → Completes (.hartRestart agent h) s (fun w' =>
      powerTold w' 3 ∧ w'.harts = s.w.harts ∧ w'.mem = s.w.mem ∧ w'.fe = s.w.fe)))

/-- SET_OP and SET_FSP commit a change that raises FE_EPOCH by 1 and records the targets; each cluster and the host tier
moves once no launch or engine command of an earlier stamp runs; a die relocks after its voltage has risen, or lets it
fall after it has relocked (R313, R443, R444). A temperature reading gives a stack's level, a sample each die's junction and
the rail's; a die's effective level is the highest of its triggers', a change of it is told, and a reading above its
trip point trips (R260, R438, R439). -/
def Obligations.OperatingPointsAndThrottlingFollowTheirRules : Prop :=
  (∀ (s : State) (agent mask mhz : Nat), powerFree s.w agent → mask ≠ 0 → mask < 16 →
    (opLegal mhz = true → (∃ d ∈ bitList mask 4, opTarget s.w d ≠ mhz) →
      Completes (.setOp agent mask mhz) s (fun w' =>
        (∀ d ∈ bitList mask 4, opTarget w' d = mhz) ∧ fld w' rFE_EPOCH 0 32 = (fld s.w rFE_EPOCH 0 32 + 1) % 2 ^ 32 ∧
        fld w' rPWR_EPOCH 32 32 = fld w' rFE_EPOCH 0 32 ∧ (∀ d, d < 4 → opNow w' d = opNow s.w d) ∧ PowerFrame s.w w')) ∧
    (opLegal mhz = false → Completes (.setOp agent mask mhz) s (fun w' =>
      powerTold w' 3 ∧ fld w' rFE_EPOCH 0 32 = fld s.w rFE_EPOCH 0 32 ∧ w'.pwr = s.w.pwr ∧ PowerFrame s.w w'))) ∧
  (∀ (s : State) (agent point : Nat), powerFree s.w agent → point < 3 → s.w.pwr.fspNext ≠ point →
    Completes (.setFsp agent point) s (fun w' =>
      w'.pwr.fspNext = point ∧ w'.pwr.fsp = s.w.pwr.fsp ∧
      fld w' rFE_EPOCH 0 32 = (fld s.w rFE_EPOCH 0 32 + 1) % 2 ^ 32 ∧ PowerFrame s.w w')) ∧
  (∀ (s : State) (c : Nat), c < 16 →
    (∀ p, p < 16 → c ∈ partClusters s.w p →
      (∀ l, mget s.w.fe.launches p = some l → epochOlder l.epoch (fld s.w rPWR_EPOCH 32 32) = false) ∧
      ∀ v ∈ savedOf s.w p, epochOlder v.launch.epoch (fld s.w rPWR_EPOCH 32 32) = false) →
    Completes (.epochMove c) s (fun w' => fld w' rPWR_EPOCH c 1 = 1 ∧ PowerFrame s.w w')) ∧
  (∀ (s : State), fld s.w rPWR_EPOCH 20 1 = 0 → s.w.pwr.refresh = false →
    engineOlder s.w (fld s.w rPWR_EPOCH 32 32) = false →
    Completes (.epochMove 16) s (fun w' =>
      (if s.w.pwr.fsp = s.w.pwr.fspNext then fld w' rPWR_EPOCH 20 1 = 1 else w'.pwr.refresh = true) ∧ PowerFrame s.w w')) ∧
  (∀ (s : State), s.w.pwr.refresh = true →
    Completes .selfRefreshExit s (fun w' =>
      w'.pwr.refresh = false ∧ w'.pwr.fsp = s.w.pwr.fspNext ∧ fld w' rPWR_EPOCH 20 1 = 1 ∧ PowerFrame s.w w')) ∧
  (∀ (s : State) (d : Nat), d < 4 →
    (mget s.w.pwr.phase d = some 1 ∨ mget s.w.pwr.phase d = some 4 →
      Completes (.voltageRampComplete d) s (fun w' =>
        mgetD w'.pwr.phase d 0 = (if mget s.w.pwr.phase d = some 1 then 3 else 0) ∧
        fld w' (rPWR_OP d) 48 16 = Config.vf d (if mget s.w.pwr.phase d = some 1 then opTarget s.w d else opNow s.w d) % 2 ^ 16 ∧
        PowerFrame s.w w')) ∧
    (mget s.w.pwr.phase d = some 2 ∨ mget s.w.pwr.phase d = some 3 →
      Completes (.pllRelockComplete d) s (fun w' =>
        mgetD w'.pwr.phase d 0 = (if mget s.w.pwr.phase d = some 2 then 4 else 0) ∧ opNow w' d = opTarget s.w d ∧
        fld w' rPWR_EPOCH (16 + d) 1 = 1 ∧ PowerFrame s.w w'))) ∧
  (∀ (s : State) (k temp : Nat), k < 12 → s.w.pins.pwrgd = true →
    Completes (.thermalRead k temp) s (fun w' =>
      fld w' (rMEM_THERM_STACK k) 0 8 = temp % 256 ∧
      fld w' (rMEM_THERM_STACK k) 8 2 = enterLevel (rg s.w rMEM_THERM_CFG) 1 (fld s.w (rMEM_THERM_STACK k) 8 2) temp ∧
      fld w' (rPWR_THROT (k / 3)) 0 2 = effLevel w' (k / 3) % 4 ∧
      (effLevel w' (k / 3) ≠ effLevel s.w (k / 3) →
        ∃ m ∈ w'.irq.inbox, m.src = 0x0A8 ∧ m.cookie = 3 * 2 ^ 56 + k / 3 * 256 + effLevel w' (k / 3)) ∧
      (temp ≤ fld s.w rPWR_TRIP 8 8 → w'.pins.tripAt = s.w.pins.tripAt) ∧
      (fld s.w rPWR_TRIP 8 8 < temp → s.w.pins.tripAt = none → tripped s.w w' 2 (0x10 + k)) ∧ PowerFrame s.w w')) ∧
  (∀ (s : State) (temps : List Nat) (amps mv gated : Nat), s.w.pins.pwrgd = true →
    Completes (.pcuSample temps amps mv gated) s (fun w' =>
      rg w' rPWR_THROT_CYCLES = (rg s.w rPWR_THROT_CYCLES + gated) % 2 ^ 64 ∧ fld w' rPWR_RAIL 0 16 = amps % 2 ^ 16 ∧
      fld w' rPWR_RAIL 32 16 = mv % 2 ^ 16 ∧
      w'.pwr.curLevel = enterLevel (rg s.w rPWR_CEIL_CUR) 8 s.w.pwr.curLevel amps ∧
      (∀ d, d < 4 → fld w' (rPWR_THROT d) 16 8 = nth temps d 0 % 256 ∧
        mgetD w'.pwr.tjLevel d 0 = enterLevel (rg s.w rPWR_CEIL_TJ) 1 (mgetD s.w.pwr.tjLevel d 0) (nth temps d 0) ∧
        fld w' (rPWR_THROT d) 0 2 = effLevel w' d % 4) ∧
      (hotDies s.w temps = [] → w'.pins.tripAt = s.w.pins.tripAt) ∧
      (∀ d, (hotDies s.w temps).head? = some d → s.w.pins.tripAt = none → tripped s.w w' 1 d) ∧ PowerFrame s.w w'))

/-! ### The module connector and boot (chapters 20 and 24) -/

namespace Sys2Proof.Machine

/-- Everything outside the always-on domain is as after reset, in phase POWER_UP with no image, and PWRGD is low; the
memory of the external host is outside the module. -/
def coldState (w w' : World) : Prop :=
  w'.cores = [] ∧ w'.fe = Fe.reset ∧ w'.net = Net.reset ∧ w'.harts = Harts.reset ∧ w'.irq = Irq.reset ∧
    w'.mem = { Mem.reset with host := w.mem.host } ∧ bootPhase w' = 0 ∧ llynState w' = 0 ∧ w'.pins.pwrgd = false

/-- A pin changed level, the last thing to leave the block. -/
def pinMoved (w' : World) (pin level : Nat) : Prop :=
  ∃ o, w'.outs.head? = some o ∧ o.kind = .pin ∧ o.nums = [pin, level]

/-- The bytes an object of `len` bytes is presented as (R448): the first of the boot buffer. -/
def objectBytes (w : World) (len : Nat) : List Byte := listAt w.boot.buf 0 (min len (2 ^ 24 + 1))

/-- The sender may use the boot responder: it runs, no FETCH does, and it is bound to no other sender. -/
def mayBoot (w : World) (src : Nat) : Prop :=
  responderOn w = true ∧ w.boot.fetching = false ∧ (w.boot.bound = none ∨ w.boot.bound = some src)

/-- The boot responder has answered a sender with a datagram of a type. -/
def bootAnswered (w' : World) (dst typ : Nat) : Prop :=
  ∃ o, w'.outs.head? = some o ∧ o.kind = .boot ∧ o.nums = [dst] ∧ o.data[1]? = some (BitVec.ofNat 8 typ)

/-- Nothing is outstanding at the chiplet. -/
def chipQuiet (w : World) : Prop := w.d2d.reqs = [] ∧ w.d2d.cmds = []

/-- A programme has left memory undefined (R461): no byte that nothing had written is listed, and no line is poisoned. -/
def memoryUndefined (w w' : World) : Prop :=
  (∀ a, mget w.mem.bytes a = none → byteAt w'.mem.bytes a = 0) ∧ w'.mem.poison = []

/-- Boot changes nothing of cores, the front end, the network or what memory holds. -/
def BootFrame (w w' : World) : Prop := w'.cores = w.cores ∧ w'.fe = w.fe ∧ w'.net = w.net ∧ w'.mem = w.mem

/-- SHUTDOWN is legal: UNCONFIGURED, or QUIESCING with no live context (R455). -/
def shutdownLegal (w : World) : Prop := llynState w = 0 ∨ (llynState w = 4 ∧ w.fe.ctxs = [])

/-- The buffer of the record may lie where it does: in the external host's memory when the holder is HOST, in the host tier
when it is CC (R455). -/
def recordPlaced (w : World) (dest kib : Nat) : Prop :=
  holder w = 1 → inHost dest = true ∧ inHost (dest + kib * 1024 - 1) = true

end Sys2Proof.Machine

/-- Power comes up in order: housekeeping samples SLOT_ID, PWR_EN lets the converter run, POWER_GOOD raises PWRGD. The fall
of PWR_EN, MOD_RST_N and loss of the input lose every state outside the always-on domain; PERST_N resets the PCIe
function; the stage's over-current, over-voltage and over-temperature trip; TRIP_N rises after 1 s without PWR_EN;
measurements are registered; a dark laser source takes its four ports down (R439, R489 to R498). -/
def Obligations.PinsSequencePowerAndReset : Prop :=
  (∀ (s : State) (slot : Nat), s.w.pins.awake = false →
    Completes (.housekeepingUp slot) s (fun w' =>
      w' = { s.w with pins := { s.w.pins with awake := true, slot := slot % 16 } })) ∧
  (∀ (s : State), s.w.pins.pwrEn = false →
    Completes .pwrEnRise s (fun w' => w' = { s.w with pins := { s.w.pins with pwrEn := true, enAt := s.w.now } })) ∧
  (∀ (s : State), s.w.pins.awake = true → s.w.pins.pwrEn = true → s.w.pins.rstN = true → s.w.pins.trip = false →
    s.w.pins.pwrgd = false → bootPhase s.w = 0 →
    Completes .powerGood s (fun w' =>
      bootPhase w' = 1 ∧ w'.pins = { s.w.pins with pwrgd := true } ∧ pinMoved w' 0 1 ∧ BootFrame s.w w' ∧
      (fld s.w rRAS_LIFECYCLE 0 2 ≠ 0 → rg w' rRAS_LIFECYCLE = rg s.w rRAS_LIFECYCLE))) ∧
  (∀ (s : State), s.w.pins.pwrEn = true → s.w.pins.pwrgd = true → (s.w.regs.map (·.1)).Nodup →
    Completes .pwrEnFall s (fun w' =>
      coldState s.w w' ∧ w'.pins = { s.w.pins with pwrgd := false, tripAt := none, pwrEn := false, enAt := s.w.now } ∧
      pinMoved w' 0 0 ∧ rg w' rPWR_TRIP_INFO = rg s.w rPWR_TRIP_INFO)) ∧
  (∀ (s : State), s.w.pins.rstN = true → (s.w.regs.map (·.1)).Nodup →
    Completes .modRstNAssert s (fun w' =>
      coldState s.w w' ∧ w'.pins.rstN = false ∧ w'.log = s.w.log ∧ rg w' rRAS_LOG_STATUS = rg s.w rRAS_LOG_STATUS ∧
      rg w' rPWR_TRIP_INFO = rg s.w rPWR_TRIP_INFO)) ∧
  (∀ (s : State), Completes .modRstNRelease s (fun w' => w' = { s.w with pins := { s.w.pins with rstN := true } })) ∧
  (∀ (s : State), s.w.pins.perstN = true →
    Completes .perstNAssert s (fun w' =>
      w'.pins = { s.w.pins with perstN := false } ∧ w'.pwr.pcieDown.isSome = true ∧
      (configured s.w = true → ∀ r, r < 64 → ringOn w' (r + 64) = false) ∧ w'.mem = s.w.mem)) ∧
  (∀ (s : State), Completes .perstNRelease s (fun w' => w' = { s.w with pins := { s.w.pins with perstN := true } })) ∧
  (∀ (s : State), Completes .inputUndervoltage s (fun w' =>
    coldState s.w w' ∧ w'.pins.awake = false ∧ w'.pins.trip = false ∧ w'.log = [] ∧ rg w' rPWR_TRIP_INFO = 0)) ∧
  (∀ (s : State), s.w.pins.pwrgd = true → s.w.pins.tripAt = none →
    Completes .railOvercurrent s (fun w' => tripped s.w w' 3 0x20 ∧ PowerFrame s.w w') ∧
    Completes .railOvervoltage s (fun w' => tripped s.w w' 4 0x20 ∧ PowerFrame s.w w') ∧
    Completes .stageOverTemperature s (fun w' => tripped s.w w' 5 0x20 ∧ PowerFrame s.w w')) ∧
  (∀ (s : State), s.w.pins.trip = true → s.w.pins.pwrEn = false → s.w.pins.enAt + 10 ^ 9 ≤ s.w.now →
    Completes .tripNRelease s (fun w' =>
      w'.pins = { s.w.pins with trip := false } ∧ pinMoved w' 1 1 ∧ w'.regs = s.w.regs ∧ PowerFrame s.w w')) ∧
  (∀ (s : State) (mv ma watts temp : Nat), s.w.pins.awake = true →
    Completes (.stageMeasurement mv ma watts temp) s (fun w' =>
      fld w' rPWR_INPUT 16 16 = mv % 2 ^ 16 ∧ fld w' rPWR_INPUT 0 16 = ma % 2 ^ 16 ∧
      fld w' rPWR_INPUT 40 16 = watts % 2 ^ 16 ∧ fld w' rPWR_INPUT 56 8 = temp % 2 ^ 8 ∧
      (∀ o, o ≠ rPWR_INPUT → rg w' o = rg s.w o) ∧ PowerFrame s.w w')) ∧
  (∀ (s : State) (inlet outlet : Nat), s.w.pins.awake = true →
    Completes (.coolantSample inlet outlet) s (fun w' =>
      fld w' rPWR_COOLANT 0 16 = inlet % 2 ^ 16 ∧ fld w' rPWR_COOLANT 16 16 = outlet % 2 ^ 16 ∧
      (∀ o, o ≠ rPWR_COOLANT → rg w' o = rg s.w o) ∧ PowerFrame s.w w')) ∧
  (∀ (s : State) (k : Nat), k < 4 →
    Completes (.elsfpLightLoss k) s (fun w' =>
      k ∈ w'.pins.dark ∧ (configured s.w = true → ∀ p ∈ sourcePorts k, portUp w' p = false) ∧
      (∀ p, p < 20 → p ∉ sourcePorts k → rg w' (rNET_PORT_STATUS p) = rg s.w (rNET_PORT_STATUS p)) ∧ PowerFrame s.w w')) ∧
  (∀ (s : State) (k : Nat), k < 4 → k ∈ s.w.pins.dark → configured s.w = true →
    Completes (.elsfpLightReturn k) s (fun w' =>
      k ∉ w'.pins.dark ∧ (∀ p ∈ sourcePorts k, portRole s.w p ≠ 0 → linkTrains w' p = true → portUp w' p = true) ∧
      (∀ p, p < 20 → p ∉ sourcePorts k → rg w' (rNET_PORT_STATUS p) = rg s.w (rNET_PORT_STATUS p)) ∧ PowerFrame s.w w'))

/-- Boot goes from phase to phase: the ROM ends with every domain ON, a bundle, an image and a record are presented by FETCH
or by a sender over the network and checked, memory and links train, and a link that retrains comes back, the check or boot self-test of REPAIR ends, and the
image is applied (R447 to R454, R458, R461 to R464). An UNCONFIGURED
device, or a QUIESCING one without contexts, shuts down: its programme writes the record to the external host or to the
host tier, and the device is STOPPED with every domain OFF but those that keep a record of the host tier (R455). -/
def Obligations.BootAndShutdownGoPhaseByPhase : Prop :=
  (∀ (s : State), bootPhase s.w = 1 → s.w.pins.perstN = true →
    Completes .romComplete s (fun w' =>
      bootPhase w' = 2 ∧ (∀ d, d < 144 → domState w' d = 2) ∧ w'.pwr.pcieDown = none ∧
      (∀ l, l < 3 → fld w' (rD2D_LINK_STATUS l) 0 2 = 1) ∧
      (∀ d, d < 4 → opNow w' d = 800 + 25 * (Config.bootMhz d % 47) ∧ opLegal (opNow w' d) = true ∧ opTarget w' d = opNow w' d ∧
        fld w' (rPWR_OP d) 48 16 = Config.vf d (opNow w' d) % 2 ^ 16) ∧ BootFrame s.w w')) ∧
  (∀ (s : State), bootServes s.w = true → s.w.boot.fetching = false →
    (s.w.boot.bound = none → Completes .bootFetch s (fun w' =>
      w'.boot = { s.w.boot with fetching := true } ∧ fld w' rGLB_BOOT_STATUS 16 1 = 1 ∧ bootPhase w' = bootPhase s.w ∧
      BootFrame s.w w')) ∧
    (s.w.boot.bound ≠ none → Completes .bootFetch s (fun w' =>
      w'.boot = s.w.boot ∧ fld w' rGLB_BOOT_STATUS 8 8 = 11 ∧ BootFrame s.w w'))) ∧
  (∀ (s : State), s.w.boot.fetching = true →
    Completes (.fetchComplete false) s (fun w' =>
      w'.boot = { s.w.boot with fetching := false } ∧ fld w' rGLB_BOOT_STATUS 8 8 = 6 ∧ bootPhase w' = bootPhase s.w ∧
      BootFrame s.w w')) ∧
  (∀ (s : State) (bs : List Byte), s.w.boot.fetching = true → s.w.pwr.pcieDown = none → fld s.w rGLB_BOOT_LEN 32 4 = 1 →
    bootPhase s.w = 2 → bs = listAt s.w.mem.host (rg s.w rGLB_BOOT_SRC) (min (fld s.w rGLB_BOOT_LEN 0 32) (2 ^ 24 + 1)) →
    Completes (.fetchComplete true) s (fun w' =>
      fld w' rGLB_BOOT_STATUS 8 8 = bundleError bs ∧ bootPhase w' = (if bundleError bs = 0 then 3 else 2) ∧
      (bundleError bs = 0 → w'.boot.bundle = bs ∧ fld w' rGLB_BOOT_STATUS 32 32 = le bs 8 4 % 2 ^ 32) ∧ BootFrame s.w w')) ∧
  (∀ (s : State) (src object seq off : Nat) (data : List Byte), mayBoot s.w src → data.length ≤ 8192 →
    off + data.length ≤ 2 ^ 24 →
    Completes (.bootPut src object seq off data) s (fun w' =>
      w'.boot.bound = some src ∧ w'.boot.heard = s.w.now ∧
      (∀ a, byteAt w'.boot.buf a = (if off ≤ a ∧ a < off + data.length then data.getD (a - off) 0 else byteAt s.w.boot.buf a)) ∧
      fld w' rGLB_BOOT_STATUS 16 1 = 1 ∧ bootAnswered w' src 4 ∧ BootFrame s.w w')) ∧
  (∀ (s : State) (src seq len : Nat), mayBoot s.w src → bootPhase s.w = 3 → llynState s.w = 0 →
    fld s.w rRAS_STATUS 1 1 = 0 → ∀ bs, bs = objectBytes s.w len →
    (imgReason s.w bs = 0 → Completes (.bootCommit src 2 seq len) s (fun w' =>
      bootPhase w' = 4 ∧ llynState w' = 1 ∧ w'.boot.image = bs ∧ w'.boot.bound = none ∧
      fld w' rGLB_BOOT_STATUS 8 8 = 0 ∧ bootAnswered w' src 6 ∧ BootFrame s.w w')) ∧
    (imgReason s.w bs ≠ 0 → Completes (.bootCommit src 2 seq len) s (fun w' =>
      bootPhase w' = 3 ∧ llynState w' = 3 ∧ fld w' rGLB_LLYN_STATUS 8 8 = imgReason s.w bs ∧ w'.boot.image = [] ∧
      bootAnswered w' src 6 ∧ BootFrame s.w w'))) ∧
  (∀ (s : State) (src seq len : Nat), mayBoot s.w src → bootPhase s.w = 4 →
    Completes (.bootCommit src 3 seq len) s (fun w' =>
      bootPhase w' = 5 ∧ fld w' rGLB_BOOT_STATUS 8 8 = 0 ∧
      bootRecord w' = (match readRecord s.w (objectBytes s.w len) with
        | .ok _ => 1
        | .error c => c) ∧
      (∀ body, readRecord s.w (objectBytes s.w len) = .ok body → w'.ras.record = bodyEntries body) ∧
      bootAnswered w' src 6 ∧ (chipQuiet s.w → BootFrame s.w w'))) ∧
  (∀ (s : State) (src object seq : Nat), responderOn s.w = true →
    Completes (.statusReq src object seq) s (fun w' =>
      bootAnswered w' src 2 ∧ w'.regs = s.w.regs ∧ (s.w.boot.bound = some src → w'.boot.heard = s.w.now) ∧
      BootFrame s.w w')) ∧
  (∀ (s : State) (src : Nat), s.w.boot.bound = some src → s.w.boot.heard + 10 ^ 10 ≤ s.w.now →
    Completes .responderBindingTimeout s (fun w' => w'.boot = { s.w.boot with bound := none } ∧ BootFrame s.w w')) ∧
  (∀ (s : State), bootPhase s.w = 4 →
    Completes .skipRecord s (fun w' => bootPhase w' = 5 ∧ bootRecord w' = bootRecord s.w ∧ (chipQuiet s.w → BootFrame s.w w'))) ∧
  (∀ (s : State) (u : Nat), u ∈ trainUnits → u ∉ s.w.boot.trained → 3 ≤ bootPhase s.w → bootPhase s.w ≤ 5 →
    Completes (.trainingComplete u true) s (fun w' =>
      u ∈ w'.boot.trained ∧ (∀ v ∈ s.w.boot.trained, v ∈ w'.boot.trained) ∧
      (bootPhase s.w = 5 → trained w' = true → fld s.w rRAS_STATUS 1 1 = 0 → fld w' rRAS_STATUS 3 1 = 1) ∧ BootFrame s.w w') ∧
    Completes (.trainingComplete u false) s (fun w' => fld w' rRAS_STATUS 1 1 = 1 ∧ w'.boot = s.w.boot ∧ BootFrame s.w w')) ∧
  (∀ (s : State) (l : Nat), l < 3 → 32 + l ∈ s.w.boot.trained → fld s.w (rD2D_LINK_STATUS l) 0 2 = 1 →
    Completes (.trainingComplete (32 + l) true) s (fun w' =>
      fld w' (rD2D_LINK_STATUS l) 0 2 = 2 ∧ w'.boot = s.w.boot ∧ BootFrame s.w w')) ∧
  (∀ (s : State) (found : List (List Byte)), bootPhase s.w = 5 → fld s.w rRAS_STATUS 3 1 = 1 → bootRecord s.w = 1 →
    ((∃ e ∈ found, e ∉ s.w.ras.record) → Completes (.bootCheckComplete found) s (fun w' =>
      bootPhase w' = 5 ∧ bootRecord w' = 5 ∧ w'.ras.record = [] ∧ fld w' rRAS_STATUS 3 1 = 1 ∧
      (chipQuiet s.w → BootFrame s.w w'))) ∧
    ((∀ e ∈ found, e ∈ s.w.ras.record) → Completes (.bootCheckComplete found) s (fun w' =>
      fld w' rRAS_STATUS 3 1 = 0 ∧ memoryUndefined s.w w' ∧
      (if beyondRepair (programmeDone s.w) = true then fld w' rRAS_STATUS 1 1 = 1 else bootPhase w' = 6)))) ∧
  (∀ (s : State) (found : List (List Byte)), bootPhase s.w = 5 → fld s.w rRAS_STATUS 3 1 = 1 → bootRecord s.w ≠ 1 →
    Completes (.bootSelfTestComplete found) s (fun w' =>
      fld w' rRAS_STATUS 3 1 = 0 ∧ memoryUndefined s.w w' ∧ (∀ e ∈ found, entryOk e = true → e ∈ w'.ras.session) ∧
      (bootPhase w' = 6 ∨ fld w' rRAS_STATUS 1 1 = 1))) ∧
  (∀ (s : State), bootPhase s.w = 6 → llynState s.w = 1 →
    Completes .applyComplete s (fun w' =>
      bootPhase w' = 7 ∧ llynState w' = 2 ∧ w'.boot = { s.w.boot with bound := none } ∧
      rg w' rNET_ROLE = imRoles s.w.boot.image ∧ fld w' rMEM_MODE 0 1 = imInterleave s.w.boot.image % 2 ∧
      rg w' rSAF_CFG = 16 * imPrograms s.w.boot.image + imArmed s.w.boot.image ∧ w'.mem.bytes = s.w.mem.bytes)) ∧
  (∀ (s : State) (agent : Nat), agent = holder s.w → configured s.w = true → llynState s.w = 2 →
    Completes (.quiesce agent) s (fun w' =>
      llynState w' = 4 ∧ (twinState s.w ≠ 2 → (∀ o, o ≠ rGLB_LLYN_STATUS → rg w' o = rg s.w o) ∧ BootFrame s.w w'))) ∧
  (∀ (s : State) (agent kib : Nat), powerFree s.w agent →
    (¬ shutdownLegal s.w → Completes (.shutdown agent kib) s (fun w' =>
      powerTold w' 2 ∧ llynState w' = llynState s.w ∧ w'.pwr = s.w.pwr ∧ BootFrame s.w w')) ∧
    (shutdownLegal s.w → 256 ≤ kib → recordPlaced s.w (rg s.w rPWR_ARG) kib → Completes (.shutdown agent kib) s (fun w' =>
      w'.pwr.runs = [⟨5, kib, rg s.w rPWR_ARG⟩] ∧ fld w' rPWR_CMD_STATUS 63 1 = 1 ∧ fld w' rRAS_STATUS 3 1 = 1 ∧
      llynState w' = 0 ∧ (∀ d ∈ shutdownDomains, domState w' d ≠ 0) ∧ w'.mem.bytes = s.w.mem.bytes ∧
      (llynState s.w = 0 → BootFrame s.w w') ∧ (llynState s.w = 4 → w'.boot.image = [] ∧ w'.cores = []))) ∧
    (shutdownLegal s.w → kib < 256 ∨ ¬ recordPlaced s.w (rg s.w rPWR_ARG) kib → Completes (.shutdown agent kib) s (fun w' =>
      powerTold w' 3 ∧ llynState w' = llynState s.w ∧ w'.pwr = s.w.pwr ∧ BootFrame s.w w'))) ∧
  (∀ (s : State) (found cleared : List (List Byte)) (r : PwrRun), s.w.pwr.runs = [r] → r.op = 5 →
    recordPlaced s.w r.arg r.target → (holder s.w = 1 → writesAlone s.w) →
    (∀ e ∈ s.w.ras.record ++ s.w.ras.session, e.length = 16) →
    96 + 16 * (s.w.ras.record.length + s.w.ras.session.length + found.length + s.w.ras.ce.length) ≤ r.target * 1024 →
    Completes (.shutdownSelfTestComplete found cleared) s (fun w' =>
      bootPhase w' = 8 ∧ powerTold w' 0 ∧ w'.pwr.runs = [] ∧
      (∀ d, d < 144 → domState w' d = if holder s.w = 1 ∧ d ∈ [128, 136, 137] then domState s.w d else 0) ∧
      listAt (if holder s.w = 1 then w'.mem.bytes else w'.mem.host) r.arg 16 =
        [1, 0, 0, 0, 0, 0, 0, 0] ++ natLe (rg s.w rRAS_SERIAL) 8))

/-! ### Finov and the chiplet site (chapter 17) -/

namespace Sys2Proof.Machine

/-- A message is the next of its channel on a link that is ACTIVE: it waits there, or one flit brings it, whole and in order,
with nothing before it. On the chiplet's link the channel is in use. -/
def comes (w : World) (l : Nat) (m : FinovMsg) (flits : List Byte) : Prop :=
  linkActive w l = true ∧ (l = 3 → chipUses w m.channel = true) ∧
    ((flits = [] ∧ (mgetD w.flits.inq (chanKey l m.channel) []).head? = some m) ∨
      (flits = flitBytes ⟨[], msgSlots m⟩ ∧ (msgSlots m).length ≤ 14 ∧ m.channel < 7 ∧ m.status < 8 ∧ m.tag < 65536 ∧
        m.source < 4096 ∧ m.addr < 2 ^ 57 ∧ (∀ s ∈ m.data, s.length = 16) ∧ arrivalCause w l (headSlot m) = 0 ∧
        mgetD w.flits.rx l [] = [] ∧ mgetD w.flits.inq (chanKey l m.channel) [] = []))

/-- A message of an opcode and channel. -/
def isMsg (m : FinovMsg) (ch op : Nat) : Prop := m.channel = ch ∧ m.opcode = op

/-- Nothing waits on a channel of a link. -/
def noneWaits (w : World) (l ch : Nat) : Prop := mgetD w.flits.wait (chanKey l ch) [] = []

/-- A message of `n` data slots can leave on a channel of a link: nothing waits there, and the credits suffice. -/
def canSend (w : World) (l ch n : Nat) : Prop :=
  noneWaits w l ch ∧ 1 ≤ mgetD w.flits.can (creditKey l ch false) 0 ∧ n ≤ mgetD w.flits.can (creditKey l ch true) 0

/-- A request to the chiplet of `n` data slots can leave, and has a buffer for its response (R428). -/
def canAsk (w : World) (n : Nat) : Prop :=
  linkActive w 3 = true ∧ chipActive w = true ∧ canSend w 3 chMemReq n ∧ w.d2d.reqs.length < chipRoom

/-- The message last sent on a link, with its source. -/
def sentFinov (w' : World) (l op tag addr status src : Nat) (data : List Byte) : Prop :=
  w'.outs.head? = some ⟨.finov, [l, op, tag, addr, status, src], data⟩

/-- The message is served: it leaves its channel, and its credits are owed to its sender. -/
def servedOne (w w' : World) (l : Nat) (m : FinovMsg) : Prop :=
  mgetD w'.flits.inq (chanKey l m.channel) [] = (mgetD w.flits.inq (chanKey l m.channel) []).tail ∧
    1 ≤ mgetD w'.flits.owed (creditKey l m.channel false) 0 ∧ m.data.length ≤ mgetD w'.flits.owed (creditKey l m.channel true) 0

/-- A step that changes nothing of memory, cores, harts, the front end, messages and the chiplet's side. -/
def linksOnly (w w' : World) : Prop :=
  w'.mem = w.mem ∧ w'.cores = w.cores ∧ w'.fe = w.fe ∧ w'.harts = w.harts ∧ w'.irq = w.irq ∧ w'.d2d = w.d2d

/-- The chiplet site is ISOLATED for a reason: no request or command of it is under way, and its message is the last sent
(R432). -/
def isolatedFor (w' : World) (reason : Nat) : Prop :=
  fld w' rD2D_CHIP_STATUS 0 2 = 3 ∧ fld w' rD2D_CHIP_STATUS 4 4 = reason ∧ fld w' (rD2D_LINK_STATUS 3) 0 2 = 3 ∧
    fld w' rD2D_CHIP_CAP0 0 24 = 0 ∧ w'.d2d.reqs = [] ∧ w'.d2d.cmds = [] ∧ w'.d2d.tasks = [] ∧
    ∃ m, w'.irq.inbox.getLast? = some m ∧ m.src = 0x0B0 ∧ m.ctx = 0xFFFFF ∧ m.cookie = reason

/-- The site is neither ABSENT nor ISOLATED. -/
def siteLive (w : World) : Prop := fld w rD2D_CHIP_STATUS 0 2 = 1 ∨ fld w rD2D_CHIP_STATUS 0 2 = 2

/-- The commands by which flit bodies come in on a link. -/
def bringsFlits (l : Nat) (b : List Byte) (c : Instr) : Prop :=
  c = .finovRd l b ∨ c = .finovWr l b ∨ c = .finovWrp l b ∨ (∃ op ty v cmp, c = .finovAtom l op ty v cmp b) ∨
    c = .finovData l b ∨ c = .finovAck l b ∨ c = .atomRsp l b ∨ (∃ h, c = .fwdS l h b ∨ c = .fwdI l h b ∨ c = .finovInv l h b) ∨
    c = .cack l b ∨ c = .cdata l b ∨ c = .finovMsg l b ∨ (∃ dbg, c = .regRd l dbg b ∨ c = .regWr l dbg b ∨ c = .regRsp l dbg b) ∨
    (l = 3 ∧ (c = .chipCap b ∨ c = .chipDone b))

/-- A flit body that Finov sends: at most four credit returns of channels 0 to 6, none of them empty, and 14 slots of 16 B. -/
def flitFits (f : FlitBody) : Prop :=
  f.credits.length ≤ 4 ∧ f.slots.length ≤ 14 ∧ (∀ c ∈ f.credits, c.channel < 7 ∧ 0 < c.count ∧ c.count < 65536) ∧
    ∀ s ∈ f.slots, s.length = 16

/-- A message of R426's table whose fields fit the header of R424. -/
def msgFits (m : FinovMsg) : Prop :=
  (∃ chs, opShape m.opcode = some (chs, m.data.length) ∧ m.channel ∈ chs) ∧ m.status < 8 ∧ m.tag < 65536 ∧
    m.source < 4096 ∧ m.addr < 2 ^ 57 ∧ ∀ s ∈ m.data, s.length = 16

/-- A flit body that breaks the protocol: a check of the body fails, or the header that comes first in it, with nothing
before it, breaks a rule of the table or overruns its credits while none are on their way back. -/
def breaksProtocol (w : World) (l : Nat) (b : List Byte) : Prop :=
  (b.length = 240 ∧ flitCause b ≠ 0) ∨
    ∃ h rest, b = flitBytes ⟨[], h :: rest⟩ ∧ rest.length ≤ 13 ∧ h.length = 16 ∧ (∀ s ∈ rest, s.length = 16) ∧
      mgetD w.flits.rx l [] = [] ∧
      (headCause h ≠ 0 ∨ (arrivalCause w l h ≠ 0 ∧ ∀ p ∈ w.flits.owed, p.1 / 16 ≠ l))

end Sys2Proof.Machine

/-- A flit's body is 240 B that pass R429's checks and read back as the credit returns and slots it was built from, and so is
a message in its slots. Credit returns are regained, and a message that waited for them leaves. A Finov request is served at
its home: RD answers with the line, WR and WRP store the bytes and ACK, ATOM answers with the old value; an answer without
credits waits; a request that cannot be performed is answered ERR, and one for the chiplet window goes on to the chiplet.
FWD_S takes a hart's M copy to S, FWD_I and INV take any copy to I, an M copy with its data; responses return the request's
tag and end the request they answer; MSG goes on to the interrupt unit. A body or header that breaks the protocol is fatal on
an internal link and isolates the chiplet site; the eighth failed retry retrains the link (R268, R421 to R429). That a flit
which is not full may leave at any time, and how many credits a receiver offers, is the model's choice (log entry 98). -/
def Obligations.FinovMessagesAreServed : Prop :=
  (∀ (f : FlitBody), flitFits f →
    (flitBytes f).length = 240 ∧ flitCause (flitBytes f) = 0 ∧ parseFlit (flitBytes f) = some f) ∧
  (∀ (m : FinovMsg) (rest : List (List Byte)), msgFits m →
    headCause (headSlot m) = 0 ∧ (headSlot m).length = 16 ∧ nextMsg (msgSlots m ++ rest) = some (m, rest)) ∧
  (∀ (s : State) (l : Nat) (c : CreditRet), l < 3 → linkActive s.w l = true → flitFits ⟨[c], []⟩ →
    mgetD s.w.flits.rx l [] = [] →
    (noneWaits s.w l c.channel → Completes (.cack l (flitBytes ⟨[c], []⟩)) s (fun w' =>
      mgetD w'.flits.can (creditKey l c.channel c.data) 0 = mgetD s.w.flits.can (creditKey l c.channel c.data) 0 + c.count ∧
      rg w' (rD2D_FLITS_RX l) = (rg s.w (rD2D_FLITS_RX l) + 1) % 2 ^ 64 ∧ linksOnly s.w w')) ∧
    (∀ m, mgetD s.w.flits.wait (chanKey l c.channel) [] = [m] → m.channel = c.channel →
      affords l m (maddTo s.w.flits.can (creditKey l c.channel c.data) c.count) = true →
      Completes (.cack l (flitBytes ⟨[c], []⟩)) s (fun w' =>
        noneWaits w' l c.channel ∧ sentFinov w' l m.opcode m.tag m.addr m.status m.source m.data.flatten ∧ linksOnly s.w w'))) ∧
  (∀ (s : State) (l : Nat) (m : FinovMsg) (flits : List Byte), l < 3 → comes s.w l m flits → isMsg m 0 0x01 →
    let pa := m.addr / 128 * 128
    (m.va = false → isMain pa = true → memoryAlone s.w →
      let st := if poisoned s.w pa 128 then 1 else 0
      (canSend s.w l 1 8 → Completes (.finovRd l flits) s (fun w' =>
        sentFinov w' l 0x10 m.tag m.addr st (homeUnit s.w pa) (listAt s.w.mem.bytes pa 128) ∧ servedOne s.w w' l m ∧
        w'.mem.bytes = s.w.mem.bytes ∧ w'.mem.poison = s.w.mem.poison ∧ w'.cores = s.w.cores ∧ w'.fe = s.w.fe)) ∧
      (noneWaits s.w l 1 → mgetD s.w.flits.can (creditKey l 1 false) 0 = 0 → Completes (.finovRd l flits) s (fun w' =>
        mgetD w'.flits.wait (chanKey l 1) [] = [⟨1, 0x10, st, false, m.tag, homeUnit s.w pa, m.addr,
          dataSlots (listAt s.w.mem.bytes pa 128)⟩] ∧
        servedOne s.w w' l m ∧ w'.mem.bytes = s.w.mem.bytes))) ∧
    (m.va = true ∨ (isMain pa = false ∧ inChip pa = false) ∨ (inChip pa = true ∧ chipActive s.w = false) → canSend s.w l 1 8 →
      Completes (.finovRd l flits) s (fun w' =>
        sentFinov w' l 0x10 m.tag m.addr 2 (linkUnit l) (List.replicate 128 0) ∧ servedOne s.w w' l m ∧ linksOnly s.w w')) ∧
    (m.va = false → inChip pa = true → m.data = [] → canAsk s.w 0 → Completes (.finovRd l flits) s (fun w' =>
      sentFinov w' 3 0x01 (s.w.d2d.nextTag % 65536) (chipOff pa) 0 m.source [] ∧
      w'.d2d.reqs = s.w.d2d.reqs ++ [⟨s.w.d2d.nextTag % 65536, chipOff pa, .finov l 0x10 m.tag m.addr m.source⟩] ∧
      servedOne s.w w' l m ∧ w'.mem = s.w.mem))) ∧
  (∀ (s : State) (l : Nat) (m : FinovMsg) (flits : List Byte), l < 3 → comes s.w l m flits → isMsg m 0 0x02 → m.va = false →
    isMain (m.addr / 128 * 128) = true → writesAlone s.w → canSend s.w l 1 0 → m.data.flatten.length = 128 →
    Completes (.finovWr l flits) s (fun w' =>
      sentFinov w' l 0x11 m.tag m.addr 0 (homeUnit s.w (m.addr / 128 * 128)) [] ∧ servedOne s.w w' l m ∧
      listAt w'.mem.bytes (m.addr / 128 * 128) 128 = m.data.flatten ∧
      (∀ a, a / 128 ≠ m.addr / 128 → byteAt w'.mem.bytes a = byteAt s.w.mem.bytes a) ∧
      poisoned w' (m.addr / 128 * 128) 128 = decide (m.status = 1) ∧ w'.cores = s.w.cores ∧ w'.fe = s.w.fe)) ∧
  (∀ (s : State) (l : Nat) (m : FinovMsg) (flits mask data : List Byte), l < 3 → comes s.w l m flits → isMsg m 0 0x03 →
    m.va = false → isMain (m.addr / 128 * 128) = true → writesAlone s.w → canSend s.w l 1 0 →
    m.data = mask :: dataSlots data → mask.length = 16 → data.length = 128 →
    Completes (.finovWrp l flits) s (fun w' =>
      sentFinov w' l 0x11 m.tag m.addr 0 (homeUnit s.w (m.addr / 128 * 128)) [] ∧ servedOne s.w w' l m ∧
      (∀ a, byteAt w'.mem.bytes a = (if a / 128 = m.addr / 128 ∧ bit (leNat mask) (a % 128) = true then data.getD (a % 128) 0
        else byteAt s.w.mem.bytes a)) ∧ w'.cores = s.w.cores ∧ w'.fe = s.w.fe)) ∧
  (∀ (s : State) (l op ty v cmp : Nat) (m : FinovMsg) (flits : List Byte), l < 3 → comes s.w l m flits → isMsg m 0 0x04 →
    canSend s.w l 1 1 →
    let n := atomBytes ty
    let old := bytesAt s.w.mem.bytes m.addr n
    (m.va = false → isMain m.addr = true → writesAlone s.w → atomLegal op ty = true → m.addr % n = 0 →
      Completes (.finovAtom l op ty v cmp flits) s (fun w' =>
        sentFinov w' l 0x12 m.tag m.addr (if poisoned s.w m.addr n then 1 else 0) (homeUnit s.w m.addr) (natLe old 16) ∧
        servedOne s.w w' l m ∧
        bytesAt w'.mem.bytes m.addr n = (atomNew op ty (ftzOf s.w m.source) old v cmp).1 % 256 ^ n ∧
        (∀ a, (a < m.addr ∨ m.addr + n ≤ a) → byteAt w'.mem.bytes a = byteAt s.w.mem.bytes a) ∧ w'.fe = s.w.fe)) ∧
    (atomLegal op ty = false ∨ m.addr % n ≠ 0 → Completes (.finovAtom l op ty v cmp flits) s (fun w' =>
      sentFinov w' l 0x12 m.tag m.addr 2 (linkUnit l) (List.replicate 16 0) ∧ servedOne s.w w' l m ∧ linksOnly s.w w'))) ∧
  (∀ (s : State) (l h line : Nat) (m : FinovMsg) (flits : List Byte), l < 3 → comes s.w l m flits → m.channel = 2 →
    m.addr = 64 * line → canSend s.w l 3 4 →
    let holder := hartOf s.w h
    let gone (w' : World) : Prop := mget (hartOf w' h).mLines line = none ∧ line ∉ (hartOf w' h).sLines ∧
      (∀ r, (hartOf w' h).resv = some r → r.granule ≠ line) ∧ ∀ k, k ≠ h → hartOf w' k = hartOf s.w k
    (m.opcode = 0x20 → ∀ bs, mget holder.mLines line = some bs → bs.length = 64 → Completes (.fwdS l h flits) s (fun w' =>
      sentFinov w' l 0x29 m.tag m.addr 0 (0x0E0 + h) bs ∧ mget (hartOf w' h).mLines line = none ∧
      line ∈ (hartOf w' h).sLines ∧ (hartOf w' h).resv = holder.resv ∧ listAt w'.mem.bytes (64 * line) 64 = bs ∧
      servedOne s.w w' l m ∧ ∀ k, k ≠ h → hartOf w' k = hartOf s.w k)) ∧
    (m.opcode = 0x20 → mget holder.mLines line = none → Completes (.fwdS l h flits) s (fun w' =>
      sentFinov w' l 0x28 m.tag m.addr 0 (0x0E0 + h) [] ∧ servedOne s.w w' l m ∧ linksOnly s.w w')) ∧
    (∀ c ∈ [(0x21, Instr.fwdI l h flits), (0x22, Instr.finovInv l h flits)], m.opcode = c.1 → cohHeld s.w h line = false →
      (∀ bs, mget holder.mLines line = some bs → bs.length = 64 → Completes c.2 s (fun w' =>
        sentFinov w' l 0x29 m.tag m.addr 0 (0x0E0 + h) bs ∧ gone w' ∧ listAt w'.mem.bytes (64 * line) 64 = bs ∧
        servedOne s.w w' l m)) ∧
      (mget holder.mLines line = none → Completes c.2 s (fun w' =>
        sentFinov w' l 0x28 m.tag m.addr 0 (0x0E0 + h) [] ∧ gone w' ∧ w'.mem = s.w.mem ∧ servedOne s.w w' l m)))) ∧
  (∀ (s : State) (m : FinovMsg) (flits : List Byte) (r : ChipReq), comes s.w 3 m flits → m.channel = 1 →
    noneWaits s.w 3 chMemReq → s.w.d2d.reqs.find? (·.tag = m.tag) = some r →
    let left := s.w.d2d.reqs.filter (·.tag ≠ m.tag)
    let ends (w' : World) : Prop := w'.d2d = { s.w.d2d with reqs := left } ∧ w'.mem = s.w.mem ∧ servedOne s.w w' 3 m
    (m.opcode = 0x11 → m.status ≠ 2 → (∀ l rsp tag a src, r.user ≠ .finov l rsp tag a src) →
      Completes (.finovAck 3 flits) s (fun w' => ends w' ∧ w'.cores = s.w.cores ∧ w'.harts = s.w.harts)) ∧
    (∀ l rsp tag addr src, r.user = .finov l rsp tag addr src → l < 3 → linkActive s.w l = true →
      (m.opcode = 0x10 → rsp = 0x10 → m.data.flatten.length = 128 → m.status ≠ 2 → canSend s.w l 1 8 →
        Completes (.finovData 3 flits) s (fun w' => ends w' ∧ sentFinov w' l 0x10 tag addr m.status 0x0B1 m.data.flatten)) ∧
      (m.opcode = 0x12 → rsp = 0x12 → m.data.flatten.length = 16 → m.status ≠ 2 → canSend s.w l 1 1 →
        Completes (.atomRsp 3 flits) s (fun w' => ends w' ∧ sentFinov w' l 0x12 tag addr m.status 0x0B1 m.data.flatten))) ∧
    (m.opcode = 0x10 → m.data.flatten.length = 128 →
      (∀ n id, r.user = .core n id → m.status ≠ 2 → Completes (.finovData 3 flits) s (fun w' => ends w' ∧
        (coreOf w' n).accs = (coreOf s.w n).accs.map (fun a => if a.id = id then { a with
          data := mset a.data ((r.line + 0x4000000000000) / 128) m.data.flatten
          poison := a.poison || decide (m.status = 1) } else a) ∧ ∀ k, k ≠ n → coreOf w' k = coreOf s.w k)) ∧
      (∀ h pa k, r.user = .hartLoad h pa k → k ≠ 16 → m.status = 0 → Completes (.finovData 3 flits) s (fun w' =>
        ends w' ∧ w'.outs.head? = some ⟨.hart, [h, 0, 0], (m.data.flatten.drop (pa % 128)).take k⟩ ∧ w'.harts = s.w.harts)) ∧
      (∀ h pa, r.user = .hartLoad h pa 16 → m.status = 0 → left.length < chipRoom →
        1 ≤ mgetD s.w.flits.can (creditKey 3 chMemReq false) 0 → Completes (.finovData 3 flits) s (fun w' =>
          sentFinov w' 3 0x01 (s.w.d2d.nextTag % 65536) (chipOff pa / 128 * 128) 0 (0x0E0 + h) [] ∧
          w'.d2d.reqs = left ++ [⟨s.w.d2d.nextTag % 65536, chipOff pa / 128 * 128,
            .hartPair h (pa + 8) ((m.data.flatten.drop (pa % 128)).take 8)⟩] ∧ w'.mem = s.w.mem)) ∧
      (∀ h pa low, r.user = .hartPair h pa low → m.status = 0 → Completes (.finovData 3 flits) s (fun w' =>
        ends w' ∧ w'.outs.head? = some ⟨.hart, [h, 0, 0], low ++ (m.data.flatten.drop (pa % 128)).take 8⟩)) ∧
      (∀ h pa k, r.user = .hartLoad h pa k → m.status = 1 ∨ m.status = 2 → Completes (.finovData 3 flits) s (fun w' =>
        ends w' ∧ w'.outs.head? = some ⟨.hart, [h, 0, 6], []⟩ ∧ (hartOf w' h).trap = some 5 ∧
        (m.status = 1 → rg w' rRAS_POISON_CONSUMED = (rg s.w rRAS_POISON_CONSUMED + 1) % 2 ^ 64))))) ∧
  (∀ (s : State) (l : Nat) (dbg : Bool) (m : FinovMsg) (flits : List Byte), l < 3 → comes s.w l m flits →
    (isMsg m 1 0x12 → Completes (.atomRsp l flits) s (fun w' => linksOnly s.w w' ∧ servedOne s.w w' l m)) ∧
    (isMsg m 3 0x28 → Completes (.cack l flits) s (fun w' => linksOnly s.w w' ∧ servedOne s.w w' l m)) ∧
    (isMsg m 3 0x29 → Completes (.cdata l flits) s (fun w' => linksOnly s.w w' ∧ servedOne s.w w' l m)) ∧
    (isMsg m (if dbg then 5 else 6) 0x42 → Completes (.regRsp l dbg flits) s (fun w' => linksOnly s.w w' ∧ servedOne s.w w' l m)) ∧
    (isMsg m 4 0x30 → Completes (.finovMsg l flits) s (fun w' =>
      (∃ x, w'.irq.inbox.getLast? = some x ∧ x.src = bits (le m.data.flatten 0 8) 24 12 ∧
        x.ctx = bits (le m.data.flatten 0 8) 44 20 ∧ x.status = bits (le m.data.flatten 0 8) 36 8 ∧
        x.cookie = le m.data.flatten 8 8) ∧ w'.mem = s.w.mem ∧ w'.fe = s.w.fe ∧ servedOne s.w w' l m))) ∧
  (∀ (s : State) (l n : Nat) (dbg : Bool) (m : FinovMsg) (flits : List Byte), l < 3 → comes s.w l m flits →
    m.channel = (if dbg then 5 else 6) → canSend s.w l m.channel 1 →
    (m.addr = 0x5000 + 8 * n → n < 512 →
      (m.opcode = 0x40 → Completes (.regRd l dbg flits) s (fun w' =>
        sentFinov w' l 0x42 m.tag m.addr 0 (linkUnit l) (natLe (rg s.w m.addr) 16) ∧ servedOne s.w w' l m ∧
        w'.mem = s.w.mem ∧ w'.fe = s.w.fe)) ∧
      (m.opcode = 0x41 → Completes (.regWr l dbg flits) s (fun w' =>
        sentFinov w' l 0x42 m.tag m.addr 0 (linkUnit l) (natLe 0 16) ∧ servedOne s.w w' l m ∧
        rg w' m.addr &&& 0x33F = le m.data.flatten 0 8 &&& 0x33F ∧ w'.mem = s.w.mem ∧ w'.fe = s.w.fe))) ∧
    (m.opcode = 0x40 → accessOk s.w m.addr 8 = false → Completes (.regRd l dbg flits) s (fun w' =>
      sentFinov w' l 0x42 m.tag m.addr 2 (linkUnit l) (natLe 0 16) ∧ servedOne s.w w' l m ∧
      rg w' rRAS_ACCESS_ERR = (rg s.w rRAS_ACCESS_ERR + 1) % 2 ^ 64 ∧ w'.mem = s.w.mem ∧ w'.fe = s.w.fe))) ∧
  (∀ (s : State) (l : Nat) (b : List Byte), linkActive s.w l = true → breaksProtocol s.w l b →
    (l < 3 → ∀ c, bringsFlits l b c → Completes c s (fun w' =>
      fld w' rRAS_STATUS 0 1 = 1 ∧ fld w' rD2D_ERR 63 1 = 1 ∧ w'.mem.bytes = s.w.mem.bytes)) ∧
    (l = 3 → siteLive s.w → ∀ c, bringsFlits 3 b c → Completes c s (fun w' => isolatedFor w' 5 ∧ fld w' rD2D_ERR 63 1 = 1))) ∧
  (∀ (s : State) (l n : Nat) (ok : Bool), linkActive s.w l = true → 1 ≤ n → n ≤ 8 →
    (ok = true ∨ n < 8 → Completes (.adapterRetry l n ok) s (fun w' =>
      rg w' (rD2D_RETRY l) = (rg s.w (rD2D_RETRY l) + 1) % 2 ^ 64 ∧
      rg w' rRAS_CE_COUNT = (rg s.w rRAS_CE_COUNT + 1) % 2 ^ 64 ∧
      fld w' rRAS_LOG_STATUS 32 32 = (fld s.w rRAS_LOG_STATUS 32 32 + 1) % 2 ^ 32 ∧
      (∀ o, o ≠ rD2D_RETRY l → o ≠ rRAS_CE_COUNT → o ≠ rRAS_LOG_STATUS → rg w' o = rg s.w o) ∧
      PowerFrame s.w w')) ∧
    (l < 3 → Completes (.adapterRetry l 8 false) s (fun w' =>
      fld w' (rD2D_LINK_STATUS l) 0 2 = 1 ∧ fld w' (rD2D_LINK_STATUS l) 16 8 = 0 ∧ fld w' rD2D_ERR 63 1 = 1 ∧
      PowerFrame s.w w')) ∧
    (l = 3 → siteLive s.w → Completes (.adapterRetry 3 8 false) s (fun w' => isolatedFor w' 7)))

/-- The site negotiates by CAP, and an offer that is late, or that R430 refuses, isolates it. A CHIP entry is sent under its
tag while the site is ACTIVE; ABORT asks a stopped command to end, DONE ends one, and no DONE within 1 s isolates the
site, whose commands end. The Frame I/O chiplet decodes to the host tier and puts frames out, the last one again while no new
one is due (R430 to R434). -/
def Obligations.ChipletNegotiatesAndRunsCommands : Prop :=
  (∀ (s : State), (fld s.w (rPWR_DOM 143) 0 3 = 1 ∨ fld s.w (rPWR_DOM 143) 0 3 = 2) → fld s.w (rD2D_LINK_STATUS 3) 0 2 = 1 →
    fld s.w rRAS_STATUS 0 1 = 0 → Completes .chipletLinkActive s (fun w' =>
      if Config.variantA then
        (lanesSpent s.w 3 = true → isolatedFor w' 7) ∧
        (lanesSpent s.w 3 = false →
          fld w' (rD2D_LINK_STATUS 3) 0 2 = 2 ∧ fld w' rD2D_CHIP_STATUS 0 2 = 1 ∧ w'.d2d.capAt = some s.w.now ∧
          (∃ data, sentFinov w' 3 0x50 0 0 0 0x026 data ∧ data.length = 32) ∧ PowerFrame s.w w')
      else w' = s.w)) ∧
  (∀ (s : State) (m : FinovMsg) (flits : List Byte) (t : Nat), comes s.w 3 m flits → isMsg m 6 0x50 →
    fld s.w rD2D_CHIP_STATUS 0 2 = 1 → s.w.d2d.capAt = some t →
    let b := m.data.flatten
    (s.w.now ≤ t + 1000000 → capReason b = 0 → Completes (.chipCap flits) s (fun w' =>
      fld w' rD2D_CHIP_STATUS 0 2 = 2 ∧ fld w' rD2D_CHIP_CAP0 0 16 = le b 6 2 &&& 0x7F ∧
      fld w' rD2D_CHIP_CAP0 48 16 = le b 0 2 ∧ fld w' rD2D_CHIP_CAP0 32 16 = le b 2 2 ∧
      (∀ ch, ch < 6 → bit (le b 6 2) ch = true →
        mgetD w'.flits.can (creditKey 3 ch false) 0 = le b (10 + 2 * ch) 1 ∧
        mgetD w'.flits.can (creditKey 3 ch true) 0 = le b (11 + 2 * ch) 1) ∧ PowerFrame s.w w')) ∧
    (s.w.now ≤ t + 1000000 → capReason b ≠ 0 → Completes (.chipCap flits) s (fun w' => isolatedFor w' (capReason b))) ∧
    (t + 1000000 < s.w.now → Completes (.chipCap flits) s (fun w' => isolatedFor w' 1))) ∧
  (∀ (s : State) (t : Nat), fld s.w rD2D_CHIP_STATUS 0 2 = 1 → s.w.d2d.capAt = some t → t + 1000000 ≤ s.w.now →
    Completes .capTimeout s (fun w' => isolatedFor w' 1)) ∧
  (∀ (s : State), configured s.w = true → siteLive s.w →
    Completes .chipletIsolate s (fun w' =>
      isolatedFor w' 6 ∧ ∀ c ∈ s.w.d2d.cmds, ∀ x, getWork s.w c.work = some x → ∃ y, getWork w' c.work = some y ∧ y.fin ≠ none)) ∧
  (∀ (s : State), configured s.w = true → fld s.w rD2D_CHIP_STATUS 0 2 = 3 →
    Completes .chipletRenegotiate s (fun w' =>
      fld w' (rD2D_LINK_STATUS 3) 0 2 = 1 ∧ fld w' rD2D_CHIP_STATUS 0 2 = 1 ∧ w'.d2d = s.w.d2d ∧ PowerFrame s.w w')) ∧
  (∀ (s : State) (k tag : Nat) (x : Work), feHeld s.w = false → workRuns s.w k 9 = some x → x.begun = false → x.stop = none →
    (le x.cmd 0 1 = 1 → chipActive s.w = true → linkActive s.w 3 = true → chipBehind s.w x = false →
      s.w.d2d.cmds.length < 64 → tag < 65536 → (∀ c ∈ s.w.d2d.cmds, c.tag ≠ tag) → x.cmd.length = 64 →
      noneWaits s.w 3 chMgmt →
      let sent (w' : World) : Prop := Begun w' k x ∧ w'.mem = s.w.mem ∧
        w'.d2d = { s.w.d2d with cmds := s.w.d2d.cmds ++ [⟨tag, k, x.ctx, none⟩] }
      (canSend s.w 3 chMgmt 4 → Completes (.chip k tag) s (fun w' =>
        sent w' ∧ sentFinov w' 3 0x51 tag 0 0 0x026 x.cmd)) ∧
      (mgetD s.w.flits.can (creditKey 3 chMgmt true) 0 < 4 → Completes (.chip k tag) s (fun w' =>
        sent w' ∧ w'.outs = s.w.outs ∧ (∃ m, mgetD w'.flits.wait (chanKey 3 chMgmt) [] = [m] ∧ isMsg m 6 0x51 ∧ m.tag = tag) ∧
        ∀ fields, execCmd tag fields ⟨s.pending, w'⟩ = .next ⟨s.pending, w'⟩))) ∧
    (le x.cmd 0 1 ≠ 1 ∨ chipActive s.w = false → Completes (.chip k tag) s (fun w' =>
      Ended w' k 9 x ∧ w'.d2d = s.w.d2d ∧ w'.outs = s.w.outs ∧ w'.mem = s.w.mem))) ∧
  (∀ (s : State) (tag : Nat) (c : ChipCmd) (x : Work), s.w.d2d.cmds.find? (·.tag = tag) = some c → getWork s.w c.work = some x →
    (∀ fields, (∀ t ∈ s.w.d2d.tasks, t.tag ≠ tag) → noneWaits s.w 3 chMgmt → Completes (.chipCmd tag fields) s (fun w' =>
      w'.d2d = { s.w.d2d with tasks := s.w.d2d.tasks ++ [⟨tag, x.cmd.take 64, fields, c.abort.isSome⟩] } ∧ w'.fe = s.w.fe ∧
      w'.mem = s.w.mem)) ∧
    (c.abort = none → x.stop ≠ none → linkActive s.w 3 = true → canSend s.w 3 chMgmt 0 →
      Completes (.chipAbort tag) s (fun w' =>
        sentFinov w' 3 0x52 tag 0 0 0x026 [] ∧ (∀ d ∈ w'.d2d.cmds, d.tag = tag → d.abort = some s.w.now) ∧
        (∀ t ∈ w'.d2d.tasks, t.tag = tag → t.abort = true) ∧ w'.fe = s.w.fe ∧ w'.mem = s.w.mem)) ∧
    (∀ m flits, comes s.w 3 m flits → isMsg m 6 0x53 → m.tag = tag → le m.data.flatten 0 1 ≠ 3 → x.stop = none → x.fin = none →
      Completes (.chipDone flits) s (fun w' =>
        Ended w' c.work (chipStatus (le m.data.flatten 0 1)) x ∧ (∀ d ∈ w'.d2d.cmds, d.tag ≠ tag) ∧
        (∀ t ∈ w'.d2d.tasks, t.tag ≠ tag) ∧ servedOne s.w w' 3 m ∧ w'.mem = s.w.mem)) ∧
    (∀ t, c.abort = some t → t + 1000000000 ≤ s.w.now → siteLive s.w →
      Completes (.abortTimeout tag) s (fun w' => isolatedFor w' 5))) ∧
  (∀ (s : State) (tag i pa : Nat) (data : List Byte) (t : ChipTask) (c : ChipCmd), taskOf s.w tag 1 = some (t, c) →
    let va := taskField t 0 + i * taskField t 1
    (rangeState c.ctx va data.length true (some c.work) s.w).1.1 = .ready → onePage s.w c.ctx va data.length pa →
    (∀ p ∈ vaPages va data.length, ∃ q, vaRead s.w c.ctx p = some q ∧ inHost q = true) →
    Completes (.chipDecode tag i data) s (fun w' =>
      listAt w'.mem.bytes pa data.length = data ∧
      (∀ a, (a < pa ∨ pa + data.length ≤ a) → byteAt w'.mem.bytes a = byteAt s.w.mem.bytes a) ∧ w'.fe = s.w.fe ∧
      w'.d2d = s.w.d2d)) ∧
  (∀ (s : State) (tag out pa : Nat) (t : ChipTask) (c : ChipCmd), taskOf s.w tag 2 = some (t, c) → out < 4 →
    chipActive s.w = true → taskField t 0 = out →
    let va := taskField t 2
    let n := taskField t 3
    (reachedKey s.w (taskField t 1) = true → (rangeState c.ctx va n false (some c.work) s.w).1.1 = .ready →
      onePage s.w c.ctx va n pa → poisonAt s.w c.ctx va n = none →
      Completes (.sdiFrame tag out) s (fun w' =>
        w'.outs.head? = some ⟨.chiplet, [out], listAt s.w.mem.bytes pa n⟩ ∧
        mget w'.d2d.sdi out = some (listAt s.w.mem.bytes pa n) ∧ w'.mem.bytes = s.w.mem.bytes ∧ w'.fe = s.w.fe)) ∧
    (reachedKey s.w (taskField t 1) = false → ∀ b, mget s.w.d2d.sdi out = some b →
      Completes (.sdiFrame tag out) s (fun w' =>
        w'.outs.head? = some ⟨.chiplet, [out], b⟩ ∧ w'.mem = s.w.mem ∧ w'.d2d = s.w.d2d ∧ w'.fe = s.w.fe)))

/-! ### Errors and repair (chapter 21), observability (chapter 23), management (R499), reset -/

namespace Sys2Proof.Machine

/-- One entry of the RAS log, of a kind, severity and source unit, is the next one written (R473). -/
def logged (w w' : World) (kind sev src addr : Nat) : Prop :=
  ∃ e, mget w'.log (fld w rRAS_LOG_STATUS 32 32 % 256) = some e ∧ e.w0 = kind * 2 ^ 56 + sev * 2 ^ 52 + src * 2 ^ 40 ∧
    e.w1 = addr % 2 ^ 57

/-- What answers a request of the management controller: the answer is the newest output, and nothing else changes. -/
def answeredWith (s : State) (c : Instr) (code : Nat) (data : List Byte) : Prop :=
  Completes c s (fun w' => w' = { s.w with outs := ⟨.sideband, [code], data⟩ :: s.w.outs })

/-- What answers an SPDM request in its turn: the exchange moves to a step. -/
def exchanged (s : State) (c : Instr) (code next : Nat) (data : List Byte) : Prop :=
  Completes c s (fun w' => w' =
    { s.w with pins := { s.w.pins with spdm := next }, outs := ⟨.sideband, [code], data⟩ :: s.w.outs })

end Sys2Proof.Machine

/-- A corrected error is counted and logged without a message; a core over its limit is retired, after its launch; a row over
its limit loses its pages. An uncorrectable error at a home poisons its line and sends a message, in SLM and in a register or
accumulator its word (the grain and the word's number are the model's: log entry 24), in a tag it is fatal. A unit that fails,
which the model takes as an error of its own (log entry 138), is retired, or fatal where nothing can replace it. A spare that
passes its test takes the retired number, one that fails is retired; a page's reload ends once its translations are gone; the
log's window shows the selected entry; a fatal error ends with the holder's reset (R465 to R475). -/
def Obligations.ErrorsAreCorrectedPoisonedAndRepaired : Prop :=
  (∀ (s : State) (site unit row addr : Nat) (pages : List Nat), siteOk site unit = true →
    site = 1 ∨ site = 2 ∨ site = 4 ∨ site = 6 ∨ site = 7 →
    Completes (.correctedError site unit row addr pages) s (fun w' =>
      rg w' rRAS_CE_COUNT = (rg s.w rRAS_CE_COUNT + 1) % 2 ^ 64 ∧ logged s.w w' (siteKind site) 0 (siteUnit site unit) addr ∧
      mget w'.ras.ce (siteUnit site unit) = some (mgetD s.w.ras.ce (siteUnit site unit) 0 + 1) ∧
      (∀ o, o ≠ rRAS_CE_COUNT → o ≠ rRAS_LOG_STATUS → rg w' o = rg s.w o) ∧ w'.irq = s.w.irq ∧ w'.mem = s.w.mem ∧
      w'.cores = s.w.cores ∧ w'.fe = s.w.fe)) ∧
  (∀ (s : State) (site unit row addr : Nat) (pages : List Nat), site = 0 ∨ site = 8 → unit < 256 →
    (coreOf s.w unit).launch ≠ none → (countRow site unit row (fld s.w rRAS_CE_CFG 16 16) s.w).1 = true →
    Completes (.correctedError site unit row addr pages) s (fun w' =>
      unit ∈ w'.ras.retiring ∧ logged s.w w' 1 0 (0x100 + unit) addr ∧ w'.irq = s.w.irq ∧ w'.mem = s.w.mem ∧
      w'.cores = s.w.cores)) ∧
  (∀ (s : State) (unit row addr p : Nat), unit < 12 → p < 2 ^ 64 →
    (countRow 3 unit row (fld s.w rRAS_CE_CFG 32 16) s.w).1 = true →
    Completes (.correctedError 3 unit row addr [p]) s (fun w' =>
      p ∈ retiredPages w' ∧
      (p ∉ retiredPages s.w → rg w' rRAS_PAGES_RETIRED = (rg s.w rRAS_PAGES_RETIRED + 1) % 2 ^ 64) ∧
      w'.mem.bytes = s.w.mem.bytes)) ∧
  (∀ (s : State) (site unit addr : Nat), siteOk site unit = true → site = 1 ∨ site = 2 ∨ site = 3 ∨ site = 4 →
    isMain addr = true →
    Completes (.uncorrectableError site unit addr) s (fun w' =>
      addr / 128 ∈ w'.mem.poison ∧ rg w' rRAS_UE_COUNT = (rg s.w rRAS_UE_COUNT + 1) % 2 ^ 64 ∧
      logged s.w w' (siteKind site) 1 (siteUnit site unit) addr ∧
      (∃ m, w'.irq.inbox.getLast? = some m ∧ m.src = 0x000 ∧ m.cookie / 2 ^ 52 = siteKind site * 16 + 1) ∧
      w'.mem.bytes = s.w.mem.bytes ∧ w'.cores = s.w.cores ∧ w'.fe = s.w.fe)) ∧
  (∀ (s : State) (unit addr : Nat), unit < 256 → (coreOf s.w unit).launch ≠ none →
    Completes (.uncorrectableError 0 unit addr) s (fun w' =>
      addr / 4 ∈ (coreOf w' unit).slmPoison ∧ unit ∈ w'.ras.retiring ∧ (∀ k, k ≠ unit → coreOf w' k = coreOf s.w k) ∧
      w'.mem = s.w.mem ∧ w'.fe = s.w.fe) ∧
    Completes (.uncorrectableError 8 unit addr) s (fun w' =>
      addr ∈ (coreOf w' unit).marks ∧ unit ∈ w'.ras.retiring ∧ (∀ k, k ≠ unit → coreOf w' k = coreOf s.w k) ∧
      w'.mem = s.w.mem ∧ w'.fe = s.w.fe)) ∧
  (∀ (s : State) (unit addr : Nat), siteOk 9 unit = true →
    (vitalUnit unit = true → Completes (.uncorrectableError 9 unit addr) s (fun w' =>
      fld w' rRAS_STATUS 0 2 = 3 ∧ w'.mem.bytes = s.w.mem.bytes)) ∧
    (vitalUnit unit = false → unit ∉ s.w.ras.retired → Completes (.uncorrectableError 9 unit addr) s (fun w' =>
      unit ∈ w'.ras.retired ∧ recEntry 7 (natLe unit 2) ∈ w'.ras.session ∧ logged s.w w' kindUnit 0 unit 0 ∧
      rg w' rRAS_UE_COUNT = (rg s.w rRAS_UE_COUNT + 1) % 2 ^ 64 ∧
      fld w' rGLB_UDGEN 0 32 = (fld s.w rGLB_UDGEN 0 32 + 2) % 2 ^ 32 ∧
      (0x0E0 ≤ unit → (hartOf w' (unit - 0x0E0)).run = .stopped) ∧ (unit < 0x060 → rg w' rSAF_CFG = 0)))) ∧
  (∀ (s : State) (unit addr : Nat), siteOk 7 unit = true →
    Completes (.uncorrectableError 7 unit addr) s (fun w' => fld w' rRAS_STATUS 0 1 = 1 ∧ w'.mem.bytes = s.w.mem.bytes)) ∧
  (∀ (s : State) (c k : Nat), mget s.w.ras.testing c = some k → c < 16 →
    Completes (.spareSignatureTestComplete c true) s (fun w' =>
      mget w'.ras.adopted c = some k ∧ mget w'.ras.testing c = none ∧ logged s.w w' 12 0 (0x100 + 16 * c + k) 0 ∧
      fld w' rGLB_UDGEN 0 32 = (fld s.w rGLB_UDGEN 0 32 + 2) % 2 ^ 32 ∧ w'.mem = s.w.mem ∧ w'.cores = s.w.cores) ∧
    Completes (.spareSignatureTestComplete c false) s (fun w' =>
      bit (retiredMask w' c) 16 = true ∧ mget w'.ras.testing c = none ∧ w'.ras.adopted = s.w.ras.adopted ∧
      fld w' rGLB_UDGEN 0 32 = (fld s.w rGLB_UDGEN 0 32 + 2) % 2 ^ 32 ∧ w'.mem = s.w.mem ∧ w'.cores = s.w.cores)) ∧
  (∀ (s : State) (r : Reload) (rest : List Reload) (m : Model), s.w.ras.reloads = r :: rest → modelOf s.w r.model = some m →
    r.moved = false →
    (r.hot = false → Completes .pageReloadComplete s (fun w' =>
      w'.ras.reloads = rest ∧ (rest = [] → fld w' rRAS_STATUS 2 1 = 0) ∧
      (m.st ≠ .hot → m.st ≠ .evicting → modelOf w' r.model = some { m with bad := true }) ∧
      w'.fe = s.w.fe ∧ w'.cores = s.w.cores)) ∧
    (r.hot = true → m.st = .hot → freshPage m s.w ≠ none → Completes .pageReloadComplete s (fun w' =>
      w'.ras.reloads = { r with moved := true } :: rest ∧ w'.mem.held = s.w.mem.held ∧ (∃ keys, w'.mem.inval = s.w.mem.inval ++
        [⟨keys, .reloaded (nth m.frames r.page 0) (pageUnits m) m.part r.bad⟩])))) ∧
  (∀ (s : State) (q : InvReq) (rest : List InvReq) (frame units part bad : Nat), s.w.mem.inval = q :: rest →
    q.cont = .reloaded frame units part bad → bad < 2 ^ 64 → Completes .tlbInvalidateConfirmed s (fun w' =>
      bad ∈ retiredPages w' ∧ (∀ p ∈ w'.mem.held, p < frame / 65536 ∨ frame / 65536 + units ≤ p) ∧
      (fld w' rRAS_STATUS 0 1 = 1 ∨
        (w'.ras.reloads = s.w.ras.reloads.tail ∧ (w'.ras.reloads = [] → fld w' rRAS_STATUS 2 1 = 0))))) ∧
  (∀ (s : State) (v : Nat) (e : LogEntry), mget s.w.log (v % 256) = some e →
    Completes (.rasLogSelWrite v) s (fun w' =>
      rg w' rRAS_LOG_W0 = e.w0 % 2 ^ 64 ∧ rg w' rRAS_LOG_W1 = e.w1 % 2 ^ 64 ∧ rg w' rRAS_LOG_W2 = e.w2 % 2 ^ 64 ∧
      rg w' rRAS_LOG_W3 = e.w3 % 2 ^ 64 ∧ fld w' rRAS_LOG_SEL 0 8 = v % 256 ∧ w'.log = s.w.log ∧ w'.irq = s.w.irq ∧
      PowerFrame s.w w')) ∧
  (∀ (s : State) (agent : Nat), fld s.w rRAS_STATUS 0 1 = 1 → agent = holder s.w →
    Completes (.fatalReset agent) s (fun w' => coldState s.w w' ∧ fld w' rRAS_STATUS 0 1 = 0))

/-- A snapshot captures every counter at once, and an armed one when its key is reached; Clove slots are armed, closed with
the parts they hold, and disarmed; a Starchart build stamps its start, and ends with its record at its destination, its
counts and a message; with freeze it holds what stood at its start (R476 to R485). -/
def Obligations.SnapshotsSlotsAndChartsAreTaken : Prop :=
  (∀ (s : State), configured s.w = true → fld s.w rDBG_SNAP_STATUS 0 1 = 0 →
    Completes .snapshotCapture s (fun w' =>
      (∀ o, isDbgCounter o = true → mget w'.dbg.shadow o = mget s.w.regs o) ∧
      rg w' rDBG_SNAP_STAMP_LO = (stampNow s.w).1 % 2 ^ 64 ∧
      fld w' rDBG_SNAP_STATUS 32 32 = (fld s.w rDBG_SNAP_STATUS 32 32 + 1) % 2 ^ 32 ∧ fld w' rDBG_SNAP_STATUS 0 1 = 0 ∧
      PowerFrame s.w w')) ∧
  (∀ (s : State) (v : Nat), configured s.w = true → ftbState s.w ≠ 0 → fld s.w rDBG_SNAP_STATUS 0 1 = 0 →
    Completes (.snapshotArm v) s (fun w' =>
      fld w' rDBG_SNAP_AT_HI 0 16 = v % 2 ^ 16 ∧ fld w' rDBG_SNAP_AT_HI 63 1 = 1 ∧ fld w' rDBG_SNAP_STATUS 0 1 = 1 ∧
      w'.dbg = s.w.dbg ∧ PowerFrame s.w w')) ∧
  (∀ (s : State), configured s.w = true → fld s.w rDBG_SNAP_AT_HI 63 1 = 1 → reachedKey s.w (snapKey s.w) = true →
    Completes .snapshotKeyReached s (fun w' =>
      (∀ o, isDbgCounter o = true → mget w'.dbg.shadow o = mget s.w.regs o) ∧
      rg w' rDBG_SNAP_STAMP_LO = snapKey s.w % 2 ^ 64 ∧ fld w' rDBG_SNAP_AT_HI 63 1 = 0 ∧
      fld w' rDBG_SNAP_STATUS 0 1 = 0 ∧ PowerFrame s.w w')) ∧
  (∀ (s : State), configured s.w = true →
    let k := cloveSel s.w
    let x := cloveOf s.w k
    (x.st ≠ 1 → Completes .cloveArm s (fun w' =>
      cloveOf w' k = { x with st := 1, armTag := x.tag, armDest := x.dest, parts := [], record := [] } ∧
      (∀ j, j ≠ k → cloveOf w' j = cloveOf s.w j) ∧ w'.regs = s.w.regs ∧ PowerFrame s.w w')) ∧
    (x.st = 1 → Completes .cloveClose s (fun w' =>
      cloveOf w' k = { x with st := 2, record := cloveRecord k x true } ∧ (∀ j, j ≠ k → cloveOf w' j = cloveOf s.w j) ∧
      (∃ m ∈ w'.irq.inbox, m.src = 0x026 ∧ m.ctx = x.ctx ∧ m.cookie = 5 * 2 ^ 57 + k) ∧
      (isMain x.armDest = true → x.armDest ≠ 0 → writesAlone s.w →
        listAt w'.mem.bytes x.armDest 96 = cloveRecord k x true) ∧ w'.fe = s.w.fe ∧ w'.cores = s.w.cores)) ∧
    Completes .cloveDisarm s (fun w' =>
      cloveOf w' k = { x with st := 0, parts := [], record := [] } ∧ (∀ j, j ≠ k → cloveOf w' j = cloveOf s.w j) ∧
      w'.regs = s.w.regs ∧ PowerFrame s.w w')) ∧
  (∀ (s : State) (mask : Nat) (freeze : Bool), configured s.w = true → s.w.dbg.star = none →
    Completes (.starBuild mask freeze) s (fun w' =>
      w'.dbg = { s.w.dbg with star := some ⟨mask % 2 ^ 16, freeze, (stampNow s.w).1,
        if freeze then some (starNodes s.w (mask % 2 ^ 16), starEdges s.w (mask % 2 ^ 16)) else none⟩ } ∧
      fld w' rDBG_STAR_STATUS 63 1 = 1 ∧ (∀ o, o ≠ rDBG_STAR_STATUS → rg w' o = rg s.w o) ∧ PowerFrame s.w w')) ∧
  (∀ (s : State) (r : StarRun), s.w.dbg.star = some r →
    let ns := (r.read.map (·.1)).getD (starNodes s.w r.mask)
    let es := (r.read.map (·.2)).getD (starEdges s.w r.mask)
    Completes .starchartBuildComplete s (fun w' =>
      w'.dbg = { s.w.dbg with star := none } ∧ fld w' rDBG_STAR_STATUS 63 1 = 0 ∧
      fld w' rDBG_STAR_STATUS 0 24 = ns.length % 2 ^ 24 ∧
      fld w' rDBG_STAR_STATUS 32 24 = es.length % 2 ^ 24 ∧
      (∃ m, w'.irq.inbox.getLast? = some m ∧ m.src = 0x026 ∧ m.ctx = 0xFFFFF ∧ m.cookie = 6 * 2 ^ 57) ∧
      (isMain (rg s.w rDBG_STAR_DEST) = true → writesAlone s.w →
        let rec_ := (starRecord r ns es (fld s.w rDBG_STAR_LEN 0 32)).1
        listAt w'.mem.bytes (rg s.w rDBG_STAR_DEST) rec_.length = rec_) ∧ w'.fe = s.w.fe ∧ w'.cores = s.w.cores))

/-- The management controller answers MCTP control, PLDM and SPDM requests once housekeeping is up: its endpoint, the
readings of its sensors, the module's identity, and an SPDM exchange that goes step by step, out of turn answered with an
error; a signed authorisation in a session moves the life cycle to RETURN (R459, R499). The codes and the layout within
an answer are the protocols' (log entries 87 and 88). -/
def Obligations.ManagementAnswersItsRequests : Prop :=
  (∀ (s : State), s.w.pins.awake = true →
    answeredWith s .getEndpointId 2 [0, BitVec.ofNat 8 s.w.pins.eid, 0, 0] ∧
    answeredWith s .getMessageTypeSupport 5 [0, 2, 1, 5] ∧ answeredWith s .getTid 0x102 [0, Config.tid] ∧
    answeredWith s .getPldmTypes 0x104 (0 :: natLe 0x15 8) ∧ answeredWith s .fruDataRequest 0x402 (fruData s.w) ∧
    (∀ t, answeredWith s (.getMctpVersionSupport t) 4 (0 :: Config.mgmtBytes 4 t) ∧
      answeredWith s (.getPldmVersion t) 0x103 (0 :: Config.mgmtBytes 0x103 t) ∧
      answeredWith s (.getPldmCommands t) 0x105 (pldmCommands t) ∧
      answeredWith s (.getSensorReading t) 0x211 (sensorReply t s.w) ∧
      answeredWith s (.pdrRepositoryRequest t) 0x251 (0 :: natLe 24 4 ++ Config.mgmtBytes 0x251 t))) ∧
  (∀ (s : State) (d : Nat), d < 4 →
    sensor s.w (6 + d) = some (fld s.w (rPWR_THROT d) 16 8)) ∧
  (∀ (s : State) (k : Nat), k < 12 → sensor s.w (10 + k) = some (fld s.w (rMEM_THERM_STACK k) 0 8)) ∧
  (∀ (s : State) (eid : Nat), s.w.pins.awake = true → eid % 256 ≠ 0 → eid % 256 ≠ 255 →
    Completes (.setEndpointId eid) s (fun w' =>
      w'.pins = { s.w.pins with eid := eid % 256 } ∧ w'.regs = s.w.regs ∧ PowerFrame s.w w')) ∧
  (∀ (s : State), s.w.pins.awake = true →
    exchanged s .getVersion 0x584 1 (Config.mgmtBytes 0x584 0) ∧
    (1 ≤ s.w.pins.spdm → exchanged s .getCapabilities 0x5E1 2 (Config.mgmtBytes 0x5E1 0)) ∧
    (2 ≤ s.w.pins.spdm → exchanged s .negotiateAlgorithms 0x5E3 3 (Config.mgmtBytes 0x5E3 0)) ∧
    (3 ≤ s.w.pins.spdm → answeredWith s .getDigests 0x581 (Config.mgmtBytes 0x581 0) ∧
      (∀ n, answeredWith s (.getCertificate n) 0x582 (Config.mgmtBytes 0x582 n) ∧
        answeredWith s (.challenge n) 0x583 (Config.mgmtBytes 0x583 n)) ∧
      answeredWith s (.getMeasurements 0) 0x5E0 [4] ∧
      (∀ n, n ≠ 0 → n ≠ 255 → answeredWith s (.getMeasurements n) 0x5E0 (BitVec.ofNat 8 n :: measurement s.w n)) ∧
      exchanged s .keyExchange 0x5E4 4 (Config.mgmtBytes 0x5E4 0)) ∧
    (4 ≤ s.w.pins.spdm → exchanged s .spdmFinish 0x5E5 5 (Config.mgmtBytes 0x5E5 0)) ∧
    (5 ≤ s.w.pins.spdm → exchanged s .endSession 0x5EC 3 (Config.mgmtBytes 0x5EC 0)) ∧
    (s.w.pins.spdm = 0 → answeredWith s .getCapabilities 0x5E1 [0x7F, 4] ∧ answeredWith s .keyExchange 0x5E4 [0x7F, 4])) ∧
  (∀ (s : State) (auth : List Byte), s.w.pins.awake = true → s.w.pins.spdm = 5 → fld s.w rRAS_LIFECYCLE 0 2 = 1 →
    Completes (.returnAuthorisation auth) s (fun w' =>
      (if Config.signed 2 auth then fld w' rRAS_LIFECYCLE 0 2 = 2 ∧ w'.pins = { s.w.pins with retn := true } else w' = s.w) ∧
      (∀ o, o ≠ rRAS_LIFECYCLE → rg w' o = rg s.w o) ∧ PowerFrame s.w w'))

namespace Sys2Proof.Machine

/-- The registers whose reset value is neither 0 nor loaded from fuses: their offsets, and the value (R7). An array is given by
its first offset, its number of registers, and their distance. -/
def resetValues : List (Nat × Nat × Nat × Nat) :=
  [(0x8, 1, 8, 0xFF007FFF), (0x18, 1, 8, 0x10000), (0x4000, 1, 8, 0x40010020), (0x5000, 512, 8, 0x200), (0x6008, 64, 0x40, 0x600),
   (0x100000, 1, 8, 0x8200400), (0x110008, 1024, 0x40, 0x6000000), (0x110020, 1024, 0x40, 0xFFFFFFFFFFFFFFFF),
   (0x120008, 64, 0x40, 0x600), (0x200080, 16, 8, 0x400064003E8), (0x201000, 1, 8, 1), (0x300000, 1, 8, 0xFFF),
   (0x300010, 1, 8, 0x10000248), (0x300018, 1, 8, 0xFA50), (0x300020, 1, 8, 9), (0x300028, 1, 8, 0xFFF0000),
   (0x300400, 1, 8, 0x500FFFFFF), (0x600028, 1, 8, 0xBB80064000003E8), (0x601000, 16, 0x80, 0x64000000000000),
   (0x700010, 1, 8, 0x4E4B), (0x700100, 20, 8, 0xF000), (0x700508, 1, 8, 0x2710000003E8), (0x700608, 1, 8, 0xFFFFFFFFFFFFFFFF),
   (0x701008, 20, 0x100, 0x600), (0x701048, 20, 0x100, 0x600), (0x900700, 1, 8, 0x1FFFFF), (0x900800, 1, 8, 0x500FFFFFF),
   (0x900808, 1, 8, 0x4FFFFFF), (0xA00020, 1, 8, 0x1000080E10), (0xB01008, 1, 8, 1)]

end Sys2Proof.Machine

/-- After reset every register has the value of its table's Reset column, those that fuses load apart, and an offset that is
in no line of `resetValues` reads 0; no core has a launch, no context, object, queue or message exists, and the device is
in phase POWER_UP with no image (R7, R32, R447). -/
def Obligations.ResetLeavesTheStatedValues : Prop :=
  (∀ r ∈ resetValues, ∀ i, i < r.2.1 → rg State.reset.w (r.1 + r.2.2.1 * i) = r.2.2.2) ∧
  (∀ o, o ≠ 0 → o ≠ 0x700020 → o ≠ 0x900810 → o ≠ 0xA00000 → o ≠ 0xA00008 →
    (∀ r ∈ resetValues, ∀ i, i < r.2.1 → o ≠ r.1 + r.2.2.1 * i) → rg State.reset.w o = 0) ∧
  State.reset.pending = [] ∧ (∀ n, (coreOf State.reset.w n).launch = none) ∧ State.reset.w.fe = Fe.reset ∧
    State.reset.w.mem = Mem.reset ∧ State.reset.w.irq.inbox = [] ∧ bootPhase State.reset.w = 0 ∧ llynState State.reset.w = 0

/-! ### The control complex's harts (chapter 10), inbound accesses and min_run -/

namespace Sys2Proof.Machine

/-- A hart that can execute, with nothing in its store buffer or its combining buffer. -/
def hartIdle (w : World) (h : Nat) : Prop := hartRuns w h = true ∧ (hartOf w h).sb = [] ∧ (hartOf w h).cb = []

/-- A hart is as before but for the mode its instruction says it is in. -/
def hartKept (w w' : World) (h : Nat) (mmode : Bool) : Prop :=
  hartOf w' h = { hartOf w h with mmode := mmode } ∧ ∀ k, k ≠ h → hartOf w' k = hartOf w k

/-- An access of `n` bytes to PMA main memory, aligned, that raises nothing (`kind` 0 a load, 1 a store). -/
def plainAccess (w : World) (h pa n pbmt kind : Nat) (mmode : Bool) : Prop :=
  (n = 4 ∨ n = 8) ∧ pa % n = 0 ∧ memType pa pbmt = 0 ∧ hartFault w h pa n pbmt kind mmode = none ∧ poisoned w pa n = false

/-- The hart holds a line M, and the 64 bytes it holds. -/
def holdsM (w : World) (h pa : Nat) (bs : List Byte) : Prop :=
  mget (hartOf w h).mLines (pa / 64) = some bs ∧ bs.length = 64

/-- The `n` bytes of a line at an address. -/
def lineBytes (bs : List Byte) (pa n : Nat) : List Byte := (bs.drop (pa % 64)).take n

/-- The line a hart holds M afterwards has the bytes `v` at an address, and every other byte of it as before. -/
def lineStored (w' : World) (h pa : Nat) (bs v : List Byte) : Prop :=
  mget (hartOf w' h).mLines (pa / 64) = some (bs.take (pa % 64) ++ v ++ bs.drop (pa % 64 + v.length))

/-- An instruction of a hart has ended: the operation, its result, its data. -/
def hartTold (w' : World) (h op res : Nat) (data : List Byte) : Prop := w'.outs.head? = some ⟨.hart, [h, op, res], data⟩

/-- A hart's step leaves registers, the front end, the cores and what memory holds at its home. -/
def HartFrame (w w' : World) : Prop := w'.fe = w.fe ∧ w'.cores = w.cores ∧ w'.mem = w.mem ∧ w'.regs = w.regs ∧ w'.irq = w.irq

/-- The other harts keep everything but S copies of a line and reservations on it. -/
def OtherHartsKeep (h : Nat) (w w' : World) : Prop :=
  ∀ k, k ≠ h → (hartOf w' k).mLines = (hartOf w k).mLines ∧ (hartOf w' k).sb = (hartOf w k).sb ∧
    (hartOf w' k).cb = (hartOf w k).cb ∧ (hartOf w' k).trap = (hartOf w k).trap

end Sys2Proof.Machine

/-- A hart's load takes its bytes from the line it holds, a store enters the store buffer and its line is asked for M, and
the buffer's head reaches the line; an AMO and an SC with a reservation change the line, and no other hart keeps an S copy; LR reserves; CBO.ZERO
clears a block, half a line, whose poison stays; an access that a check refuses raises its exception (R264 to R267, R271, R272, R274 to R278). -/
def Obligations.HartsLoadStoreAndReserve : Prop :=
  (∀ (s : State) (h pa n pbmt : Nat) (mmode : Bool) (bs : List Byte), hartIdle s.w h → plainAccess s.w h pa n pbmt 0 mmode →
    holdsM s.w h pa bs → waitsBehind s.w h (pa / 64) = false →
    Completes (.hartLoad h pa n pbmt mmode false) s (fun w' =>
      hartTold w' h 0 0 (lineBytes bs pa n) ∧ hartKept s.w w' h mmode ∧ HartFrame s.w w')) ∧
  (∀ (s : State) (h pa n pbmt c : Nat) (mmode fetch : Bool), hartRuns s.w h = true → hartSize pa n = true →
    hartFault s.w h pa n pbmt (if fetch then 2 else 0) mmode = some c →
    Completes (.hartLoad h pa n pbmt mmode fetch) s (fun w' =>
      hartTold w' h 0 (1 + c) [] ∧ hartOf w' h = { hartOf s.w h with trap := some c, mmode := mmode } ∧ HartFrame s.w w')) ∧
  (∀ (s : State) (h pa n pbmt v : Nat) (mmode : Bool), hartRuns s.w h = true → plainAccess s.w h pa n pbmt 1 mmode →
    (hartOf s.w h).sb.length < 32 →
    Completes (.hartStore h pa n v pbmt false mmode) s (fun w' =>
      hartTold w' h 1 0 [] ∧ (hartOf w' h).stores = (hartOf s.w h).stores + 1 ∧ (hartOf w' h).sb =
        (hartOf s.w h).sb ++ [{ addr := pa, size := n, data := v % 2 ^ (8 * n), io := false, seq := (hartOf s.w h).stores }] ∧
      (hartOf w' h).cb = (hartOf s.w h).cb ∧ w'.fe = s.w.fe ∧ w'.cores = s.w.cores ∧ w'.irq = s.w.irq ∧
      (let held := heldByOther s.w h (pa / 64) = true
       let owned := (mget (hartOf s.w h).mLines (pa / 64)).isSome = true
       (¬ held → (mget (hartOf w' h).mLines (pa / 64)).isSome = true) ∧
       (held ∨ owned → (hartOf w' h).mLines = (hartOf s.w h).mLines ∧ (∀ k, k ≠ h → hartOf w' k = hartOf s.w k) ∧
         w'.mem = s.w.mem ∧ w'.regs = s.w.regs) ∧
       (∀ a, memoryAlone s.w → byteAt w'.mem.bytes a = byteAt s.w.mem.bytes a)))) ∧
  (∀ (s : State) (h pa n pbmt c v : Nat) (ntl mmode : Bool), hartRuns s.w h = true → hartSize pa n = true →
    hartFault s.w h pa n pbmt 1 mmode = some c →
    Completes (.hartStore h pa n v pbmt ntl mmode) s (fun w' =>
      hartTold w' h 1 (1 + c) [] ∧ hartOf w' h = { hartOf s.w h with trap := some c, mmode := mmode } ∧ HartFrame s.w w')) ∧
  (∀ (s : State) (h : Nat) (e : StoreEnt) (t : List StoreEnt) (bs : List Byte), (hartOf s.w h).sb = e :: t → e.io = false →
    (hartOf s.w h).cb.any (cbOverlaps e.addr e.size) = false → heldByOther s.w h (e.addr / 64) = false → holdsM s.w h e.addr bs →
    Completes (.storeBufferDrain h) s (fun w' =>
      (hartOf w' h).sb = t ∧ lineStored w' h e.addr bs (natLe e.data e.size) ∧
      (∀ k, k ≠ h → e.addr / 64 ∉ (hartOf w' k).sLines ∧ ∀ r, (hartOf w' k).resv = some r → r.granule ≠ e.addr / 64) ∧
      OtherHartsKeep h s.w w' ∧ HartFrame s.w w')) ∧
  (∀ (s : State) (h block : Nat) (e : CombEnt), (hartOf s.w h).cb.find? (·.block = block) = some e →
    256 ≤ 3 * (s.w.now - e.last) → heldByOther s.w h block = false → s.w.mem.later = [] → isMain (block / 2 * 128) = true → e.data.length = 64 →
    e.mask < 2 ^ 64 →
    Completes (.combiningIdleTimeout h block) s (fun w' =>
      (∀ d ∈ (hartOf w' h).cb, d.block ≠ block) ∧
      (∀ i, i < 64 → bit e.mask i = true → byteAt w'.mem.bytes (64 * block + i) = e.data.getD i 0) ∧
      (hartOf w' h).resv = (hartOf s.w h).resv ∧ w'.fe = s.w.fe ∧ w'.cores = s.w.cores)) ∧
  (∀ (s : State) (h pa op n v cmp pbmt : Nat) (rl mmode : Bool) (bs : List Byte), hartIdle s.w h →
    plainAccess s.w h pa n pbmt 1 mmode → op ≤ 9 → holdsM s.w h pa bs → heldByOther s.w h (pa / 64) = false →
    let old := lineBytes bs pa n
    Completes (.hartAmo h pa op n v cmp pbmt rl mmode) s (fun w' =>
      hartTold w' h 2 0 old ∧ lineStored w' h pa bs (natLe (amoNew op n (leNat old) v cmp) n) ∧ OtherHartsKeep h s.w w' ∧
      HartFrame s.w w')) ∧
  (∀ (s : State) (h pa n pbmt : Nat) (rl mmode : Bool) (bs : List Byte), hartIdle s.w h → plainAccess s.w h pa n pbmt 0 mmode →
    holdsM s.w h pa bs → s.w.mem.later = [] →
    Completes (.lr h pa n pbmt rl mmode) s (fun w' =>
      hartTold w' h 3 0 (lineBytes bs pa n) ∧ hartOf w' h = { hartOf s.w h with
        resv := some ⟨pa / 64, s.w.now, false⟩, mmode := mmode } ∧
      (∀ k, k ≠ h → hartOf w' k = hartOf s.w k) ∧ HartFrame s.w w')) ∧
  (∀ (s : State) (h pa n v pbmt : Nat) (rl mmode : Bool), hartIdle s.w h → plainAccess s.w h pa n pbmt 1 mmode →
    s.w.mem.later = [] →
    (∀ r bs, (hartOf s.w h).resv = some r → r.granule = pa / 64 → holdsM s.w h pa bs → heldByOther s.w h (pa / 64) = false →
      Completes (.sc h pa n v pbmt rl mmode) s (fun w' =>
        hartTold w' h 4 0 [0] ∧ lineStored w' h pa bs (natLe v n) ∧ (hartOf w' h).resv = none ∧ OtherHartsKeep h s.w w' ∧
        HartFrame s.w w')) ∧
    ((∀ r, (hartOf s.w h).resv = some r → r.granule ≠ pa / 64) →
      Completes (.sc h pa n v pbmt rl mmode) s (fun w' =>
        hartTold w' h 4 0 [1] ∧ hartOf w' h = { hartOf s.w h with resv := none, mmode := mmode } ∧ HartFrame s.w w'))) ∧
  (∀ (s : State) (h pa pbmt : Nat) (mmode : Bool) (bs : List Byte), hartIdle s.w h → memType (pa / 64 * 64) pbmt = 0 →
    hartFault s.w h (pa / 64 * 64) 1 pbmt 1 mmode = none → holdsM s.w h pa bs → heldByOther s.w h (pa / 64) = false →
    Completes (.cboZero h pa pbmt mmode) s (fun w' =>
      hartTold w' h 5 0 [] ∧ mget (hartOf w' h).mLines (pa / 64) = some (List.replicate 64 0) ∧
      (hartOf w' h).resv = (hartOf s.w h).resv ∧ HartFrame s.w w' ∧ OtherHartsKeep h s.w w'))

/-- Fences complete once the stores before them have left; WRS waits on a reservation unless an interrupt enabled locally is
pending, and ends by time-out; a trap drains the buffers, ends the reservation and claims an external interrupt's
identity; a stopping hart writes its lines back; mtip follows mtimecmp, stip the Sstc comparator; a reservation holds a
recall off for 64 cycles, after which the write it held takes place (R266, R273, R275, R279, R280, R282, R284, R286). The external host reads and writes main
memory over PCIe (R269); a request the network does not support is NAKed (R402); a launch that has run for min_run_us
is pre-empted for one of higher priority (R354). -/
def Obligations.HartsWaitTrapAndStop : Prop :=
  (∀ (s : State) (h pred succ : Nat), hartIdle s.w h → ioOut s.w h = false →
    Completes (.fence h pred succ) s (fun w' => hartTold w' h 5 0 [] ∧ w'.harts = s.w.harts ∧ HartFrame s.w w') ∧
    Completes (.fenceI h) s (fun w' => hartTold w' h 5 0 [] ∧ w'.harts = s.w.harts ∧ HartFrame s.w w')) ∧
  (∀ (s : State) (h : Nat), hartRuns s.w h = true → (hartOf s.w h).resv ≠ none →
    ∀ c ∈ [(Instr.wrsNto h, none), (Instr.wrsSto h, some s.w.now)], Completes c.1 s (fun w' =>
      (∃ b g, hartOf w' h = { hartOf s.w h with stip := b, vstip := g, run := if irqPending w' h then .running else .wrs c.2 }) ∧
      (irqPending w' h = true → hartTold w' h 5 0 []) ∧ (∀ k, k ≠ h → hartOf w' k = hartOf s.w k) ∧ HartFrame s.w w')) ∧
  (∀ (s : State) (h : Nat), hartRuns s.w h = true → (hartOf s.w h).resv = none →
    ∀ c ∈ [Instr.wrsNto h, Instr.wrsSto h], Completes c s (fun w' =>
      hartTold w' h 5 0 [] ∧ (∃ b g, hartOf w' h = { hartOf s.w h with stip := b, vstip := g }) ∧
      (∀ k, k ≠ h → hartOf w' k = hartOf s.w k) ∧ HartFrame s.w w')) ∧
  (∀ (s : State) (h t : Nat), (hartOf s.w h).run = .wrs (some t) → t + 1000 ≤ s.w.now →
    Completes (.wrsTimeout h) s (fun w' => hartOf w' h = { hartOf s.w h with run := .running } ∧ HartFrame s.w w')) ∧
  (∀ (s : State) (h : Nat) (r : Resv), h < 32 → (hartOf s.w h).resv = some r → s.w.mem.later = [] →
    Completes (.reservationHoldExpiry h) s (fun w' =>
      hartOf w' h = { hartOf s.w h with resv := some (if 64 ≤ 3 * (s.w.now - r.since) then { r with free := true } else r) } ∧
      HartFrame s.w w')) ∧
  (∀ (s : State) (h : Nat) (r : Resv) (x : LaterWrite), h < 32 → (hartOf s.w h).resv = some r → r.granule = x.pa / 64 →
    64 ≤ 3 * (s.w.now - r.since) → s.w.mem.later = [x] → (s.w.harts.hart.map (·.1)).Nodup →
    heldByOther s.w h (x.pa / 64) = false →
    Completes (.reservationHoldExpiry h) s (fun w' =>
      w'.mem.later = [] ∧ listAt w'.mem.bytes x.pa x.data.length = x.data ∧
      (∀ q, (hartOf w' h).resv = some q → (granules x.pa x.data.length).contains q.granule = false) ∧
      w'.fe = s.w.fe ∧ w'.cores = s.w.cores)) ∧
  (∀ (s : State) (h cause : Nat), h < 32 → (hartOf s.w h).run = .running ∨ (∃ t, (hartOf s.w h).run = .wrs t) →
    domState s.w (128 + h / 4) = 2 →
    ((hartOf s.w h).trap = none ∨ (hartOf s.w h).trap = some cause) → (hartOf s.w h).sb = [] → (hartOf s.w h).cb = [] →
    ioOut s.w h = false → s.w.mem.later = [] →
    Completes (.hartTrapEntry h cause) s (fun w' =>
      hartTold w' h 6 0 (natLe cause 8) ∧ hartOf w' h = { hartOf s.w h with run := .running, trap := none, resv := none, mmode := true } ∧
      (∀ k, k ≠ h → hartOf w' k = hartOf s.w k) ∧
      w'.irq = (match causeFile s.w h cause with
        | some f => { s.w.irq with imsic := mupd s.w.irq.imsic (8 * h + f) (·.drop 1) }
        | none => s.w.irq) ∧
      w'.fe = s.w.fe ∧ w'.cores = s.w.cores ∧ w'.mem = s.w.mem ∧ w'.regs = s.w.regs)) ∧
  (∀ (s : State) (h : Nat), h < 32 → (hartOf s.w h).run = .stopping → (hartOf s.w h).sb = [] → (hartOf s.w h).cb = [] →
    ioOut s.w h = false → s.w.mem.later = [] → (∀ l bs, mget (hartOf s.w h).mLines l = some bs → bs.length = 64) →
    Completes (.hartPowerdownAck h) s (fun w' =>
      (hartOf w' h).run = .stopped ∧ (hartOf w' h).sLines = [] ∧ (hartOf w' h).resv = none ∧
      (∀ l, mget (hartOf w' h).mLines l = none) ∧
      (∀ l bs, mget (hartOf s.w h).mLines l = some bs → listAt w'.mem.bytes (64 * l) 64 = bs) ∧
      (∀ k, k ≠ h → hartOf w' k = hartOf s.w k) ∧ w'.fe = s.w.fe ∧ w'.cores = s.w.cores)) ∧
  (∀ (s : State) (h : Nat), h < 32 →
    Completes (.machineTimer h) s (fun w' =>
      (hartOf w' h).mtip = decide (mgetD s.w.harts.mtimecmp h 0 ≤ mtime s.w) ∧
      (hartOf w' h).stip = decide (mgetD s.w.harts.stimecmp h 0 ≤ mtime s.w) ∧ (hartOf w' h).vstip = (sstcDue s.w h).2 ∧
      (let due := (mgetD s.w.harts.mtimecmp h 0 ≤ mtime s.w ∧ bit (csrsOf s.w h).mie 7 = true) ∨
        (mgetD s.w.harts.stimecmp h 0 ≤ mtime s.w ∧ bit (csrsOf s.w h).mie 5 = true) ∨
        ((sstcDue s.w h).2 = true ∧ bit (csrsOf s.w h).mie 6 = true)
       (∀ t, (hartOf s.w h).run = .wrs t → due → (hartOf w' h).run = .running) ∧
       (¬ due → (hartOf w' h).run = (hartOf s.w h).run)) ∧
      (∀ k, k ≠ h → hartOf w' k = hartOf s.w k) ∧ HartFrame s.w w')) ∧
  (∀ (s : State) (pa n tag : Nat) (data : List Byte), memoryAlone s.w →
    (writesAlone s.w → pcieReaches s.w pa data.length = true → Completes (.pcieInboundAccess pa n tag true data) s (fun w' =>
      listAt w'.mem.bytes pa data.length = data ∧
      (∀ a, (a < pa ∨ pa + data.length ≤ a) → byteAt w'.mem.bytes a = byteAt s.w.mem.bytes a) ∧
      poisoned w' pa data.length = ((linesOf pa data.length).any (fun l =>
        s.w.mem.poison.contains (l / 128) && !(decide (pa ≤ l) && decide (l + 128 ≤ pa + data.length)))) ∧
      w'.fe = s.w.fe ∧ w'.cores = s.w.cores)) ∧
    (pcieReaches s.w pa n = true → poisoned s.w pa n = false → Completes (.pcieInboundAccess pa n tag false data) s (fun w' =>
      w'.outs.head? = some ⟨.pcie, [tag, 0], listAt s.w.mem.bytes pa n⟩ ∧ w'.mem.bytes = s.w.mem.bytes ∧
      w'.mem.poison = s.w.mem.poison ∧ w'.fe = s.w.fe ∧ w'.cores = s.w.cores))) ∧
  (∀ (s : State) (i psn bytes a : Nat) (c : Conn), connHears s.w i = some c → i ≠ twinConn → nodeAddr s.w c.peer = some a →
    Completes (.unsupportedRequest (qpn i) psn bytes false) s (fun w' =>
      (∃ own, w'.outs.head? = some ⟨.packet, [cPort c, c.peer, a + cPort c * 2 ^ 120] ++ own ++
        [4791, Config.roceSource i, bits c.cfg 30 6, bits c.cfg 0 24, 0x12, psn], []⟩) ∧
      connOf w' i = some c ∧ w'.mem = s.w.mem ∧ w'.fe = s.w.fe)) ∧
  (∀ (s : State) (p : Nat) (l : Launch), feHeld s.w = false → mget s.w.fe.launches p = some l → l.stop = none →
    stepOfWork s.w l.work = none → p ∉ s.w.sched.preempt → (savedOf s.w p).length < saveSlots s.w p →
    l.started + 1000 * fld s.w (rSCHED_PART_POL p) 20 20 ≤ s.w.now →
    (∃ c ∈ cands s.w p, queuePrio s.w (l.work / 8192) < queuePrio s.w c.q) →
    Completes (.minRunElapsed p) s (fun w' =>
      p ∈ w'.sched.preempt ∧ (∀ k ∈ s.w.sched.preempt, k ∈ w'.sched.preempt) ∧ w'.fe = s.w.fe ∧ w'.mem = s.w.mem ∧
      w'.regs = s.w.regs))
/-! ### The block as a machine: its queue, its time, its reset, its memory -/

/-- A step runs the command at the front of the queue, on the state with the queue's rest. -/
def Obligations.StepRunsTheFrontCommand : Prop :=
  ∀ (c : Instr) (s : State), step { s with pending := c :: s.pending } = exec c s

/-- With no command waiting, a step is one nanosecond: time and the frame time base go on and, where no trip is due, nothing
else changes. The model's own choice (log entry 1); the frame time base's advance is R369. -/
def Obligations.EmptyQueueLetsTimePass : Prop :=
  ∀ (s : State), s.pending = [] → s.w.pins.tripAt = none →
    step s = .next { s with w := { s.w with now := s.w.now + 1, ftb := { s.w.ftb with
      acc := if ftbState s.w = 0 then s.w.ftb.acc else s.w.ftb.acc + ftbInc s.w } } }

/-- Commands run first in, first out: whatever a step does, exactly the command at the front leaves the queue and none
enters it, and no step stops in a fault or a refusal. -/
def Obligations.CommandsRunFirstInFirstOut : Prop :=
  ∀ (s : State), ∃ t, step s = .next t ∧ t.pending = s.pending.tail

namespace Sys2Proof.Machine

/-- The memories of the block keep their canonical form: main memory, and the external host's. -/
def MemoriesCanonical (w : World) : Prop :=
  Memory.wf w.mem.bytes = true ∧ Memory.wf w.mem.host = true

end Sys2Proof.Machine

/-- Every step of the block keeps memory in its canonical form: addresses strictly rising, no byte listed that reads 0, so
that memories that read alike are equal data. -/
def Obligations.EveryStepKeepsMemoryCanonical : Prop :=
  ∀ (s t : State), MemoriesCanonical s.w → step s = .next t → MemoriesCanonical t.w

/-- Memory is canonical at reset. -/
def Obligations.ResetMemoryIsCanonical : Prop := MemoriesCanonical State.reset.w
end

