-- ==== Sys2Proof/Laws/Maps.lean ====
section
/-!
SUPPORT. Reading after writing in sparse maps, and the canonical form of memory kept by every write of it.
-/
namespace Sys2Proof.Machine

variable {α : Type}

@[simp] theorem mget_mset_same (m : Map α) (k : Nat) (v : α) : mget (mset m k v) k = some v := by
  induction m with
  | nil => simp [mset, mget]
  | cons p t ih =>
    obtain ⟨a, b⟩ := p
    simp only [mset]
    split
    · simp [mget]
    · split
      · simp [mget]
      · simp [mget, *]

theorem mget_mset_ne (m : Map α) {j k : Nat} (v : α) (h : j ≠ k) : mget (mset m k v) j = mget m j := by
  induction m with
  | nil => simp [mset, mget, h]
  | cons p t ih =>
    obtain ⟨a, b⟩ := p
    simp only [mset]
    split
    · simp [mget, h]
    · split
      · rename_i h2; subst h2; simp [mget, h]
      · simp [mget, ih]

@[simp] theorem mget_mdel_same (m : Map α) (k : Nat) : mget (mdel m k) k = none := by
  induction m with
  | nil => rfl
  | cons p t ih =>
    obtain ⟨a, b⟩ := p
    simp only [mdel]
    split
    · exact ih
    · simp [mget, *]

theorem mget_mdel_ne (m : Map α) {j k : Nat} (h : j ≠ k) : mget (mdel m k) j = mget m j := by
  induction m with
  | nil => rfl
  | cons p t ih =>
    obtain ⟨a, b⟩ := p
    simp only [mdel]
    split
    · rename_i h2; subst h2; simp [mget, h, ih]
    · simp [mget, ih]

@[simp] theorem mget_mupd_same (m : Map α) (k : Nat) (f : α → α) : mget (mupd m k f) k = (mget m k).map f := by
  induction m with
  | nil => rfl
  | cons p t ih =>
    obtain ⟨a, b⟩ := p
    simp only [mupd]
    split
    · simp [mget, *]
    · simp [mget, *]

theorem mget_mupd_ne (m : Map α) {j k : Nat} (f : α → α) (h : j ≠ k) : mget (mupd m k f) j = mget m j := by
  induction m with
  | nil => rfl
  | cons p t ih =>
    obtain ⟨a, b⟩ := p
    simp only [mupd]
    split
    · rename_i h2; subst h2; simp [mget, h]
    · simp [mget, ih]

@[simp] theorem mgetD_mset_same (m : Map α) (k : Nat) (v d : α) : mgetD (mset m k v) k d = v := by simp [mgetD]

theorem mgetD_mset_ne (m : Map α) {j k : Nat} (v d : α) (h : j ≠ k) : mgetD (mset m k v) j d = mgetD m j d := by
  simp [mgetD, mget_mset_ne m v h]

/-! ### Bytes -/

@[simp] theorem byteAt_byteSet_same (m : Map Byte) (a : Nat) (b : Byte) : byteAt (byteSet m a b) a = b := by
  unfold byteAt byteSet mgetD
  split <;> simp_all

theorem byteAt_byteSet_ne (m : Map Byte) {a a' : Nat} (b : Byte) (h : a' ≠ a) :
    byteAt (byteSet m a b) a' = byteAt m a' := by
  unfold byteAt byteSet mgetD
  split
  · rw [mget_mdel_ne m h]
  · rw [mget_mset_ne m b h]

/-- A list of bytes written reads back, and every other byte is as before. -/
theorem byteAt_listSet (bs : List Byte) : ∀ (m : Map Byte) (a x : Nat),
    byteAt (listSet m a bs) x = if a ≤ x ∧ x < a + bs.length then bs.getD (x - a) 0 else byteAt m x := by
  induction bs with
  | nil =>
    intro m a x
    rw [if_neg (by simp only [List.length_nil]; omega), listSet]
  | cons b t ih =>
    intro m a x
    rw [listSet, ih]
    rcases Nat.lt_trichotomy x a with h | h | h
    · rw [if_neg (by omega), if_neg (by omega), byteAt_byteSet_ne m b (by omega)]
    · subst h
      rw [if_neg (by omega), if_pos (by simp), byteAt_byteSet_same]
      simp
    · by_cases h2 : x < a + 1 + t.length
      · rw [if_pos (by omega), if_pos (by simp; omega)]
        have : x - a = (x - (a + 1)) + 1 := by omega
        rw [this]; simp
      · rw [if_neg (by omega), if_neg (by simp; omega), byteAt_byteSet_ne m b (by omega)]

/-! ### The canonical form -/

theorem memCanon_weaken {lo lo' : Nat} : ∀ {m : Map Byte}, memCanon lo m = true → lo' ≤ lo → memCanon lo' m = true
  | [], _, _ => rfl
  | (a, b) :: t, h, hle => by
    simp only [memCanon, Bool.and_eq_true, decide_eq_true_eq] at h ⊢
    exact ⟨⟨by omega, h.1.2⟩, h.2⟩

theorem memCanon_mset {lo k : Nat} {v : Byte} (hv : v ≠ 0) : ∀ {m : Map Byte}, memCanon lo m = true → lo ≤ k →
    memCanon lo (mset m k v) = true := by
  intro m
  induction m generalizing lo with
  | nil => intro _ hk; simpa [mset, memCanon, hk] using hv
  | cons p t ih =>
    obtain ⟨a, b⟩ := p
    intro h hk
    simp only [memCanon, Bool.and_eq_true, decide_eq_true_eq] at h
    simp only [mset]
    split
    · simp only [memCanon, Bool.and_eq_true, decide_eq_true_eq]
      exact ⟨⟨hk, hv⟩, ⟨⟨by omega, h.1.2⟩, h.2⟩⟩
    · split
      · rename_i h2; subst h2
        simp only [memCanon, Bool.and_eq_true, decide_eq_true_eq]
        exact ⟨⟨hk, hv⟩, h.2⟩
      · simp only [memCanon, Bool.and_eq_true, decide_eq_true_eq]
        exact ⟨⟨h.1.1, h.1.2⟩, ih h.2 (by omega)⟩

theorem memCanon_mdel {lo k : Nat} : ∀ {m : Map Byte}, memCanon lo m = true → memCanon lo (mdel m k) = true := by
  intro m
  induction m generalizing lo with
  | nil => intro h; exact h
  | cons p t ih =>
    obtain ⟨a, b⟩ := p
    intro h
    simp only [memCanon, Bool.and_eq_true, decide_eq_true_eq] at h
    simp only [mdel]
    split
    · exact memCanon_weaken (ih h.2) (by omega)
    · simp only [memCanon, Bool.and_eq_true, decide_eq_true_eq]
      exact ⟨⟨h.1.1, h.1.2⟩, ih h.2⟩

/-- Writing one byte keeps the canonical form. -/
theorem memCanon_byteSet {m : Map Byte} (a : Nat) (b : Byte) (h : memCanon 0 m = true) :
    memCanon 0 (byteSet m a b) = true := by
  unfold byteSet
  split
  · exact memCanon_mdel h
  · rename_i hb; exact memCanon_mset hb h (Nat.zero_le _)

/-- Writing a number's bytes keeps the canonical form. -/
theorem memCanon_bytesSet (n : Nat) : ∀ {m : Map Byte} (a v : Nat), memCanon 0 m = true →
    memCanon 0 (bytesSet m a v n) = true := by
  induction n with
  | zero => intro m a v h; exact h
  | succ n ih => intro m a v h; exact ih _ _ (memCanon_byteSet _ _ h)

/-- Writing a list of bytes keeps the canonical form. -/
theorem memCanon_listSet (bs : List Byte) : ∀ {m : Map Byte} (a : Nat), memCanon 0 m = true →
    memCanon 0 (listSet m a bs) = true := by
  induction bs with
  | nil => intro m a h; exact h
  | cons b t ih => intro m a h; exact ih _ (memCanon_byteSet _ _ h)

/-- A masked write keeps the canonical form. -/
theorem memCanon_maskSet (bs : List Byte) : ∀ {m : Map Byte} (a k : Nat), memCanon 0 m = true →
    memCanon 0 (maskSet m a k bs) = true := by
  induction bs with
  | nil => intro m a k h; exact h
  | cons b t ih =>
    intro m a k h
    refine ih _ _ ?_
    split
    · exact memCanon_byteSet _ _ h
    · exact h

end Sys2Proof.Machine
end

