-- ==== Sys2Proof/Laws/State.lean ====
section
/-!
SUPPORT. What each small update of the block leaves as it was, field by field, and what it writes, so that no later
proof unfolds an update of the state.
-/
namespace Sys2Proof.Machine

variable (w : World)

/-! freeUsed -/

@[simp] theorem freeUsed_now : (freeUsed w).now = w.now := rfl
@[simp] theorem freeUsed_regs : (freeUsed w).regs = w.regs := rfl
@[simp] theorem freeUsed_irq : (freeUsed w).irq = w.irq := rfl
@[simp] theorem freeUsed_mem : (freeUsed w).mem = w.mem := rfl
@[simp] theorem freeUsed_cores : (freeUsed w).cores = w.cores := rfl
@[simp] theorem freeUsed_fe : (freeUsed w).fe = w.fe := rfl
@[simp] theorem freeUsed_sched : (freeUsed w).sched = w.sched := rfl
@[simp] theorem freeUsed_harts : (freeUsed w).harts = w.harts := rfl
@[simp] theorem freeUsed_ftb : (freeUsed w).ftb = w.ftb := rfl
@[simp] theorem freeUsed_log : (freeUsed w).log = w.log := rfl
@[simp] theorem freeUsed_outs : (freeUsed w).outs = w.outs := rfl
@[simp] theorem freeUsed_cas : (freeUsed w).cas = w.cas := rfl
@[simp] theorem freeUsed_saf : (freeUsed w).saf = w.saf := rfl
@[simp] theorem freeUsed_nbgs : (freeUsed w).nbgs = w.nbgs := rfl
@[simp] theorem freeUsed_dbg : (freeUsed w).dbg = w.dbg := rfl
@[simp] theorem freeUsed_ras : (freeUsed w).ras = w.ras := rfl
@[simp] theorem freeUsed_net : (freeUsed w).net = w.net := rfl
@[simp] theorem freeUsed_pwr : (freeUsed w).pwr = w.pwr := rfl
@[simp] theorem freeUsed_boot : (freeUsed w).boot = w.boot := rfl
@[simp] theorem freeUsed_pins : (freeUsed w).pins = w.pins := rfl
@[simp] theorem freeUsed_d2d : (freeUsed w).d2d = w.d2d := rfl
@[simp] theorem freeUsed_flits : (freeUsed w).flits = w.flits := rfl

/-! emit -/

@[simp] theorem emit_now (k : OutKind) (ns : List Nat) (bs : List Byte) : (emit k ns bs w).now = w.now := rfl
@[simp] theorem emit_freeIdx (k : OutKind) (ns : List Nat) (bs : List Byte) : (emit k ns bs w).freeIdx = w.freeIdx := rfl
@[simp] theorem emit_regs (k : OutKind) (ns : List Nat) (bs : List Byte) : (emit k ns bs w).regs = w.regs := rfl
@[simp] theorem emit_irq (k : OutKind) (ns : List Nat) (bs : List Byte) : (emit k ns bs w).irq = w.irq := rfl
@[simp] theorem emit_mem (k : OutKind) (ns : List Nat) (bs : List Byte) : (emit k ns bs w).mem = w.mem := rfl
@[simp] theorem emit_cores (k : OutKind) (ns : List Nat) (bs : List Byte) : (emit k ns bs w).cores = w.cores := rfl
@[simp] theorem emit_fe (k : OutKind) (ns : List Nat) (bs : List Byte) : (emit k ns bs w).fe = w.fe := rfl
@[simp] theorem emit_sched (k : OutKind) (ns : List Nat) (bs : List Byte) : (emit k ns bs w).sched = w.sched := rfl
@[simp] theorem emit_harts (k : OutKind) (ns : List Nat) (bs : List Byte) : (emit k ns bs w).harts = w.harts := rfl
@[simp] theorem emit_ftb (k : OutKind) (ns : List Nat) (bs : List Byte) : (emit k ns bs w).ftb = w.ftb := rfl
@[simp] theorem emit_log (k : OutKind) (ns : List Nat) (bs : List Byte) : (emit k ns bs w).log = w.log := rfl
@[simp] theorem emit_cas (k : OutKind) (ns : List Nat) (bs : List Byte) : (emit k ns bs w).cas = w.cas := rfl
@[simp] theorem emit_saf (k : OutKind) (ns : List Nat) (bs : List Byte) : (emit k ns bs w).saf = w.saf := rfl
@[simp] theorem emit_nbgs (k : OutKind) (ns : List Nat) (bs : List Byte) : (emit k ns bs w).nbgs = w.nbgs := rfl
@[simp] theorem emit_dbg (k : OutKind) (ns : List Nat) (bs : List Byte) : (emit k ns bs w).dbg = w.dbg := rfl
@[simp] theorem emit_ras (k : OutKind) (ns : List Nat) (bs : List Byte) : (emit k ns bs w).ras = w.ras := rfl
@[simp] theorem emit_net (k : OutKind) (ns : List Nat) (bs : List Byte) : (emit k ns bs w).net = w.net := rfl
@[simp] theorem emit_pwr (k : OutKind) (ns : List Nat) (bs : List Byte) : (emit k ns bs w).pwr = w.pwr := rfl
@[simp] theorem emit_boot (k : OutKind) (ns : List Nat) (bs : List Byte) : (emit k ns bs w).boot = w.boot := rfl
@[simp] theorem emit_pins (k : OutKind) (ns : List Nat) (bs : List Byte) : (emit k ns bs w).pins = w.pins := rfl
@[simp] theorem emit_d2d (k : OutKind) (ns : List Nat) (bs : List Byte) : (emit k ns bs w).d2d = w.d2d := rfl
@[simp] theorem emit_flits (k : OutKind) (ns : List Nat) (bs : List Byte) : (emit k ns bs w).flits = w.flits := rfl

/-! rgSet -/

@[simp] theorem rgSet_now (o v : Nat) : (rgSet w o v).now = w.now := rfl
@[simp] theorem rgSet_freeIdx (o v : Nat) : (rgSet w o v).freeIdx = w.freeIdx := rfl
@[simp] theorem rgSet_irq (o v : Nat) : (rgSet w o v).irq = w.irq := rfl
@[simp] theorem rgSet_mem (o v : Nat) : (rgSet w o v).mem = w.mem := rfl
@[simp] theorem rgSet_cores (o v : Nat) : (rgSet w o v).cores = w.cores := rfl
@[simp] theorem rgSet_fe (o v : Nat) : (rgSet w o v).fe = w.fe := rfl
@[simp] theorem rgSet_sched (o v : Nat) : (rgSet w o v).sched = w.sched := rfl
@[simp] theorem rgSet_harts (o v : Nat) : (rgSet w o v).harts = w.harts := rfl
@[simp] theorem rgSet_ftb (o v : Nat) : (rgSet w o v).ftb = w.ftb := rfl
@[simp] theorem rgSet_log (o v : Nat) : (rgSet w o v).log = w.log := rfl
@[simp] theorem rgSet_outs (o v : Nat) : (rgSet w o v).outs = w.outs := rfl
@[simp] theorem rgSet_cas (o v : Nat) : (rgSet w o v).cas = w.cas := rfl
@[simp] theorem rgSet_saf (o v : Nat) : (rgSet w o v).saf = w.saf := rfl
@[simp] theorem rgSet_nbgs (o v : Nat) : (rgSet w o v).nbgs = w.nbgs := rfl
@[simp] theorem rgSet_dbg (o v : Nat) : (rgSet w o v).dbg = w.dbg := rfl
@[simp] theorem rgSet_ras (o v : Nat) : (rgSet w o v).ras = w.ras := rfl
@[simp] theorem rgSet_net (o v : Nat) : (rgSet w o v).net = w.net := rfl
@[simp] theorem rgSet_pwr (o v : Nat) : (rgSet w o v).pwr = w.pwr := rfl
@[simp] theorem rgSet_boot (o v : Nat) : (rgSet w o v).boot = w.boot := rfl
@[simp] theorem rgSet_pins (o v : Nat) : (rgSet w o v).pins = w.pins := rfl
@[simp] theorem rgSet_d2d (o v : Nat) : (rgSet w o v).d2d = w.d2d := rfl
@[simp] theorem rgSet_flits (o v : Nat) : (rgSet w o v).flits = w.flits := rfl

/-! fldSet -/

@[simp] theorem fldSet_now (o l n v : Nat) : (fldSet w o l n v).now = w.now := rfl
@[simp] theorem fldSet_freeIdx (o l n v : Nat) : (fldSet w o l n v).freeIdx = w.freeIdx := rfl
@[simp] theorem fldSet_irq (o l n v : Nat) : (fldSet w o l n v).irq = w.irq := rfl
@[simp] theorem fldSet_mem (o l n v : Nat) : (fldSet w o l n v).mem = w.mem := rfl
@[simp] theorem fldSet_cores (o l n v : Nat) : (fldSet w o l n v).cores = w.cores := rfl
@[simp] theorem fldSet_fe (o l n v : Nat) : (fldSet w o l n v).fe = w.fe := rfl
@[simp] theorem fldSet_sched (o l n v : Nat) : (fldSet w o l n v).sched = w.sched := rfl
@[simp] theorem fldSet_harts (o l n v : Nat) : (fldSet w o l n v).harts = w.harts := rfl
@[simp] theorem fldSet_ftb (o l n v : Nat) : (fldSet w o l n v).ftb = w.ftb := rfl
@[simp] theorem fldSet_log (o l n v : Nat) : (fldSet w o l n v).log = w.log := rfl
@[simp] theorem fldSet_outs (o l n v : Nat) : (fldSet w o l n v).outs = w.outs := rfl
@[simp] theorem fldSet_cas (o l n v : Nat) : (fldSet w o l n v).cas = w.cas := rfl
@[simp] theorem fldSet_saf (o l n v : Nat) : (fldSet w o l n v).saf = w.saf := rfl
@[simp] theorem fldSet_nbgs (o l n v : Nat) : (fldSet w o l n v).nbgs = w.nbgs := rfl
@[simp] theorem fldSet_dbg (o l n v : Nat) : (fldSet w o l n v).dbg = w.dbg := rfl
@[simp] theorem fldSet_ras (o l n v : Nat) : (fldSet w o l n v).ras = w.ras := rfl
@[simp] theorem fldSet_net (o l n v : Nat) : (fldSet w o l n v).net = w.net := rfl
@[simp] theorem fldSet_pwr (o l n v : Nat) : (fldSet w o l n v).pwr = w.pwr := rfl
@[simp] theorem fldSet_boot (o l n v : Nat) : (fldSet w o l n v).boot = w.boot := rfl
@[simp] theorem fldSet_pins (o l n v : Nat) : (fldSet w o l n v).pins = w.pins := rfl
@[simp] theorem fldSet_d2d (o l n v : Nat) : (fldSet w o l n v).d2d = w.d2d := rfl
@[simp] theorem fldSet_flits (o l n v : Nat) : (fldSet w o l n v).flits = w.flits := rfl

/-! bump -/

@[simp] theorem bump_now (o k : Nat) : (bump w o k).now = w.now := rfl
@[simp] theorem bump_freeIdx (o k : Nat) : (bump w o k).freeIdx = w.freeIdx := rfl
@[simp] theorem bump_irq (o k : Nat) : (bump w o k).irq = w.irq := rfl
@[simp] theorem bump_mem (o k : Nat) : (bump w o k).mem = w.mem := rfl
@[simp] theorem bump_cores (o k : Nat) : (bump w o k).cores = w.cores := rfl
@[simp] theorem bump_fe (o k : Nat) : (bump w o k).fe = w.fe := rfl
@[simp] theorem bump_sched (o k : Nat) : (bump w o k).sched = w.sched := rfl
@[simp] theorem bump_harts (o k : Nat) : (bump w o k).harts = w.harts := rfl
@[simp] theorem bump_ftb (o k : Nat) : (bump w o k).ftb = w.ftb := rfl
@[simp] theorem bump_log (o k : Nat) : (bump w o k).log = w.log := rfl
@[simp] theorem bump_outs (o k : Nat) : (bump w o k).outs = w.outs := rfl
@[simp] theorem bump_cas (o k : Nat) : (bump w o k).cas = w.cas := rfl
@[simp] theorem bump_saf (o k : Nat) : (bump w o k).saf = w.saf := rfl
@[simp] theorem bump_nbgs (o k : Nat) : (bump w o k).nbgs = w.nbgs := rfl
@[simp] theorem bump_dbg (o k : Nat) : (bump w o k).dbg = w.dbg := rfl
@[simp] theorem bump_ras (o k : Nat) : (bump w o k).ras = w.ras := rfl
@[simp] theorem bump_net (o k : Nat) : (bump w o k).net = w.net := rfl
@[simp] theorem bump_pwr (o k : Nat) : (bump w o k).pwr = w.pwr := rfl
@[simp] theorem bump_boot (o k : Nat) : (bump w o k).boot = w.boot := rfl
@[simp] theorem bump_pins (o k : Nat) : (bump w o k).pins = w.pins := rfl
@[simp] theorem bump_d2d (o k : Nat) : (bump w o k).d2d = w.d2d := rfl
@[simp] theorem bump_flits (o k : Nat) : (bump w o k).flits = w.flits := rfl

/-! bumpSat -/

@[simp] theorem bumpSat_now (o l : Nat) : (bumpSat w o l).now = w.now := by unfold bumpSat; dsimp only; split <;> rfl
@[simp] theorem bumpSat_freeIdx (o l : Nat) : (bumpSat w o l).freeIdx = w.freeIdx := by unfold bumpSat; dsimp only; split <;> rfl
@[simp] theorem bumpSat_irq (o l : Nat) : (bumpSat w o l).irq = w.irq := by unfold bumpSat; dsimp only; split <;> rfl
@[simp] theorem bumpSat_mem (o l : Nat) : (bumpSat w o l).mem = w.mem := by unfold bumpSat; dsimp only; split <;> rfl
@[simp] theorem bumpSat_cores (o l : Nat) : (bumpSat w o l).cores = w.cores := by unfold bumpSat; dsimp only; split <;> rfl
@[simp] theorem bumpSat_fe (o l : Nat) : (bumpSat w o l).fe = w.fe := by unfold bumpSat; dsimp only; split <;> rfl
@[simp] theorem bumpSat_sched (o l : Nat) : (bumpSat w o l).sched = w.sched := by unfold bumpSat; dsimp only; split <;> rfl
@[simp] theorem bumpSat_harts (o l : Nat) : (bumpSat w o l).harts = w.harts := by unfold bumpSat; dsimp only; split <;> rfl
@[simp] theorem bumpSat_ftb (o l : Nat) : (bumpSat w o l).ftb = w.ftb := by unfold bumpSat; dsimp only; split <;> rfl
@[simp] theorem bumpSat_log (o l : Nat) : (bumpSat w o l).log = w.log := by unfold bumpSat; dsimp only; split <;> rfl
@[simp] theorem bumpSat_outs (o l : Nat) : (bumpSat w o l).outs = w.outs := by unfold bumpSat; dsimp only; split <;> rfl
@[simp] theorem bumpSat_cas (o l : Nat) : (bumpSat w o l).cas = w.cas := by unfold bumpSat; dsimp only; split <;> rfl
@[simp] theorem bumpSat_saf (o l : Nat) : (bumpSat w o l).saf = w.saf := by unfold bumpSat; dsimp only; split <;> rfl
@[simp] theorem bumpSat_nbgs (o l : Nat) : (bumpSat w o l).nbgs = w.nbgs := by unfold bumpSat; dsimp only; split <;> rfl
@[simp] theorem bumpSat_dbg (o l : Nat) : (bumpSat w o l).dbg = w.dbg := by unfold bumpSat; dsimp only; split <;> rfl
@[simp] theorem bumpSat_ras (o l : Nat) : (bumpSat w o l).ras = w.ras := by unfold bumpSat; dsimp only; split <;> rfl
@[simp] theorem bumpSat_net (o l : Nat) : (bumpSat w o l).net = w.net := by unfold bumpSat; dsimp only; split <;> rfl
@[simp] theorem bumpSat_pwr (o l : Nat) : (bumpSat w o l).pwr = w.pwr := by unfold bumpSat; dsimp only; split <;> rfl
@[simp] theorem bumpSat_boot (o l : Nat) : (bumpSat w o l).boot = w.boot := by unfold bumpSat; dsimp only; split <;> rfl
@[simp] theorem bumpSat_pins (o l : Nat) : (bumpSat w o l).pins = w.pins := by unfold bumpSat; dsimp only; split <;> rfl
@[simp] theorem bumpSat_d2d (o l : Nat) : (bumpSat w o l).d2d = w.d2d := by unfold bumpSat; dsimp only; split <;> rfl
@[simp] theorem bumpSat_flits (o l : Nat) : (bumpSat w o l).flits = w.flits := by unfold bumpSat; dsimp only; split <;> rfl

/-! recordErr -/

@[simp] theorem recordErr_now (o v : Nat) : (recordErr w o v).now = w.now := by unfold recordErr; split <;> rfl
@[simp] theorem recordErr_freeIdx (o v : Nat) : (recordErr w o v).freeIdx = w.freeIdx := by unfold recordErr; split <;> rfl
@[simp] theorem recordErr_irq (o v : Nat) : (recordErr w o v).irq = w.irq := by unfold recordErr; split <;> rfl
@[simp] theorem recordErr_mem (o v : Nat) : (recordErr w o v).mem = w.mem := by unfold recordErr; split <;> rfl
@[simp] theorem recordErr_cores (o v : Nat) : (recordErr w o v).cores = w.cores := by unfold recordErr; split <;> rfl
@[simp] theorem recordErr_fe (o v : Nat) : (recordErr w o v).fe = w.fe := by unfold recordErr; split <;> rfl
@[simp] theorem recordErr_sched (o v : Nat) : (recordErr w o v).sched = w.sched := by unfold recordErr; split <;> rfl
@[simp] theorem recordErr_harts (o v : Nat) : (recordErr w o v).harts = w.harts := by unfold recordErr; split <;> rfl
@[simp] theorem recordErr_ftb (o v : Nat) : (recordErr w o v).ftb = w.ftb := by unfold recordErr; split <;> rfl
@[simp] theorem recordErr_log (o v : Nat) : (recordErr w o v).log = w.log := by unfold recordErr; split <;> rfl
@[simp] theorem recordErr_outs (o v : Nat) : (recordErr w o v).outs = w.outs := by unfold recordErr; split <;> rfl
@[simp] theorem recordErr_cas (o v : Nat) : (recordErr w o v).cas = w.cas := by unfold recordErr; split <;> rfl
@[simp] theorem recordErr_saf (o v : Nat) : (recordErr w o v).saf = w.saf := by unfold recordErr; split <;> rfl
@[simp] theorem recordErr_nbgs (o v : Nat) : (recordErr w o v).nbgs = w.nbgs := by unfold recordErr; split <;> rfl
@[simp] theorem recordErr_dbg (o v : Nat) : (recordErr w o v).dbg = w.dbg := by unfold recordErr; split <;> rfl
@[simp] theorem recordErr_ras (o v : Nat) : (recordErr w o v).ras = w.ras := by unfold recordErr; split <;> rfl
@[simp] theorem recordErr_net (o v : Nat) : (recordErr w o v).net = w.net := by unfold recordErr; split <;> rfl
@[simp] theorem recordErr_pwr (o v : Nat) : (recordErr w o v).pwr = w.pwr := by unfold recordErr; split <;> rfl
@[simp] theorem recordErr_boot (o v : Nat) : (recordErr w o v).boot = w.boot := by unfold recordErr; split <;> rfl
@[simp] theorem recordErr_pins (o v : Nat) : (recordErr w o v).pins = w.pins := by unfold recordErr; split <;> rfl
@[simp] theorem recordErr_d2d (o v : Nat) : (recordErr w o v).d2d = w.d2d := by unfold recordErr; split <;> rfl
@[simp] theorem recordErr_flits (o v : Nat) : (recordErr w o v).flits = w.flits := by unfold recordErr; split <;> rfl

/-! stampNow -/

@[simp] theorem stampNow_now : ((stampNow w).2).now = w.now := rfl
@[simp] theorem stampNow_regs : ((stampNow w).2).regs = w.regs := rfl
@[simp] theorem stampNow_irq : ((stampNow w).2).irq = w.irq := rfl
@[simp] theorem stampNow_mem : ((stampNow w).2).mem = w.mem := rfl
@[simp] theorem stampNow_cores : ((stampNow w).2).cores = w.cores := rfl
@[simp] theorem stampNow_fe : ((stampNow w).2).fe = w.fe := rfl
@[simp] theorem stampNow_sched : ((stampNow w).2).sched = w.sched := rfl
@[simp] theorem stampNow_harts : ((stampNow w).2).harts = w.harts := rfl
@[simp] theorem stampNow_ftb : ((stampNow w).2).ftb = w.ftb := rfl
@[simp] theorem stampNow_log : ((stampNow w).2).log = w.log := rfl
@[simp] theorem stampNow_outs : ((stampNow w).2).outs = w.outs := rfl
@[simp] theorem stampNow_cas : ((stampNow w).2).cas = w.cas := rfl
@[simp] theorem stampNow_saf : ((stampNow w).2).saf = w.saf := rfl
@[simp] theorem stampNow_nbgs : ((stampNow w).2).nbgs = w.nbgs := rfl
@[simp] theorem stampNow_dbg : ((stampNow w).2).dbg = w.dbg := rfl
@[simp] theorem stampNow_ras : ((stampNow w).2).ras = w.ras := rfl
@[simp] theorem stampNow_net : ((stampNow w).2).net = w.net := rfl
@[simp] theorem stampNow_pwr : ((stampNow w).2).pwr = w.pwr := rfl
@[simp] theorem stampNow_boot : ((stampNow w).2).boot = w.boot := rfl
@[simp] theorem stampNow_pins : ((stampNow w).2).pins = w.pins := rfl
@[simp] theorem stampNow_d2d : ((stampNow w).2).d2d = w.d2d := rfl
@[simp] theorem stampNow_flits : ((stampNow w).2).flits = w.flits := rfl

/-! replicaKey -/

@[simp] theorem replicaKey_now : ((replicaKey w).2).now = w.now := rfl
@[simp] theorem replicaKey_regs : ((replicaKey w).2).regs = w.regs := rfl
@[simp] theorem replicaKey_irq : ((replicaKey w).2).irq = w.irq := rfl
@[simp] theorem replicaKey_mem : ((replicaKey w).2).mem = w.mem := rfl
@[simp] theorem replicaKey_cores : ((replicaKey w).2).cores = w.cores := rfl
@[simp] theorem replicaKey_fe : ((replicaKey w).2).fe = w.fe := rfl
@[simp] theorem replicaKey_sched : ((replicaKey w).2).sched = w.sched := rfl
@[simp] theorem replicaKey_harts : ((replicaKey w).2).harts = w.harts := rfl
@[simp] theorem replicaKey_ftb : ((replicaKey w).2).ftb = w.ftb := rfl
@[simp] theorem replicaKey_log : ((replicaKey w).2).log = w.log := rfl
@[simp] theorem replicaKey_outs : ((replicaKey w).2).outs = w.outs := rfl
@[simp] theorem replicaKey_cas : ((replicaKey w).2).cas = w.cas := rfl
@[simp] theorem replicaKey_saf : ((replicaKey w).2).saf = w.saf := rfl
@[simp] theorem replicaKey_nbgs : ((replicaKey w).2).nbgs = w.nbgs := rfl
@[simp] theorem replicaKey_dbg : ((replicaKey w).2).dbg = w.dbg := rfl
@[simp] theorem replicaKey_ras : ((replicaKey w).2).ras = w.ras := rfl
@[simp] theorem replicaKey_net : ((replicaKey w).2).net = w.net := rfl
@[simp] theorem replicaKey_pwr : ((replicaKey w).2).pwr = w.pwr := rfl
@[simp] theorem replicaKey_boot : ((replicaKey w).2).boot = w.boot := rfl
@[simp] theorem replicaKey_pins : ((replicaKey w).2).pins = w.pins := rfl
@[simp] theorem replicaKey_d2d : ((replicaKey w).2).d2d = w.d2d := rfl
@[simp] theorem replicaKey_flits : ((replicaKey w).2).flits = w.flits := rfl

/-! sendTo -/

@[simp] theorem sendTo_now (d : MsgDest) (a b c e : Nat) : (sendTo d a b c e w).now = w.now := rfl
@[simp] theorem sendTo_freeIdx (d : MsgDest) (a b c e : Nat) : (sendTo d a b c e w).freeIdx = w.freeIdx := rfl
@[simp] theorem sendTo_regs (d : MsgDest) (a b c e : Nat) : (sendTo d a b c e w).regs = w.regs := rfl
@[simp] theorem sendTo_mem (d : MsgDest) (a b c e : Nat) : (sendTo d a b c e w).mem = w.mem := rfl
@[simp] theorem sendTo_cores (d : MsgDest) (a b c e : Nat) : (sendTo d a b c e w).cores = w.cores := rfl
@[simp] theorem sendTo_fe (d : MsgDest) (a b c e : Nat) : (sendTo d a b c e w).fe = w.fe := rfl
@[simp] theorem sendTo_sched (d : MsgDest) (a b c e : Nat) : (sendTo d a b c e w).sched = w.sched := rfl
@[simp] theorem sendTo_harts (d : MsgDest) (a b c e : Nat) : (sendTo d a b c e w).harts = w.harts := rfl
@[simp] theorem sendTo_ftb (d : MsgDest) (a b c e : Nat) : (sendTo d a b c e w).ftb = w.ftb := rfl
@[simp] theorem sendTo_log (d : MsgDest) (a b c e : Nat) : (sendTo d a b c e w).log = w.log := rfl
@[simp] theorem sendTo_outs (d : MsgDest) (a b c e : Nat) : (sendTo d a b c e w).outs = w.outs := rfl
@[simp] theorem sendTo_cas (d : MsgDest) (a b c e : Nat) : (sendTo d a b c e w).cas = w.cas := rfl
@[simp] theorem sendTo_saf (d : MsgDest) (a b c e : Nat) : (sendTo d a b c e w).saf = w.saf := rfl
@[simp] theorem sendTo_nbgs (d : MsgDest) (a b c e : Nat) : (sendTo d a b c e w).nbgs = w.nbgs := rfl
@[simp] theorem sendTo_dbg (d : MsgDest) (a b c e : Nat) : (sendTo d a b c e w).dbg = w.dbg := rfl
@[simp] theorem sendTo_ras (d : MsgDest) (a b c e : Nat) : (sendTo d a b c e w).ras = w.ras := rfl
@[simp] theorem sendTo_net (d : MsgDest) (a b c e : Nat) : (sendTo d a b c e w).net = w.net := rfl
@[simp] theorem sendTo_pwr (d : MsgDest) (a b c e : Nat) : (sendTo d a b c e w).pwr = w.pwr := rfl
@[simp] theorem sendTo_boot (d : MsgDest) (a b c e : Nat) : (sendTo d a b c e w).boot = w.boot := rfl
@[simp] theorem sendTo_pins (d : MsgDest) (a b c e : Nat) : (sendTo d a b c e w).pins = w.pins := rfl
@[simp] theorem sendTo_d2d (d : MsgDest) (a b c e : Nat) : (sendTo d a b c e w).d2d = w.d2d := rfl
@[simp] theorem sendTo_flits (d : MsgDest) (a b c e : Nat) : (sendTo d a b c e w).flits = w.flits := rfl

/-! sendMsg -/

@[simp] theorem sendMsg_now (a b c e : Nat) : (sendMsg a b c e w).now = w.now := rfl
@[simp] theorem sendMsg_freeIdx (a b c e : Nat) : (sendMsg a b c e w).freeIdx = w.freeIdx := rfl
@[simp] theorem sendMsg_regs (a b c e : Nat) : (sendMsg a b c e w).regs = w.regs := rfl
@[simp] theorem sendMsg_mem (a b c e : Nat) : (sendMsg a b c e w).mem = w.mem := rfl
@[simp] theorem sendMsg_cores (a b c e : Nat) : (sendMsg a b c e w).cores = w.cores := rfl
@[simp] theorem sendMsg_fe (a b c e : Nat) : (sendMsg a b c e w).fe = w.fe := rfl
@[simp] theorem sendMsg_sched (a b c e : Nat) : (sendMsg a b c e w).sched = w.sched := rfl
@[simp] theorem sendMsg_harts (a b c e : Nat) : (sendMsg a b c e w).harts = w.harts := rfl
@[simp] theorem sendMsg_ftb (a b c e : Nat) : (sendMsg a b c e w).ftb = w.ftb := rfl
@[simp] theorem sendMsg_log (a b c e : Nat) : (sendMsg a b c e w).log = w.log := rfl
@[simp] theorem sendMsg_outs (a b c e : Nat) : (sendMsg a b c e w).outs = w.outs := rfl
@[simp] theorem sendMsg_cas (a b c e : Nat) : (sendMsg a b c e w).cas = w.cas := rfl
@[simp] theorem sendMsg_saf (a b c e : Nat) : (sendMsg a b c e w).saf = w.saf := rfl
@[simp] theorem sendMsg_nbgs (a b c e : Nat) : (sendMsg a b c e w).nbgs = w.nbgs := rfl
@[simp] theorem sendMsg_dbg (a b c e : Nat) : (sendMsg a b c e w).dbg = w.dbg := rfl
@[simp] theorem sendMsg_ras (a b c e : Nat) : (sendMsg a b c e w).ras = w.ras := rfl
@[simp] theorem sendMsg_net (a b c e : Nat) : (sendMsg a b c e w).net = w.net := rfl
@[simp] theorem sendMsg_pwr (a b c e : Nat) : (sendMsg a b c e w).pwr = w.pwr := rfl
@[simp] theorem sendMsg_boot (a b c e : Nat) : (sendMsg a b c e w).boot = w.boot := rfl
@[simp] theorem sendMsg_pins (a b c e : Nat) : (sendMsg a b c e w).pins = w.pins := rfl
@[simp] theorem sendMsg_d2d (a b c e : Nat) : (sendMsg a b c e w).d2d = w.d2d := rfl
@[simp] theorem sendMsg_flits (a b c e : Nat) : (sendMsg a b c e w).flits = w.flits := rfl

/-! setCtx -/

@[simp] theorem setCtx_now (c : Nat) (f : Ctx → Ctx) : (setCtx w c f).now = w.now := rfl
@[simp] theorem setCtx_freeIdx (c : Nat) (f : Ctx → Ctx) : (setCtx w c f).freeIdx = w.freeIdx := rfl
@[simp] theorem setCtx_regs (c : Nat) (f : Ctx → Ctx) : (setCtx w c f).regs = w.regs := rfl
@[simp] theorem setCtx_irq (c : Nat) (f : Ctx → Ctx) : (setCtx w c f).irq = w.irq := rfl
@[simp] theorem setCtx_mem (c : Nat) (f : Ctx → Ctx) : (setCtx w c f).mem = w.mem := rfl
@[simp] theorem setCtx_cores (c : Nat) (f : Ctx → Ctx) : (setCtx w c f).cores = w.cores := rfl
@[simp] theorem setCtx_sched (c : Nat) (f : Ctx → Ctx) : (setCtx w c f).sched = w.sched := rfl
@[simp] theorem setCtx_harts (c : Nat) (f : Ctx → Ctx) : (setCtx w c f).harts = w.harts := rfl
@[simp] theorem setCtx_ftb (c : Nat) (f : Ctx → Ctx) : (setCtx w c f).ftb = w.ftb := rfl
@[simp] theorem setCtx_log (c : Nat) (f : Ctx → Ctx) : (setCtx w c f).log = w.log := rfl
@[simp] theorem setCtx_outs (c : Nat) (f : Ctx → Ctx) : (setCtx w c f).outs = w.outs := rfl
@[simp] theorem setCtx_cas (c : Nat) (f : Ctx → Ctx) : (setCtx w c f).cas = w.cas := rfl
@[simp] theorem setCtx_saf (c : Nat) (f : Ctx → Ctx) : (setCtx w c f).saf = w.saf := rfl
@[simp] theorem setCtx_nbgs (c : Nat) (f : Ctx → Ctx) : (setCtx w c f).nbgs = w.nbgs := rfl
@[simp] theorem setCtx_dbg (c : Nat) (f : Ctx → Ctx) : (setCtx w c f).dbg = w.dbg := rfl
@[simp] theorem setCtx_ras (c : Nat) (f : Ctx → Ctx) : (setCtx w c f).ras = w.ras := rfl
@[simp] theorem setCtx_net (c : Nat) (f : Ctx → Ctx) : (setCtx w c f).net = w.net := rfl
@[simp] theorem setCtx_pwr (c : Nat) (f : Ctx → Ctx) : (setCtx w c f).pwr = w.pwr := rfl
@[simp] theorem setCtx_boot (c : Nat) (f : Ctx → Ctx) : (setCtx w c f).boot = w.boot := rfl
@[simp] theorem setCtx_pins (c : Nat) (f : Ctx → Ctx) : (setCtx w c f).pins = w.pins := rfl
@[simp] theorem setCtx_d2d (c : Nat) (f : Ctx → Ctx) : (setCtx w c f).d2d = w.d2d := rfl
@[simp] theorem setCtx_flits (c : Nat) (f : Ctx → Ctx) : (setCtx w c f).flits = w.flits := rfl

/-! orCtxFlags -/

@[simp] theorem orCtxFlags_now (c : Nat) (f : Flags) : (orCtxFlags c f w).now = w.now := rfl
@[simp] theorem orCtxFlags_freeIdx (c : Nat) (f : Flags) : (orCtxFlags c f w).freeIdx = w.freeIdx := rfl
@[simp] theorem orCtxFlags_regs (c : Nat) (f : Flags) : (orCtxFlags c f w).regs = w.regs := rfl
@[simp] theorem orCtxFlags_irq (c : Nat) (f : Flags) : (orCtxFlags c f w).irq = w.irq := rfl
@[simp] theorem orCtxFlags_mem (c : Nat) (f : Flags) : (orCtxFlags c f w).mem = w.mem := rfl
@[simp] theorem orCtxFlags_cores (c : Nat) (f : Flags) : (orCtxFlags c f w).cores = w.cores := rfl
@[simp] theorem orCtxFlags_sched (c : Nat) (f : Flags) : (orCtxFlags c f w).sched = w.sched := rfl
@[simp] theorem orCtxFlags_harts (c : Nat) (f : Flags) : (orCtxFlags c f w).harts = w.harts := rfl
@[simp] theorem orCtxFlags_ftb (c : Nat) (f : Flags) : (orCtxFlags c f w).ftb = w.ftb := rfl
@[simp] theorem orCtxFlags_log (c : Nat) (f : Flags) : (orCtxFlags c f w).log = w.log := rfl
@[simp] theorem orCtxFlags_outs (c : Nat) (f : Flags) : (orCtxFlags c f w).outs = w.outs := rfl
@[simp] theorem orCtxFlags_cas (c : Nat) (f : Flags) : (orCtxFlags c f w).cas = w.cas := rfl
@[simp] theorem orCtxFlags_saf (c : Nat) (f : Flags) : (orCtxFlags c f w).saf = w.saf := rfl
@[simp] theorem orCtxFlags_nbgs (c : Nat) (f : Flags) : (orCtxFlags c f w).nbgs = w.nbgs := rfl
@[simp] theorem orCtxFlags_dbg (c : Nat) (f : Flags) : (orCtxFlags c f w).dbg = w.dbg := rfl
@[simp] theorem orCtxFlags_ras (c : Nat) (f : Flags) : (orCtxFlags c f w).ras = w.ras := rfl
@[simp] theorem orCtxFlags_net (c : Nat) (f : Flags) : (orCtxFlags c f w).net = w.net := rfl
@[simp] theorem orCtxFlags_pwr (c : Nat) (f : Flags) : (orCtxFlags c f w).pwr = w.pwr := rfl
@[simp] theorem orCtxFlags_boot (c : Nat) (f : Flags) : (orCtxFlags c f w).boot = w.boot := rfl
@[simp] theorem orCtxFlags_pins (c : Nat) (f : Flags) : (orCtxFlags c f w).pins = w.pins := rfl
@[simp] theorem orCtxFlags_d2d (c : Nat) (f : Flags) : (orCtxFlags c f w).d2d = w.d2d := rfl
@[simp] theorem orCtxFlags_flits (c : Nat) (f : Flags) : (orCtxFlags c f w).flits = w.flits := rfl

/-! updWork -/

@[simp] theorem updWork_now (k : Nat) (f : Work → Work) : (updWork k f w).now = w.now := rfl
@[simp] theorem updWork_freeIdx (k : Nat) (f : Work → Work) : (updWork k f w).freeIdx = w.freeIdx := rfl
@[simp] theorem updWork_regs (k : Nat) (f : Work → Work) : (updWork k f w).regs = w.regs := rfl
@[simp] theorem updWork_irq (k : Nat) (f : Work → Work) : (updWork k f w).irq = w.irq := rfl
@[simp] theorem updWork_mem (k : Nat) (f : Work → Work) : (updWork k f w).mem = w.mem := rfl
@[simp] theorem updWork_cores (k : Nat) (f : Work → Work) : (updWork k f w).cores = w.cores := rfl
@[simp] theorem updWork_sched (k : Nat) (f : Work → Work) : (updWork k f w).sched = w.sched := rfl
@[simp] theorem updWork_harts (k : Nat) (f : Work → Work) : (updWork k f w).harts = w.harts := rfl
@[simp] theorem updWork_ftb (k : Nat) (f : Work → Work) : (updWork k f w).ftb = w.ftb := rfl
@[simp] theorem updWork_log (k : Nat) (f : Work → Work) : (updWork k f w).log = w.log := rfl
@[simp] theorem updWork_outs (k : Nat) (f : Work → Work) : (updWork k f w).outs = w.outs := rfl
@[simp] theorem updWork_cas (k : Nat) (f : Work → Work) : (updWork k f w).cas = w.cas := rfl
@[simp] theorem updWork_saf (k : Nat) (f : Work → Work) : (updWork k f w).saf = w.saf := rfl
@[simp] theorem updWork_nbgs (k : Nat) (f : Work → Work) : (updWork k f w).nbgs = w.nbgs := rfl
@[simp] theorem updWork_dbg (k : Nat) (f : Work → Work) : (updWork k f w).dbg = w.dbg := rfl
@[simp] theorem updWork_ras (k : Nat) (f : Work → Work) : (updWork k f w).ras = w.ras := rfl
@[simp] theorem updWork_net (k : Nat) (f : Work → Work) : (updWork k f w).net = w.net := rfl
@[simp] theorem updWork_pwr (k : Nat) (f : Work → Work) : (updWork k f w).pwr = w.pwr := rfl
@[simp] theorem updWork_boot (k : Nat) (f : Work → Work) : (updWork k f w).boot = w.boot := rfl
@[simp] theorem updWork_pins (k : Nat) (f : Work → Work) : (updWork k f w).pins = w.pins := rfl
@[simp] theorem updWork_d2d (k : Nat) (f : Work → Work) : (updWork k f w).d2d = w.d2d := rfl
@[simp] theorem updWork_flits (k : Nat) (f : Work → Work) : (updWork k f w).flits = w.flits := rfl

/-! finWork -/

@[simp] theorem finWork_now (k st : Nat) : (finWork k st w).now = w.now := rfl
@[simp] theorem finWork_freeIdx (k st : Nat) : (finWork k st w).freeIdx = w.freeIdx := rfl
@[simp] theorem finWork_regs (k st : Nat) : (finWork k st w).regs = w.regs := rfl
@[simp] theorem finWork_irq (k st : Nat) : (finWork k st w).irq = w.irq := rfl
@[simp] theorem finWork_mem (k st : Nat) : (finWork k st w).mem = w.mem := rfl
@[simp] theorem finWork_cores (k st : Nat) : (finWork k st w).cores = w.cores := rfl
@[simp] theorem finWork_sched (k st : Nat) : (finWork k st w).sched = w.sched := rfl
@[simp] theorem finWork_harts (k st : Nat) : (finWork k st w).harts = w.harts := rfl
@[simp] theorem finWork_ftb (k st : Nat) : (finWork k st w).ftb = w.ftb := rfl
@[simp] theorem finWork_log (k st : Nat) : (finWork k st w).log = w.log := rfl
@[simp] theorem finWork_outs (k st : Nat) : (finWork k st w).outs = w.outs := rfl
@[simp] theorem finWork_cas (k st : Nat) : (finWork k st w).cas = w.cas := rfl
@[simp] theorem finWork_saf (k st : Nat) : (finWork k st w).saf = w.saf := rfl
@[simp] theorem finWork_nbgs (k st : Nat) : (finWork k st w).nbgs = w.nbgs := rfl
@[simp] theorem finWork_dbg (k st : Nat) : (finWork k st w).dbg = w.dbg := rfl
@[simp] theorem finWork_ras (k st : Nat) : (finWork k st w).ras = w.ras := rfl
@[simp] theorem finWork_net (k st : Nat) : (finWork k st w).net = w.net := rfl
@[simp] theorem finWork_pwr (k st : Nat) : (finWork k st w).pwr = w.pwr := rfl
@[simp] theorem finWork_boot (k st : Nat) : (finWork k st w).boot = w.boot := rfl
@[simp] theorem finWork_pins (k st : Nat) : (finWork k st w).pins = w.pins := rfl
@[simp] theorem finWork_d2d (k st : Nat) : (finWork k st w).d2d = w.d2d := rfl
@[simp] theorem finWork_flits (k st : Nat) : (finWork k st w).flits = w.flits := rfl

/-! updLaunch -/

@[simp] theorem updLaunch_now (p : Nat) (f : Launch → Launch) : (updLaunch p f w).now = w.now := rfl
@[simp] theorem updLaunch_freeIdx (p : Nat) (f : Launch → Launch) : (updLaunch p f w).freeIdx = w.freeIdx := rfl
@[simp] theorem updLaunch_regs (p : Nat) (f : Launch → Launch) : (updLaunch p f w).regs = w.regs := rfl
@[simp] theorem updLaunch_irq (p : Nat) (f : Launch → Launch) : (updLaunch p f w).irq = w.irq := rfl
@[simp] theorem updLaunch_mem (p : Nat) (f : Launch → Launch) : (updLaunch p f w).mem = w.mem := rfl
@[simp] theorem updLaunch_cores (p : Nat) (f : Launch → Launch) : (updLaunch p f w).cores = w.cores := rfl
@[simp] theorem updLaunch_sched (p : Nat) (f : Launch → Launch) : (updLaunch p f w).sched = w.sched := rfl
@[simp] theorem updLaunch_harts (p : Nat) (f : Launch → Launch) : (updLaunch p f w).harts = w.harts := rfl
@[simp] theorem updLaunch_ftb (p : Nat) (f : Launch → Launch) : (updLaunch p f w).ftb = w.ftb := rfl
@[simp] theorem updLaunch_log (p : Nat) (f : Launch → Launch) : (updLaunch p f w).log = w.log := rfl
@[simp] theorem updLaunch_outs (p : Nat) (f : Launch → Launch) : (updLaunch p f w).outs = w.outs := rfl
@[simp] theorem updLaunch_cas (p : Nat) (f : Launch → Launch) : (updLaunch p f w).cas = w.cas := rfl
@[simp] theorem updLaunch_saf (p : Nat) (f : Launch → Launch) : (updLaunch p f w).saf = w.saf := rfl
@[simp] theorem updLaunch_nbgs (p : Nat) (f : Launch → Launch) : (updLaunch p f w).nbgs = w.nbgs := rfl
@[simp] theorem updLaunch_dbg (p : Nat) (f : Launch → Launch) : (updLaunch p f w).dbg = w.dbg := rfl
@[simp] theorem updLaunch_ras (p : Nat) (f : Launch → Launch) : (updLaunch p f w).ras = w.ras := rfl
@[simp] theorem updLaunch_net (p : Nat) (f : Launch → Launch) : (updLaunch p f w).net = w.net := rfl
@[simp] theorem updLaunch_pwr (p : Nat) (f : Launch → Launch) : (updLaunch p f w).pwr = w.pwr := rfl
@[simp] theorem updLaunch_boot (p : Nat) (f : Launch → Launch) : (updLaunch p f w).boot = w.boot := rfl
@[simp] theorem updLaunch_pins (p : Nat) (f : Launch → Launch) : (updLaunch p f w).pins = w.pins := rfl
@[simp] theorem updLaunch_d2d (p : Nat) (f : Launch → Launch) : (updLaunch p f w).d2d = w.d2d := rfl
@[simp] theorem updLaunch_flits (p : Nat) (f : Launch → Launch) : (updLaunch p f w).flits = w.flits := rfl

/-! setCore -/

@[simp] theorem setCore_now (n : Nat) (c : Core) : (setCore n c w).now = w.now := rfl
@[simp] theorem setCore_freeIdx (n : Nat) (c : Core) : (setCore n c w).freeIdx = w.freeIdx := rfl
@[simp] theorem setCore_regs (n : Nat) (c : Core) : (setCore n c w).regs = w.regs := rfl
@[simp] theorem setCore_irq (n : Nat) (c : Core) : (setCore n c w).irq = w.irq := rfl
@[simp] theorem setCore_mem (n : Nat) (c : Core) : (setCore n c w).mem = w.mem := rfl
@[simp] theorem setCore_fe (n : Nat) (c : Core) : (setCore n c w).fe = w.fe := rfl
@[simp] theorem setCore_sched (n : Nat) (c : Core) : (setCore n c w).sched = w.sched := rfl
@[simp] theorem setCore_harts (n : Nat) (c : Core) : (setCore n c w).harts = w.harts := rfl
@[simp] theorem setCore_ftb (n : Nat) (c : Core) : (setCore n c w).ftb = w.ftb := rfl
@[simp] theorem setCore_log (n : Nat) (c : Core) : (setCore n c w).log = w.log := rfl
@[simp] theorem setCore_outs (n : Nat) (c : Core) : (setCore n c w).outs = w.outs := rfl
@[simp] theorem setCore_cas (n : Nat) (c : Core) : (setCore n c w).cas = w.cas := rfl
@[simp] theorem setCore_saf (n : Nat) (c : Core) : (setCore n c w).saf = w.saf := rfl
@[simp] theorem setCore_nbgs (n : Nat) (c : Core) : (setCore n c w).nbgs = w.nbgs := rfl
@[simp] theorem setCore_dbg (n : Nat) (c : Core) : (setCore n c w).dbg = w.dbg := rfl
@[simp] theorem setCore_ras (n : Nat) (c : Core) : (setCore n c w).ras = w.ras := rfl
@[simp] theorem setCore_net (n : Nat) (c : Core) : (setCore n c w).net = w.net := rfl
@[simp] theorem setCore_pwr (n : Nat) (c : Core) : (setCore n c w).pwr = w.pwr := rfl
@[simp] theorem setCore_boot (n : Nat) (c : Core) : (setCore n c w).boot = w.boot := rfl
@[simp] theorem setCore_pins (n : Nat) (c : Core) : (setCore n c w).pins = w.pins := rfl
@[simp] theorem setCore_d2d (n : Nat) (c : Core) : (setCore n c w).d2d = w.d2d := rfl
@[simp] theorem setCore_flits (n : Nat) (c : Core) : (setCore n c w).flits = w.flits := rfl

/-! updCore -/

@[simp] theorem updCore_now (n : Nat) (f : Core → Core) : (updCore n f w).now = w.now := rfl
@[simp] theorem updCore_freeIdx (n : Nat) (f : Core → Core) : (updCore n f w).freeIdx = w.freeIdx := rfl
@[simp] theorem updCore_regs (n : Nat) (f : Core → Core) : (updCore n f w).regs = w.regs := rfl
@[simp] theorem updCore_irq (n : Nat) (f : Core → Core) : (updCore n f w).irq = w.irq := rfl
@[simp] theorem updCore_mem (n : Nat) (f : Core → Core) : (updCore n f w).mem = w.mem := rfl
@[simp] theorem updCore_fe (n : Nat) (f : Core → Core) : (updCore n f w).fe = w.fe := rfl
@[simp] theorem updCore_sched (n : Nat) (f : Core → Core) : (updCore n f w).sched = w.sched := rfl
@[simp] theorem updCore_harts (n : Nat) (f : Core → Core) : (updCore n f w).harts = w.harts := rfl
@[simp] theorem updCore_ftb (n : Nat) (f : Core → Core) : (updCore n f w).ftb = w.ftb := rfl
@[simp] theorem updCore_log (n : Nat) (f : Core → Core) : (updCore n f w).log = w.log := rfl
@[simp] theorem updCore_outs (n : Nat) (f : Core → Core) : (updCore n f w).outs = w.outs := rfl
@[simp] theorem updCore_cas (n : Nat) (f : Core → Core) : (updCore n f w).cas = w.cas := rfl
@[simp] theorem updCore_saf (n : Nat) (f : Core → Core) : (updCore n f w).saf = w.saf := rfl
@[simp] theorem updCore_nbgs (n : Nat) (f : Core → Core) : (updCore n f w).nbgs = w.nbgs := rfl
@[simp] theorem updCore_dbg (n : Nat) (f : Core → Core) : (updCore n f w).dbg = w.dbg := rfl
@[simp] theorem updCore_ras (n : Nat) (f : Core → Core) : (updCore n f w).ras = w.ras := rfl
@[simp] theorem updCore_net (n : Nat) (f : Core → Core) : (updCore n f w).net = w.net := rfl
@[simp] theorem updCore_pwr (n : Nat) (f : Core → Core) : (updCore n f w).pwr = w.pwr := rfl
@[simp] theorem updCore_boot (n : Nat) (f : Core → Core) : (updCore n f w).boot = w.boot := rfl
@[simp] theorem updCore_pins (n : Nat) (f : Core → Core) : (updCore n f w).pins = w.pins := rfl
@[simp] theorem updCore_d2d (n : Nat) (f : Core → Core) : (updCore n f w).d2d = w.d2d := rfl
@[simp] theorem updCore_flits (n : Nat) (f : Core → Core) : (updCore n f w).flits = w.flits := rfl

/-! updGroup -/

@[simp] theorem updGroup_now (n sl : Nat) (f : Group → Group) : (updGroup n sl f w).now = w.now := rfl
@[simp] theorem updGroup_freeIdx (n sl : Nat) (f : Group → Group) : (updGroup n sl f w).freeIdx = w.freeIdx := rfl
@[simp] theorem updGroup_regs (n sl : Nat) (f : Group → Group) : (updGroup n sl f w).regs = w.regs := rfl
@[simp] theorem updGroup_irq (n sl : Nat) (f : Group → Group) : (updGroup n sl f w).irq = w.irq := rfl
@[simp] theorem updGroup_mem (n sl : Nat) (f : Group → Group) : (updGroup n sl f w).mem = w.mem := rfl
@[simp] theorem updGroup_fe (n sl : Nat) (f : Group → Group) : (updGroup n sl f w).fe = w.fe := rfl
@[simp] theorem updGroup_sched (n sl : Nat) (f : Group → Group) : (updGroup n sl f w).sched = w.sched := rfl
@[simp] theorem updGroup_harts (n sl : Nat) (f : Group → Group) : (updGroup n sl f w).harts = w.harts := rfl
@[simp] theorem updGroup_ftb (n sl : Nat) (f : Group → Group) : (updGroup n sl f w).ftb = w.ftb := rfl
@[simp] theorem updGroup_log (n sl : Nat) (f : Group → Group) : (updGroup n sl f w).log = w.log := rfl
@[simp] theorem updGroup_outs (n sl : Nat) (f : Group → Group) : (updGroup n sl f w).outs = w.outs := rfl
@[simp] theorem updGroup_cas (n sl : Nat) (f : Group → Group) : (updGroup n sl f w).cas = w.cas := rfl
@[simp] theorem updGroup_saf (n sl : Nat) (f : Group → Group) : (updGroup n sl f w).saf = w.saf := rfl
@[simp] theorem updGroup_nbgs (n sl : Nat) (f : Group → Group) : (updGroup n sl f w).nbgs = w.nbgs := rfl
@[simp] theorem updGroup_dbg (n sl : Nat) (f : Group → Group) : (updGroup n sl f w).dbg = w.dbg := rfl
@[simp] theorem updGroup_ras (n sl : Nat) (f : Group → Group) : (updGroup n sl f w).ras = w.ras := rfl
@[simp] theorem updGroup_net (n sl : Nat) (f : Group → Group) : (updGroup n sl f w).net = w.net := rfl
@[simp] theorem updGroup_pwr (n sl : Nat) (f : Group → Group) : (updGroup n sl f w).pwr = w.pwr := rfl
@[simp] theorem updGroup_boot (n sl : Nat) (f : Group → Group) : (updGroup n sl f w).boot = w.boot := rfl
@[simp] theorem updGroup_pins (n sl : Nat) (f : Group → Group) : (updGroup n sl f w).pins = w.pins := rfl
@[simp] theorem updGroup_d2d (n sl : Nat) (f : Group → Group) : (updGroup n sl f w).d2d = w.d2d := rfl
@[simp] theorem updGroup_flits (n sl : Nat) (f : Group → Group) : (updGroup n sl f w).flits = w.flits := rfl

/-! setHart -/

@[simp] theorem setHart_now (h : Nat) (x : Hart) : (setHart h x w).now = w.now := rfl
@[simp] theorem setHart_freeIdx (h : Nat) (x : Hart) : (setHart h x w).freeIdx = w.freeIdx := rfl
@[simp] theorem setHart_regs (h : Nat) (x : Hart) : (setHart h x w).regs = w.regs := rfl
@[simp] theorem setHart_irq (h : Nat) (x : Hart) : (setHart h x w).irq = w.irq := rfl
@[simp] theorem setHart_mem (h : Nat) (x : Hart) : (setHart h x w).mem = w.mem := rfl
@[simp] theorem setHart_cores (h : Nat) (x : Hart) : (setHart h x w).cores = w.cores := rfl
@[simp] theorem setHart_fe (h : Nat) (x : Hart) : (setHart h x w).fe = w.fe := rfl
@[simp] theorem setHart_sched (h : Nat) (x : Hart) : (setHart h x w).sched = w.sched := rfl
@[simp] theorem setHart_ftb (h : Nat) (x : Hart) : (setHart h x w).ftb = w.ftb := rfl
@[simp] theorem setHart_log (h : Nat) (x : Hart) : (setHart h x w).log = w.log := rfl
@[simp] theorem setHart_outs (h : Nat) (x : Hart) : (setHart h x w).outs = w.outs := rfl
@[simp] theorem setHart_cas (h : Nat) (x : Hart) : (setHart h x w).cas = w.cas := rfl
@[simp] theorem setHart_saf (h : Nat) (x : Hart) : (setHart h x w).saf = w.saf := rfl
@[simp] theorem setHart_nbgs (h : Nat) (x : Hart) : (setHart h x w).nbgs = w.nbgs := rfl
@[simp] theorem setHart_dbg (h : Nat) (x : Hart) : (setHart h x w).dbg = w.dbg := rfl
@[simp] theorem setHart_ras (h : Nat) (x : Hart) : (setHart h x w).ras = w.ras := rfl
@[simp] theorem setHart_net (h : Nat) (x : Hart) : (setHart h x w).net = w.net := rfl
@[simp] theorem setHart_pwr (h : Nat) (x : Hart) : (setHart h x w).pwr = w.pwr := rfl
@[simp] theorem setHart_boot (h : Nat) (x : Hart) : (setHart h x w).boot = w.boot := rfl
@[simp] theorem setHart_pins (h : Nat) (x : Hart) : (setHart h x w).pins = w.pins := rfl
@[simp] theorem setHart_d2d (h : Nat) (x : Hart) : (setHart h x w).d2d = w.d2d := rfl
@[simp] theorem setHart_flits (h : Nat) (x : Hart) : (setHart h x w).flits = w.flits := rfl

/-! updHart -/

@[simp] theorem updHart_now (h : Nat) (f : Hart → Hart) : (updHart h f w).now = w.now := rfl
@[simp] theorem updHart_freeIdx (h : Nat) (f : Hart → Hart) : (updHart h f w).freeIdx = w.freeIdx := rfl
@[simp] theorem updHart_regs (h : Nat) (f : Hart → Hart) : (updHart h f w).regs = w.regs := rfl
@[simp] theorem updHart_irq (h : Nat) (f : Hart → Hart) : (updHart h f w).irq = w.irq := rfl
@[simp] theorem updHart_mem (h : Nat) (f : Hart → Hart) : (updHart h f w).mem = w.mem := rfl
@[simp] theorem updHart_cores (h : Nat) (f : Hart → Hart) : (updHart h f w).cores = w.cores := rfl
@[simp] theorem updHart_fe (h : Nat) (f : Hart → Hart) : (updHart h f w).fe = w.fe := rfl
@[simp] theorem updHart_sched (h : Nat) (f : Hart → Hart) : (updHart h f w).sched = w.sched := rfl
@[simp] theorem updHart_ftb (h : Nat) (f : Hart → Hart) : (updHart h f w).ftb = w.ftb := rfl
@[simp] theorem updHart_log (h : Nat) (f : Hart → Hart) : (updHart h f w).log = w.log := rfl
@[simp] theorem updHart_outs (h : Nat) (f : Hart → Hart) : (updHart h f w).outs = w.outs := rfl
@[simp] theorem updHart_cas (h : Nat) (f : Hart → Hart) : (updHart h f w).cas = w.cas := rfl
@[simp] theorem updHart_saf (h : Nat) (f : Hart → Hart) : (updHart h f w).saf = w.saf := rfl
@[simp] theorem updHart_nbgs (h : Nat) (f : Hart → Hart) : (updHart h f w).nbgs = w.nbgs := rfl
@[simp] theorem updHart_dbg (h : Nat) (f : Hart → Hart) : (updHart h f w).dbg = w.dbg := rfl
@[simp] theorem updHart_ras (h : Nat) (f : Hart → Hart) : (updHart h f w).ras = w.ras := rfl
@[simp] theorem updHart_net (h : Nat) (f : Hart → Hart) : (updHart h f w).net = w.net := rfl
@[simp] theorem updHart_pwr (h : Nat) (f : Hart → Hart) : (updHart h f w).pwr = w.pwr := rfl
@[simp] theorem updHart_boot (h : Nat) (f : Hart → Hart) : (updHart h f w).boot = w.boot := rfl
@[simp] theorem updHart_pins (h : Nat) (f : Hart → Hart) : (updHart h f w).pins = w.pins := rfl
@[simp] theorem updHart_d2d (h : Nat) (f : Hart → Hart) : (updHart h f w).d2d = w.d2d := rfl
@[simp] theorem updHart_flits (h : Nat) (f : Hart → Hart) : (updHart h f w).flits = w.flits := rfl

/-! putBytes -/

@[simp] theorem putBytes_now (a : Nat) (bs : List Byte) : (putBytes a bs w).now = w.now := rfl
@[simp] theorem putBytes_freeIdx (a : Nat) (bs : List Byte) : (putBytes a bs w).freeIdx = w.freeIdx := rfl
@[simp] theorem putBytes_regs (a : Nat) (bs : List Byte) : (putBytes a bs w).regs = w.regs := rfl
@[simp] theorem putBytes_irq (a : Nat) (bs : List Byte) : (putBytes a bs w).irq = w.irq := rfl
@[simp] theorem putBytes_cores (a : Nat) (bs : List Byte) : (putBytes a bs w).cores = w.cores := rfl
@[simp] theorem putBytes_fe (a : Nat) (bs : List Byte) : (putBytes a bs w).fe = w.fe := rfl
@[simp] theorem putBytes_sched (a : Nat) (bs : List Byte) : (putBytes a bs w).sched = w.sched := rfl
@[simp] theorem putBytes_harts (a : Nat) (bs : List Byte) : (putBytes a bs w).harts = w.harts := rfl
@[simp] theorem putBytes_ftb (a : Nat) (bs : List Byte) : (putBytes a bs w).ftb = w.ftb := rfl
@[simp] theorem putBytes_log (a : Nat) (bs : List Byte) : (putBytes a bs w).log = w.log := rfl
@[simp] theorem putBytes_outs (a : Nat) (bs : List Byte) : (putBytes a bs w).outs = w.outs := rfl
@[simp] theorem putBytes_cas (a : Nat) (bs : List Byte) : (putBytes a bs w).cas = w.cas := rfl
@[simp] theorem putBytes_saf (a : Nat) (bs : List Byte) : (putBytes a bs w).saf = w.saf := rfl
@[simp] theorem putBytes_nbgs (a : Nat) (bs : List Byte) : (putBytes a bs w).nbgs = w.nbgs := rfl
@[simp] theorem putBytes_dbg (a : Nat) (bs : List Byte) : (putBytes a bs w).dbg = w.dbg := rfl
@[simp] theorem putBytes_ras (a : Nat) (bs : List Byte) : (putBytes a bs w).ras = w.ras := rfl
@[simp] theorem putBytes_net (a : Nat) (bs : List Byte) : (putBytes a bs w).net = w.net := rfl
@[simp] theorem putBytes_pwr (a : Nat) (bs : List Byte) : (putBytes a bs w).pwr = w.pwr := rfl
@[simp] theorem putBytes_boot (a : Nat) (bs : List Byte) : (putBytes a bs w).boot = w.boot := rfl
@[simp] theorem putBytes_pins (a : Nat) (bs : List Byte) : (putBytes a bs w).pins = w.pins := rfl
@[simp] theorem putBytes_d2d (a : Nat) (bs : List Byte) : (putBytes a bs w).d2d = w.d2d := rfl
@[simp] theorem putBytes_flits (a : Nat) (bs : List Byte) : (putBytes a bs w).flits = w.flits := rfl

/-! setPoison -/

@[simp] theorem setPoison_now (a n : Nat) : (setPoison a n w).now = w.now := rfl
@[simp] theorem setPoison_freeIdx (a n : Nat) : (setPoison a n w).freeIdx = w.freeIdx := rfl
@[simp] theorem setPoison_regs (a n : Nat) : (setPoison a n w).regs = w.regs := rfl
@[simp] theorem setPoison_irq (a n : Nat) : (setPoison a n w).irq = w.irq := rfl
@[simp] theorem setPoison_cores (a n : Nat) : (setPoison a n w).cores = w.cores := rfl
@[simp] theorem setPoison_fe (a n : Nat) : (setPoison a n w).fe = w.fe := rfl
@[simp] theorem setPoison_sched (a n : Nat) : (setPoison a n w).sched = w.sched := rfl
@[simp] theorem setPoison_harts (a n : Nat) : (setPoison a n w).harts = w.harts := rfl
@[simp] theorem setPoison_ftb (a n : Nat) : (setPoison a n w).ftb = w.ftb := rfl
@[simp] theorem setPoison_log (a n : Nat) : (setPoison a n w).log = w.log := rfl
@[simp] theorem setPoison_outs (a n : Nat) : (setPoison a n w).outs = w.outs := rfl
@[simp] theorem setPoison_cas (a n : Nat) : (setPoison a n w).cas = w.cas := rfl
@[simp] theorem setPoison_saf (a n : Nat) : (setPoison a n w).saf = w.saf := rfl
@[simp] theorem setPoison_nbgs (a n : Nat) : (setPoison a n w).nbgs = w.nbgs := rfl
@[simp] theorem setPoison_dbg (a n : Nat) : (setPoison a n w).dbg = w.dbg := rfl
@[simp] theorem setPoison_ras (a n : Nat) : (setPoison a n w).ras = w.ras := rfl
@[simp] theorem setPoison_net (a n : Nat) : (setPoison a n w).net = w.net := rfl
@[simp] theorem setPoison_pwr (a n : Nat) : (setPoison a n w).pwr = w.pwr := rfl
@[simp] theorem setPoison_boot (a n : Nat) : (setPoison a n w).boot = w.boot := rfl
@[simp] theorem setPoison_pins (a n : Nat) : (setPoison a n w).pins = w.pins := rfl
@[simp] theorem setPoison_d2d (a n : Nat) : (setPoison a n w).d2d = w.d2d := rfl
@[simp] theorem setPoison_flits (a n : Nat) : (setPoison a n w).flits = w.flits := rfl

/-! installLine -/

@[simp] theorem installLine_now (a : Nat) (b : Bool) : (installLine a b w).now = w.now := rfl
@[simp] theorem installLine_freeIdx (a : Nat) (b : Bool) : (installLine a b w).freeIdx = w.freeIdx := rfl
@[simp] theorem installLine_regs (a : Nat) (b : Bool) : (installLine a b w).regs = w.regs := rfl
@[simp] theorem installLine_irq (a : Nat) (b : Bool) : (installLine a b w).irq = w.irq := rfl
@[simp] theorem installLine_cores (a : Nat) (b : Bool) : (installLine a b w).cores = w.cores := rfl
@[simp] theorem installLine_fe (a : Nat) (b : Bool) : (installLine a b w).fe = w.fe := rfl
@[simp] theorem installLine_sched (a : Nat) (b : Bool) : (installLine a b w).sched = w.sched := rfl
@[simp] theorem installLine_harts (a : Nat) (b : Bool) : (installLine a b w).harts = w.harts := rfl
@[simp] theorem installLine_ftb (a : Nat) (b : Bool) : (installLine a b w).ftb = w.ftb := rfl
@[simp] theorem installLine_log (a : Nat) (b : Bool) : (installLine a b w).log = w.log := rfl
@[simp] theorem installLine_outs (a : Nat) (b : Bool) : (installLine a b w).outs = w.outs := rfl
@[simp] theorem installLine_cas (a : Nat) (b : Bool) : (installLine a b w).cas = w.cas := rfl
@[simp] theorem installLine_saf (a : Nat) (b : Bool) : (installLine a b w).saf = w.saf := rfl
@[simp] theorem installLine_nbgs (a : Nat) (b : Bool) : (installLine a b w).nbgs = w.nbgs := rfl
@[simp] theorem installLine_dbg (a : Nat) (b : Bool) : (installLine a b w).dbg = w.dbg := rfl
@[simp] theorem installLine_ras (a : Nat) (b : Bool) : (installLine a b w).ras = w.ras := rfl
@[simp] theorem installLine_net (a : Nat) (b : Bool) : (installLine a b w).net = w.net := rfl
@[simp] theorem installLine_pwr (a : Nat) (b : Bool) : (installLine a b w).pwr = w.pwr := rfl
@[simp] theorem installLine_boot (a : Nat) (b : Bool) : (installLine a b w).boot = w.boot := rfl
@[simp] theorem installLine_pins (a : Nat) (b : Bool) : (installLine a b w).pins = w.pins := rfl
@[simp] theorem installLine_d2d (a : Nat) (b : Bool) : (installLine a b w).d2d = w.d2d := rfl
@[simp] theorem installLine_flits (a : Nat) (b : Bool) : (installLine a b w).flits = w.flits := rfl

/-! memFault -/

@[simp] theorem memFault_now (a b c d e : Nat) : (memFault a b c d e w).now = w.now := by unfold memFault; dsimp only; split <;> simp
@[simp] theorem memFault_freeIdx (a b c d e : Nat) : (memFault a b c d e w).freeIdx = w.freeIdx := by unfold memFault; dsimp only; split <;> simp
@[simp] theorem memFault_irq (a b c d e : Nat) : (memFault a b c d e w).irq = w.irq := by unfold memFault; dsimp only; split <;> simp
@[simp] theorem memFault_mem (a b c d e : Nat) : (memFault a b c d e w).mem = w.mem := by unfold memFault; dsimp only; split <;> simp
@[simp] theorem memFault_cores (a b c d e : Nat) : (memFault a b c d e w).cores = w.cores := by unfold memFault; dsimp only; split <;> simp
@[simp] theorem memFault_fe (a b c d e : Nat) : (memFault a b c d e w).fe = w.fe := by unfold memFault; dsimp only; split <;> simp
@[simp] theorem memFault_sched (a b c d e : Nat) : (memFault a b c d e w).sched = w.sched := by unfold memFault; dsimp only; split <;> simp
@[simp] theorem memFault_harts (a b c d e : Nat) : (memFault a b c d e w).harts = w.harts := by unfold memFault; dsimp only; split <;> simp
@[simp] theorem memFault_ftb (a b c d e : Nat) : (memFault a b c d e w).ftb = w.ftb := by unfold memFault; dsimp only; split <;> simp
@[simp] theorem memFault_log (a b c d e : Nat) : (memFault a b c d e w).log = w.log := by unfold memFault; dsimp only; split <;> simp
@[simp] theorem memFault_outs (a b c d e : Nat) : (memFault a b c d e w).outs = w.outs := by unfold memFault; dsimp only; split <;> simp
@[simp] theorem memFault_cas (a b c d e : Nat) : (memFault a b c d e w).cas = w.cas := by unfold memFault; dsimp only; split <;> simp
@[simp] theorem memFault_saf (a b c d e : Nat) : (memFault a b c d e w).saf = w.saf := by unfold memFault; dsimp only; split <;> simp
@[simp] theorem memFault_nbgs (a b c d e : Nat) : (memFault a b c d e w).nbgs = w.nbgs := by unfold memFault; dsimp only; split <;> simp
@[simp] theorem memFault_dbg (a b c d e : Nat) : (memFault a b c d e w).dbg = w.dbg := by unfold memFault; dsimp only; split <;> simp
@[simp] theorem memFault_ras (a b c d e : Nat) : (memFault a b c d e w).ras = w.ras := by unfold memFault; dsimp only; split <;> simp
@[simp] theorem memFault_net (a b c d e : Nat) : (memFault a b c d e w).net = w.net := by unfold memFault; dsimp only; split <;> simp
@[simp] theorem memFault_pwr (a b c d e : Nat) : (memFault a b c d e w).pwr = w.pwr := by unfold memFault; dsimp only; split <;> simp
@[simp] theorem memFault_boot (a b c d e : Nat) : (memFault a b c d e w).boot = w.boot := by unfold memFault; dsimp only; split <;> simp
@[simp] theorem memFault_pins (a b c d e : Nat) : (memFault a b c d e w).pins = w.pins := by unfold memFault; dsimp only; split <;> simp
@[simp] theorem memFault_d2d (a b c d e : Nat) : (memFault a b c d e w).d2d = w.d2d := by unfold memFault; dsimp only; split <;> simp
@[simp] theorem memFault_flits (a b c d e : Nat) : (memFault a b c d e w).flits = w.flits := by unfold memFault; dsimp only; split <;> simp

/-! ### What they write -/

@[simp] theorem freeUsed_freeIdx : (freeUsed w).freeIdx = w.freeIdx + 1 := rfl
@[simp] theorem stampNow_freeIdx : (stampNow w).2.freeIdx = w.freeIdx + 1 := rfl
@[simp] theorem emit_outs (k : OutKind) (ns : List Nat) (bs : List Byte) : (emit k ns bs w).outs = ⟨k, ns, bs⟩ :: w.outs := rfl
@[simp] theorem sendTo_inbox (d : MsgDest) (a b c e : Nat) :
    (sendTo d a b c e w).irq.inbox = w.irq.inbox ++ [⟨a, b, c, e, d⟩] := rfl
@[simp] theorem sendMsg_inbox (a b c e : Nat) :
    (sendMsg a b c e w).irq.inbox = w.irq.inbox ++ [⟨a, b, c, e, .route⟩] := rfl

/-- A register written reads back modulo 2^64. -/
@[simp] theorem rg_rgSet_same (o v : Nat) : rg (rgSet w o v) o = v % 2 ^ 64 := by simp [rg, rgSet]

/-- Every other register is as before. -/
theorem rg_rgSet_ne {o o' : Nat} (v : Nat) (h : o' ≠ o) : rg (rgSet w o v) o' = rg w o' := by
  simp [rg, rgSet, mget_mset_ne w.regs _ h]

/-- Registers depend on the register map alone. -/
theorem rg_congr {w w' : World} (h : w'.regs = w.regs) (o : Nat) : rg w' o = rg w o := by simp [rg, h]

theorem rg_bump_ne {o o' : Nat} (k : Nat) (h : o' ≠ o) : rg (bump w o k) o' = rg w o' := rg_rgSet_ne w _ h

@[simp] theorem rg_bump_same (o k : Nat) : rg (bump w o k) o = (rg w o + k) % 2 ^ 64 := by simp [bump]

@[simp] theorem coreOf_setCore_same (n : Nat) (c : Core) : coreOf (setCore n c w) n = c := by simp [coreOf, setCore]

theorem coreOf_setCore_ne {n n' : Nat} (c : Core) (h : n' ≠ n) : coreOf (setCore n c w) n' = coreOf w n' := by
  simp [coreOf, setCore, mgetD_mset_ne w.cores c _ h]

@[simp] theorem coreOf_updCore_same (n : Nat) (f : Core → Core) : coreOf (updCore n f w) n = f (coreOf w n) := by
  simp [updCore]

theorem coreOf_updCore_ne {n n' : Nat} (f : Core → Core) (h : n' ≠ n) : coreOf (updCore n f w) n' = coreOf w n' :=
  coreOf_setCore_ne w _ h

/-- Cores depend on the cores alone. -/
theorem coreOf_congr {w w' : World} (h : w'.cores = w.cores) (n : Nat) : coreOf w' n = coreOf w n := by simp [coreOf, h]

@[simp] theorem hartOf_setHart_same (h : Nat) (x : Hart) : hartOf (setHart h x w) h = x := by simp [hartOf, setHart]

theorem hartOf_setHart_ne {h h' : Nat} (x : Hart) (hne : h' ≠ h) : hartOf (setHart h x w) h' = hartOf w h' := by
  simp [hartOf, setHart, mgetD_mset_ne w.harts.hart x _ hne]

@[simp] theorem getWork_updWork_same (k : Nat) (f : Work → Work) : getWork (updWork k f w) k = (getWork w k).map f := by
  simp [getWork, updWork]

theorem getWork_updWork_ne {k k' : Nat} (f : Work → Work) (h : k' ≠ k) : getWork (updWork k f w) k' = getWork w k' := by
  simp [getWork, updWork, mget_mupd_ne w.fe.works f h]

@[simp] theorem ctxOf_setCtx_same (c : Nat) (f : Ctx → Ctx) : ctxOf (setCtx w c f) c = (ctxOf w c).map f := by
  simp [ctxOf, setCtx]

theorem ctxOf_setCtx_ne {c c' : Nat} (f : Ctx → Ctx) (h : c' ≠ c) : ctxOf (setCtx w c f) c' = ctxOf w c' := by
  simp [ctxOf, setCtx, mget_mupd_ne w.fe.ctxs f h]

/-- Bytes put at the home read back, and every other byte is as before. -/
theorem byteAt_putBytes (a : Nat) (bs : List Byte) (x : Nat) :
    byteAt (putBytes a bs w).mem.bytes x = if a ≤ x ∧ x < a + bs.length then bs.getD (x - a) 0 else byteAt w.mem.bytes x :=
  byteAt_listSet bs _ _ _

/-- Bytes put at the home keep the canonical form. -/
theorem memWf_putBytes (a : Nat) (bs : List Byte) (h : Memory.wf w.mem.bytes = true) :
    Memory.wf (putBytes a bs w).mem.bytes = true := memCanon_listSet bs a h

/-- No command changes the queue of waiting commands: every meaning is a function of the block. -/
theorem run_pending {f : World → World} {s t : State} (h : run f s = .next t) : t.pending = s.pending := by
  cases h; rfl

/-- The block after a meaning. -/
theorem run_w {f : World → World} {s t : State} (h : run f s = .next t) : t.w = f s.w := by
  cases h; rfl

end Sys2Proof.Machine
end

