-- ==== Sys2Proof/Laws/Issue.lean ====
section
/-!
SUPPORT. What an issue of a kernel instruction does when the instruction at hand is the one commanded: the fetch and
choice are `issued`, and without a trap or a wait the effect runs on the state after the books.
-/
namespace Sys2Proof.Machine

/-- The books of an issue before its effect: counters, the words kept, the slot, the path past the instruction. -/
def issueBase (i : Iss) (ready : Map W32) (favoured : Bool) (q : Nat) (w : World) : World :=
  let g := groupOf w i.core i.slot
  let passed := (slotOrder (coreOf w i.core) q).takeWhile (fun s => 16 * q + s ≠ i.slot)
  let w := countIssue i.core g i.path favoured (stampStart (launchOn w i.core).work w)
  let w := updCore i.core (fun c =>
    let c := spendYields q passed (unmark (markIn i i.ex (destOf i).toList) c)
    { c with lastSlot := mset c.lastSlot q (i.slot % 16) }) w
  updGroup i.core i.slot (fun h => setPcs i.path (nextPc i) { h with paths := issueBooks g ready i.pc favoured }) w

/-- An issue that nothing stops runs its effect after the books. -/
theorem issueDecoded_runs {m : Meaning} {i : Iss} {ready : Map W32} {fav : Bool} {q : Nat} {w : World}
    (hu : unhindered (m.uses i w) i w = true) (ht : m.trap i w = none) (hw : m.waits i w = false) :
    issueDecoded m i ready fav q w =
      updGroup i.core i.slot (fun g => rekeyBooks g.paths g) (m.eff i (issueBase i ready fav q w)) := by
  simp only [unhindered, Bool.and_eq_true, Bool.not_eq_true'] at hu
  obtain ⟨⟨⟨⟨h1, h2⟩, h3⟩, h4⟩, h5⟩ := hu
  rw [Option.isNone_iff_eq_none] at h5
  simp [issueDecoded, consumeMark, h5, h4, issueTrap, h1, h2, h3, ht, hw, issueBase, nextPc]

/-- A quarter whose next instruction is the one commanded issues it. -/
theorem issue_runs {cls op : Nat} {m : Meaning} {a : At} {w : World} {i : Iss} (h : issued a w = some i)
    (hc : clsOp i.w1 = (cls, op)) (hd : opDefined cls op = true) :
    i.core = a.core ∧ ∃ ready fav, issue cls op m a w = issueDecoded m i ready fav a.quarter w := by
  unfold issued at h
  unfold issue
  by_cases h0 : (coreIssues w a.core && decide (a.quarter < 4)) = true
  · rw [if_pos h0] at h
    simp only [Bool.and_eq_true, decide_eq_true_eq] at h0
    have hg : ¬ ((!(coreIssues w a.core) || decide (4 ≤ a.quarter)) = true) := by
      simp only [h0.1, Bool.not_true, Bool.false_or, decide_eq_true_eq]
      omega
    dsimp only
    rw [if_neg hg]
    cases hs : chooseSlot w a with
    | none => rw [hs] at h; cases h
    | some s =>
      rw [hs] at h
      dsimp only at h ⊢
      cases hp : choosePath (groupOf w a.core (16 * a.quarter + s))
          (readyPaths (pathBlocked w a.core (16 * a.quarter + s)) (groupOf w a.core (16 * a.quarter + s)) a.lanes) with
      | none => rw [hp] at h; cases h
      | some x =>
        obtain ⟨⟨pc, path⟩, fav⟩ := x
        rw [hp] at h
        dsimp only at h ⊢
        cases hw : fetchWord w (coreOf w a.core) (launchOn w a.core).ctx pc with
        | wait => rw [hw] at h; cases h
        | fault => rw [hw] at h; cases h
        | word w1 =>
          rw [hw] at h
          dsimp only at h ⊢
          by_cases hb : bit w1 53 = true
          · rw [if_pos hb] at h
            cases hw2 : fetchWord w (coreOf w a.core) (launchOn w a.core).ctx (pc + 8) with
            | wait => rw [hw2] at h; cases h
            | fault => rw [hw2] at h; cases h
            | word w2 =>
              rw [hw2] at h
              cases h
              refine ⟨rfl, readyPaths (pathBlocked w a.core (16 * a.quarter + s)) (groupOf w a.core (16 * a.quarter + s)) a.lanes, fav, ?_⟩
              simp only [hc, hd, hb, Bool.not_true, Bool.false_eq_true, if_false, if_true, ne_eq, not_true_eq_false]
          · rw [if_neg hb] at h
            cases h
            refine ⟨rfl, readyPaths (pathBlocked w a.core (16 * a.quarter + s)) (groupOf w a.core (16 * a.quarter + s)) a.lanes, fav, ?_⟩
            simp only [hc, hd, hb, Bool.not_true, Bool.false_eq_true, if_false, ne_eq, not_true_eq_false]
  · rw [if_neg h0] at h
    cases h

end Sys2Proof.Machine
end

