-- ==== Sys2Proof/Laws/Groups.lean ====
section
/-!
SUPPORT. Reading registers after writing them, and what an issue does whose effect is on its own group alone.
-/
namespace Sys2Proof.Machine

/-! ### Registers -/

/-- g(n) of a lane reads what was written, g255 reads zero, and every other register of every lane is as before. -/
theorem gRead_gWrite {l l' : Nat} (n r : Nat) (v : W32) (g : Group) (hl : l < 32) (hl' : l' < 32) :
    gRead (gWrite n l v g) r l' = if r = n ∧ l' = l ∧ r ≠ 255 then v else gRead g r l' := by
  unfold gWrite gRead
  by_cases h255 : r = 255
  · simp [h255]
  · simp only [h255, if_false]
    by_cases hn : n = 255
    · subst hn; simp [h255]
    · by_cases hr : r = n ∧ l' = l
      · obtain ⟨rfl, rfl⟩ := hr
        simp only [hn, if_false, mgetD]
        split <;> simp_all
      · have hk : 32 * r + l' ≠ 32 * n + l := by omega
        have h3 : ¬ (r = n ∧ l' = l ∧ r ≠ 255) := fun h => hr ⟨h.1, h.2.1⟩
        rw [if_neg h3]
        simp only [hn, if_false, mgetD]
        split
        · rw [mget_mdel_ne _ hk]
        · rw [mget_mset_ne _ _ hk]

/-- u(n) reads what was written, and every other uniform register is as before. -/
theorem uRead_uWrite (n r : Nat) (v : W32) (g : Group) : uRead (uWrite n v g) r = if r = n then v else uRead g r := by
  unfold uWrite uRead
  by_cases h : r = n
  · subst h
    simp only [mgetD, if_true]
    split <;> simp_all
  · simp only [mgetD, h, if_false]
    split
    · rw [mget_mdel_ne _ h]
    · rw [mget_mset_ne _ _ h]

@[simp] theorem gWrite_u (n l : Nat) (v : W32) (g : Group) : (gWrite n l v g).u = g.u := by unfold gWrite; split <;> rfl
@[simp] theorem gWrite_p (n l : Nat) (v : W32) (g : Group) : (gWrite n l v g).p = g.p := by unfold gWrite; split <;> rfl
@[simp] theorem gWrite_threads (n l : Nat) (v : W32) (g : Group) : (gWrite n l v g).threads = g.threads := by
  unfold gWrite; split <;> rfl
@[simp] theorem gWrite_number (n l : Nat) (v : W32) (g : Group) : (gWrite n l v g).number = g.number := by
  unfold gWrite; split <;> rfl
@[simp] theorem gWrite_paths (n l : Nat) (v : W32) (g : Group) : (gWrite n l v g).paths = g.paths := by
  unfold gWrite; split <;> rfl
@[simp] theorem uWrite_g (n : Nat) (v : W32) (g : Group) : (uWrite n v g).g = g.g := rfl
@[simp] theorem uWrite_p (n : Nat) (v : W32) (g : Group) : (uWrite n v g).p = g.p := rfl
@[simp] theorem uWrite_threads (n : Nat) (v : W32) (g : Group) : (uWrite n v g).threads = g.threads := rfl
@[simp] theorem uWrite_number (n : Nat) (v : W32) (g : Group) : (uWrite n v g).number = g.number := rfl
@[simp] theorem uRead_gWrite (n l r : Nat) (v : W32) (g : Group) : uRead (gWrite n l v g) r = uRead g r := by
  simp [uRead]

theorem lanesOf_lt {m : W32} {l : Nat} (h : l ∈ lanesOf m) : l < 32 := by
  simp [lanesOf, bitList] at h; exact h.1

theorem bit_toNat (m : W32) (l : Nat) : bit m.toNat l = m.getLsbD l := by
  simp [bit, bits, BitVec.getLsbD, Nat.testBit, Nat.shiftRight_eq_div_pow, bne]
  rcases Nat.mod_two_eq_zero_or_one (m.toNat / 2 ^ l) with h | h <;> simp [h]

theorem mem_lanesOf {m : W32} {l : Nat} : l ∈ lanesOf m ↔ l < 32 ∧ m.getLsbD l = true := by
  simp [lanesOf, bitList, bit_toNat]

/-! ### An issue whose effect is on its group alone -/

/-- The group that issues is resident. -/
theorem issued_group {a : At} {w : World} {i : Iss} (h : issued a w = some i) :
    ∃ g, mget (coreOf w i.core).groups i.slot = some g ∧ groupOf w i.core i.slot = g := by
  unfold issued at h
  split at h
  · split at h
    · cases h
    · rename_i s hs
      have hr := List.find?_some hs
      unfold slotReady at hr
      simp only [Bool.and_eq_true] at hr
      have h2 := hr.2
      split at h2
      · rename_i g hg
        have hcs : i.core = a.core ∧ i.slot = 16 * a.quarter + s := by
          dsimp only at h
          split at h
          · cases h
          · split at h
            · split at h
              · split at h
                · cases h; exact ⟨rfl, rfl⟩
                · cases h
              · cases h; exact ⟨rfl, rfl⟩
            · cases h
        rw [hcs.1, hcs.2]
        exact ⟨g, hg, by simp [groupOf, mgetD, hg]⟩
      · cases h2
  · cases h

/-- Spending YIELD's marks does not look at the marks of poison. -/
theorem spendYields_unmark (q : Nat) (slots : List Nat) (p : Nat → Bool) (c : Core) :
    (spendYields q slots (unmark p c)).groups = (spendYields q slots c).groups := rfl

/-- Spending YIELD's marks keeps every group's registers and threads. -/
theorem spendYields_other (q : Nat) (slots : List Nat) : ∀ (c : Core) (k : Nat),
    (mget (spendYields q slots c).groups k).map groupRegs = (mget c.groups k).map groupRegs := by
  intro c k
  simp only [spendYields]
  generalize c.groups = gs
  induction slots generalizing gs with
  | nil => rfl
  | cons s t ih =>
    simp only [List.foldl_cons]
    rw [ih]
    by_cases h : k = 16 * q + s
    · subst h; rw [mget_mupd_same, Option.map_map]; rfl
    · rw [mget_mupd_ne _ _ h]


/-- The stamp of a step's start touches the scheduler alone. -/
theorem stampStart_kept (k : Nat) (w : World) : (stampStart k w).cores = w.cores ∧ (stampStart k w).regs = w.regs ∧
    (stampStart k w).mem = w.mem ∧ (stampStart k w).harts = w.harts ∧ (stampStart k w).fe = w.fe ∧
    (stampStart k w).irq = w.irq ∧ (stampStart k w).log = w.log ∧ (stampStart k w).net = w.net ∧
    (stampStart k w).saf = w.saf ∧ (stampStart k w).cas = w.cas ∧ (stampStart k w).outs = w.outs := by
  unfold stampStart
  split
  · simp
  · split <;> simp

/-- Counting an issue touches counters alone. -/
theorem countIssue_kept (n : Nat) (g : Group) (p : W32) (f : Bool) (w : World) :
    (countIssue n g p f w).cores = w.cores ∧ (countIssue n g p f w).mem = w.mem ∧
    (countIssue n g p f w).harts = w.harts ∧ (countIssue n g p f w).fe = w.fe ∧ (countIssue n g p f w).irq = w.irq ∧
    (countIssue n g p f w).log = w.log ∧ (countIssue n g p f w).net = w.net ∧ (countIssue n g p f w).saf = w.saf ∧
    (countIssue n g p f w).cas = w.cas ∧ (countIssue n g p f w).outs = w.outs ∧
    rg (countIssue n g p f w) (rKX_ISSUE n) = (rg w (rKX_ISSUE n) + 1) % 2 ^ 64 := by
  have h1 : rKX_ISSUE n ≠ rKX_DIVERGE n := by unfold rKX_ISSUE rKX_DIVERGE; omega
  have h2 : rKX_ISSUE n ≠ rKX_FAVOUR n := by unfold rKX_ISSUE rKX_FAVOUR; omega
  unfold countIssue
  dsimp only
  split <;> split <;> simp [rg_bump_ne _ _ h1, rg_bump_ne _ _ h2]

/-- What the books of an issue leave and write. -/
theorem issueBase_spec {i : Iss} {ready : Map W32} {fav : Bool} {q : Nat} {w : World} {g : Group}
    (hg : mget (coreOf w i.core).groups i.slot = some g) :
    groupOf (issueBase i ready fav q w) i.core i.slot =
      { g with threads := pastIssue i g, paths := issueBooks g ready i.pc fav } ∧
    (coreOf (issueBase i ready fav q w) i.core).flags = (coreOf w i.core).flags ∧
    RegFrame i w (issueBase i ready fav q w) := by
  have hgo : groupOf w i.core i.slot = g := by simp [groupOf, mgetD, hg]
  obtain ⟨s1, s2, s3, s4, s5, s6, s7, s8, s9, s10, s11⟩ := stampStart_kept (launchOn w i.core).work w
  obtain ⟨c1, c2, c3, c4, c5, c6, c7, c8, c9, c10, c11⟩ :=
    countIssue_kept i.core g i.path fav (stampStart (launchOn w i.core).work w)
  have hcore : ∀ n, coreOf (countIssue i.core g i.path fav (stampStart (launchOn w i.core).work w)) n = coreOf w n :=
    fun n => coreOf_congr (by rw [c1, s1]) n
  have hsp := spendYields_other q
    ((slotOrder (coreOf w i.core) q).takeWhile (fun s => 16 * q + s ≠ i.slot)) (coreOf w i.core)
  have hs := hsp i.slot
  rw [hg] at hs
  refine ⟨?_, ?_, ⟨?_, ?_, ?_, ?_⟩⟩
  · simp only [issueBase, hgo, updGroup]
    simp only [groupOf, coreOf_updCore_same, hcore, mgetD, mget_mupd_same]
    obtain ⟨g', hg', he⟩ : ∃ g', mget (spendYields q
      ((slotOrder (coreOf w i.core) q).takeWhile (fun s => 16 * q + s ≠ i.slot)) (coreOf w i.core)).groups i.slot
        = some g' ∧ groupRegs g' = groupRegs g := by
      cases h : mget (spendYields q
        ((slotOrder (coreOf w i.core) q).takeWhile (fun s => 16 * q + s ≠ i.slot)) (coreOf w i.core)).groups i.slot with
      | none => rw [h] at hs; cases hs
      | some g' => rw [h] at hs; exact ⟨g', rfl, by simpa using hs⟩
    rw [spendYields_unmark, hg']
    simp only [groupRegs, Prod.mk.injEq] at he
    obtain ⟨e1, e2, e3, e4, e5⟩ := he
    simp [setPcs, e1, e2, e3, e4, e5, pastIssue]
  · simp only [issueBase, hgo, updGroup, coreOf_updCore_same, hcore]
    rfl
  · refine ⟨?_, ?_, ?_, ?_, ?_, ?_, ?_, ?_, ?_, ?_⟩
    · simp [issueBase, hgo, c2, s3]
    · simp [issueBase, hgo, c3, s4]
    · simp [issueBase, hgo, c4, s5]
    · simp [issueBase, hgo, c5, s6]
    · simp [issueBase, hgo, c6, s7]
    · simp [issueBase, hgo, c7, s8]
    · simp [issueBase, hgo, c8, s9]
    · simp [issueBase, hgo, c9, s10]
    · simp [issueBase, hgo, c10, s11]
    · intro k hk
      simp only [issueBase, hgo, updGroup, coreOf_updCore_ne _ _ hk, hcore]
  · simp only [issueBase, hgo, updGroup, coreOf_updCore_same, hcore, CoreKept]
    simp [spendYields, unmark]
  · intro k hk
    simp only [issueBase, hgo, updGroup, coreOf_updCore_same, hcore, mget_mupd_ne _ _ hk]
    rw [← hsp k]
    rfl
  · rw [← rg_congr s2, ← c11]
    exact rg_congr (by simp [issueBase, hgo]) _

/-- An issue whose meaning changes its group alone: the group is what the effect makes of it, and nothing else changes. -/
theorem groupIssue {cls op : Nat} {uses : Iss → Group → Uses} {trap : Iss → Group → Option Nat}
    {eff : Iss → CoreLaunch → Group → Group × Flags} {a : At} {w : World} {i : Iss}
    (h : issued a w = some i) (hc : clsOp i.w1 = (cls, op)) (hd : opDefined cls op = true)
    (hu : unhindered (uses i (groupOf w i.core i.slot)) i w = true) (ht : trap i (groupOf w i.core i.slot) = none) :
    ∃ books, groupOf (issue cls op (groupMeaning uses trap eff) a w) i.core i.slot =
        rekeyBooks (eff i (launchOn w i.core)
          { groupOf w i.core i.slot with threads := pastIssue i (groupOf w i.core i.slot), paths := books }).1.paths
          (eff i (launchOn w i.core)
          { groupOf w i.core i.slot with threads := pastIssue i (groupOf w i.core i.slot), paths := books }).1 ∧
      (coreOf (issue cls op (groupMeaning uses trap eff) a w) i.core).flags = (coreOf w i.core).flags |||
        (eff i (launchOn w i.core)
          { groupOf w i.core i.slot with threads := pastIssue i (groupOf w i.core i.slot), paths := books }).2 ∧
      RegFrame i w (issue cls op (groupMeaning uses trap eff) a w) := by
  obtain ⟨g, hg, hgo⟩ := issued_group h
  obtain ⟨-, ready, fav, hi⟩ := issue_runs (m := groupMeaning uses trap eff) h hc hd
  rw [hi, issueDecoded_runs hu ht rfl]
  obtain ⟨b1, b2, b3, b4, b5, b6⟩ := issueBase_spec (ready := ready) (fav := fav) (q := a.quarter) hg
  have hl : launchOn (issueBase i ready fav a.quarter w) i.core = launchOn w i.core := by
    unfold launchOn; rw [b4.1]
  refine ⟨issueBooks g ready i.pc fav, ?_, ?_, ?_, ?_, ?_, ?_⟩
  · simp only [groupMeaning, updGroup, groupOf, coreOf_updCore_same, mgetD, mget_mupd_same, mget_mset_same]
    rw [hl]
    have := b1
    simp only [groupOf, mgetD] at this hgo
    simp only [this, hg]
    rfl
  · simp only [groupMeaning, updGroup, coreOf_updCore_same]
    rw [hl, b1, b2, hgo]
  · obtain ⟨x1, x2, x3, x4, x5, x6, x7, x8, x9, x10⟩ := b3
    refine ⟨?_, ?_, ?_, ?_, ?_, ?_, ?_, ?_, ?_, ?_⟩ <;> try (simp [groupMeaning, *])
    intro k hk
    simp only [updGroup, coreOf_updCore_ne _ _ hk]
    exact x10 k hk
  · simpa [groupMeaning, updGroup, CoreKept] using b4
  · intro k hk
    simp only [groupMeaning, updGroup, coreOf_updCore_same, mget_mupd_ne _ _ hk, mget_mset_ne _ _ hk]
    exact b5 k hk
  · rw [← b6]; exact rg_congr (by simp [groupMeaning]) _
end Sys2Proof.Machine
end

