-- ==== Sys2Proof/Laws/Int.lean ====
section
/-!
SUPPORT. What writing an ALU result does to the registers of a group.
-/
namespace Sys2Proof.Machine

/-- A register result is written in every lane whose guard holds, or once to a uniform register, and nowhere else. -/
theorem putReg_regs (i : Iss) (v : Nat → W32) (g : Group) :
    (∀ r l, l < 32 → gRead (putReg i v g) r l =
      if fDu i = false ∧ r = fD i ∧ i.ex.getLsbD l = true ∧ r ≠ 255 then v l else gRead g r l) ∧
    (∀ r, uRead (putReg i v g) r =
      if fDu i = true ∧ r = fD i then (match leadLane i with | some l => v l | none => uRead g r) else uRead g r) ∧
    (putReg i v g).p = g.p ∧ (putReg i v g).threads = g.threads ∧ (putReg i v g).number = g.number := by
  unfold putReg
  by_cases hdu : fDu i = true
  · simp only [hdu, if_true]
    cases hl : leadLane i with
    | none => simp
    | some l =>
      refine ⟨fun r l _ => ?_, fun r => ?_, rfl, rfl, rfl⟩
      · simp [gRead]
      · simp [uRead_uWrite]
  · simp only [Bool.not_eq_true] at hdu
    simp only [hdu, Bool.false_eq_true, if_false]
    have key : ∀ (ls : List Nat) (g : Group), (∀ l ∈ ls, l < 32) →
        (∀ r l, l < 32 → gRead (forAll ls (fun l g => gWrite (fD i) l (v l) g) g) r l =
          if r = fD i ∧ l ∈ ls ∧ r ≠ 255 then v l else gRead g r l) ∧
        (forAll ls (fun l g => gWrite (fD i) l (v l) g) g).u = g.u ∧
        (forAll ls (fun l g => gWrite (fD i) l (v l) g) g).p = g.p ∧
        (forAll ls (fun l g => gWrite (fD i) l (v l) g) g).threads = g.threads ∧
        (forAll ls (fun l g => gWrite (fD i) l (v l) g) g).number = g.number := by
      intro ls
      induction ls with
      | nil => intro g _; simp [forAll]
      | cons x t ih =>
        intro g hx
        obtain ⟨h1, h2, h3, h4, h5⟩ := ih (gWrite (fD i) x (v x) g) (fun l hl => hx l (by simp [hl]))
        have e : forAll (x :: t) (fun l g => gWrite (fD i) l (v l) g) g =
          forAll t (fun l g => gWrite (fD i) l (v l) g) (gWrite (fD i) x (v x) g) := rfl
        rw [e]
        refine ⟨fun r l hl => ?_, by rw [h2]; simp, by rw [h3]; simp, by rw [h4]; simp, by rw [h5]; simp⟩
        rw [h1 r l hl, gRead_gWrite _ _ _ _ (hx x (by simp)) hl]
        by_cases h : r = fD i ∧ l ∈ t ∧ r ≠ 255
        · rw [if_pos h, if_pos ⟨h.1, by simp [h.2.1], h.2.2⟩]
        · rw [if_neg h]
          by_cases h' : r = fD i ∧ l = x ∧ r ≠ 255
          · rw [if_pos h', if_pos ⟨h'.1, by simp [h'.2.1], h'.2.2⟩, h'.2.1]
          · rw [if_neg h', if_neg]
            rintro ⟨q1, q2, q3⟩
            rcases List.mem_cons.1 q2 with q | q
            · exact h' ⟨q1, q, q3⟩
            · exact h ⟨q1, q, q3⟩
    obtain ⟨h1, h2, h3, h4, h5⟩ := key (lanesOf i.ex) g (fun l hl => lanesOf_lt hl)
    refine ⟨fun r l hl => ?_, fun r => ?_, h3, h4, h5⟩
    · rw [h1 r l hl]; simp [mem_lanesOf, hl]
    · simp [uRead, h2]

end Sys2Proof.Machine
end

