-- ==== Sys2Proof/Laws/Memory.lean ====
section
/-!
SUPPORT. Every operation by which the device or a hart reaches main memory keeps memory in its canonical form, and
leaves the front end and the cores as they were.
-/
namespace Sys2Proof.Machine

/-- Repeating an operation keeps what each run of it keeps. -/
theorem forAll_keeps {α σ : Type} {P : σ → Prop} {f : α → σ → σ} (h : ∀ x s, P s → P (f x s)) :
    ∀ (l : List α) (s : σ), P s → P (forAll l f s)
  | [], _, hs => hs
  | x :: t, s, hs => forAll_keeps h t (f x s) (h x s hs)

/-- So does folding with it. -/
theorem foldl_keeps {α σ : Type} {P : σ → Prop} {f : σ → α → σ} (h : ∀ s x, P s → P (f s x)) (l : List α) (s : σ)
    (hs : P s) : P (l.foldl f s) := forAll_keeps (f := fun x s => f s x) (fun x s => h s x) l s hs

/-- What the operations below keep: memory in its canonical form, the front end, the cores, the RAS log, and a property of
the poisoned lines and of the writes that reservations hold, which a read does not touch. -/
def HomeKept (fe : Fe) (cs : Map Core) (lg : Map LogEntry) (q : List Nat → List LaterWrite → Prop) (w : World) : Prop :=
  Memory.wf w.mem.bytes = true ∧ w.fe = fe ∧ w.cores = cs ∧ w.log = lg ∧ q w.mem.poison w.mem.later

/-- No line is poisoned and no write is held. -/
def NoPoison (p : List Nat) (l : List LaterWrite) : Prop := p = [] ∧ l = []

section
variable {fe : Fe} {cs : Map Core} {lg : Map LogEntry} {q : List Nat → List LaterWrite → Prop} {w : World}

theorem bump_home (off k : Nat) (h : HomeKept fe cs lg q w) : HomeKept fe cs lg q (bump w off k) := h

theorem putBytes_home (pa : Nat) (bs : List Byte) (h : HomeKept fe cs lg q w) : HomeKept fe cs lg q (putBytes pa bs w) :=
  ⟨memCanon_listSet bs pa h.1, h.2⟩

theorem leaveL1_home (x line : Nat) (h : HomeKept fe cs lg q w) : HomeKept fe cs lg q (leaveL1 x line w) := h

theorem dropCode_home (line : Nat) (h : HomeKept fe cs lg q w) : HomeKept fe cs lg q (dropCode line w) := h

theorem writeBack_home (x line : Nat) (s : Bool) (h : HomeKept fe cs lg q w) : HomeKept fe cs lg q (writeBack x line s w) := by
  unfold writeBack
  split
  · exact h
  · cases s <;> exact ⟨memCanon_listSet _ _ h.1, h.2⟩

theorem recallRead_home (line : Nat) (h : HomeKept fe cs lg q w) : HomeKept fe cs lg q (recallRead line w) := by
  unfold recallRead
  split
  · exact writeBack_home _ _ _ h
  · exact h

theorem recallCopies_home (line : Nat) (h : HomeKept fe cs lg q w) : HomeKept fe cs lg q (recallCopies line w) := by
  have hb : HomeKept fe cs lg q (match ownerOf w line with | some x => writeBack x line false w | none => w) := by
    split
    · exact writeBack_home _ _ _ h
    · exact h
  have hf := forAll_keeps (P := HomeKept fe cs lg q) (f := fun h w =>
    updHart h (fun x => { x with sLines := x.sLines.filter (· ≠ line) }) (leaveL1 h line w))
    (fun _ _ hs => hs) (holdersOf w line) _ hb
  unfold recallCopies
  dsimp only
  split <;> exact hf

theorem recallWrite_home (line : Nat) (h : HomeKept fe cs lg q w) : HomeKept fe cs lg q (recallWrite line w) :=
  recallCopies_home line h

theorem recallEvict_home (ln : Nat) (h : HomeKept fe cs lg q w) : HomeKept fe cs lg q (recallEvict ln w) :=
  forAll_keeps (P := HomeKept fe cs lg q) (fun _ _ hs => recallCopies_home _ hs) _ _ h

theorem countBehind_home (ln : Nat) (wr : Bool) (h : HomeKept fe cs lg q w) : HomeKept fe cs lg q (countBehind ln wr w) := by
  unfold countBehind
  dsimp only
  split <;> split <;> exact h

theorem countHome_home (pa n : Nat) (wr : Bool) (h : HomeKept fe cs lg q w) : HomeKept fe cs lg q (countHome pa n wr w) := by
  unfold countHome
  split
  · exact h
  · split <;> exact h

theorem installLine_home (ln : Nat) (d : Bool) (h : HomeKept fe cs lg q w) : HomeKept fe cs lg q (installLine ln d w) := h

theorem installFill_home (f : Fill) (h : HomeKept fe cs lg q w) : HomeKept fe cs lg q (installFill f w) :=
  countBehind_home _ _ h

theorem makeRoom_home (ln v : Nat) (fill : Bool) (h : HomeKept fe cs lg q w) : HomeKept fe cs lg q (makeRoom ln v fill w) := by
  unfold makeRoom
  dsimp only
  split
  · exact h
  · have hi : HomeKept fe cs lg q (if (setLines w ln).isEmpty = true then
        (match setFills w ln with | f :: _ => installFill f w | [] => w) else w) := by
      split
      · split
        · exact installFill_home _ h
        · exact h
      · exact h
    generalize (if (setLines w ln).isEmpty = true then _ else w) = w1 at hi ⊢
    generalize (if (List.filter _ (setLines w1 ln)).contains v = true then some v else _) = g
    cases g with
    | none => exact hi
    | some g =>
      have hr := recallEvict_home g hi
      dsimp only
      split
      · refine countBehind_home _ _ ?_
        split <;> exact hr
      · exact hr

theorem lineRequest_home (u : LineUser) (c : Nat) (use : LineUse) (ln v : Nat) (h : HomeKept fe cs lg q w) :
    HomeKept fe cs lg q (lineRequest u c use ln v w) := by
  unfold lineRequest
  dsimp only
  split
  · exact h
  · have hb : HomeKept fe cs lg q (if inHbm (128 * ln) = true then
        bump w (if (mget w.mem.lines ln).isSome = true then rMEM_SC_HIT else rMEM_SC_MISS) 1 else w) := by
      split <;> exact h
    generalize (if inHbm (128 * ln) = true then _ else w) = w1 at hb ⊢
    repeat' split
    all_goals first
      | exact hb
      | exact installLine_home _ _ (makeRoom_home _ _ _ hb)
      | exact makeRoom_home ln v true hb

theorem touchLine_home (k : Nat) (use : LineUse) (pa : Nat) (h : HomeKept fe cs lg q w) :
    HomeKept fe cs lg q (touchLine k use pa w) := by
  refine lineRequest_home _ _ _ _ _ ?_
  unfold awaitHome
  repeat' split
  all_goals exact h

/-- A write at its homes keeps all of it. -/
theorem writeHome_home (k pa : Nat) (bs : List Byte) (h : HomeKept fe cs lg (fun _ _ => True) w) : HomeKept fe cs lg (fun _ _ => True) (writeHome k pa bs w) :=
  putBytes_home pa bs (countHome_home _ _ _
    (forAll_keeps (P := HomeKept fe cs lg (fun _ _ => True)) (f := fun l => touchLine k (lineUse pa bs.length l) l)
      (fun _ _ hs => touchLine_home _ _ _ hs) _ _
      (forAll_keeps (P := HomeKept fe cs lg (fun _ _ => True)) (fun _ _ hs => recallWrite_home _ hs) _ _ h)))

/-- So do the writes that a reservation held, when they take place. -/
theorem landLater_home (p : Nat → Bool) (h : HomeKept fe cs lg (fun _ _ => True) w) : HomeKept fe cs lg (fun _ _ => True) (landLater p w) := by
  unfold landLater
  dsimp only
  split
  · exact h
  · refine forAll_keeps (P := HomeKept fe cs lg (fun _ _ => True)) (fun _ _ hs => ?_) _ _ ?_
    · split <;> exact writeHome_home _ _ _ hs
    · exact h

theorem awaitLater_home (pa n : Nat) (h : HomeKept fe cs lg (fun _ _ => True) w) : HomeKept fe cs lg (fun _ _ => True) (awaitLater pa n w) := landLater_home _ h

theorem writeMain_home (k pa : Nat) (bs : List Byte) (h : HomeKept fe cs lg (fun _ _ => True) w) : HomeKept fe cs lg (fun _ _ => True) (writeMain k pa bs w) := by
  unfold writeMain
  dsimp only
  have ha := awaitLater_home (w := w) pa bs.length h
  split
  · refine forAll_keeps (P := HomeKept fe cs lg (fun _ _ => True)) (fun g s hs => ?_) _ _ ha
    split
    · exact hs
    · exact writeHome_home _ _ _ hs
  · exact writeHome_home _ _ _ ha

/-- What a device read keeps, once the writes it is behind have landed. -/
theorem served_home (k pa n : Nat) (h : HomeKept fe cs lg q w) :
    HomeKept fe cs lg q (countHome pa n false (forAll (linesOf pa n) (touchLine k .read) (forAll (granules pa n) recallRead w))) :=
  countHome_home _ _ _ (forAll_keeps (P := HomeKept fe cs lg q) (fun _ _ hs => touchLine_home _ _ _ hs) _ _
    (forAll_keeps (P := HomeKept fe cs lg q) (fun _ _ hs => recallRead_home _ hs) _ _ h))

/-- A message that a link takes, or that waits there, and a request to the chiplet touch none of it. -/
theorem flitsDue_home (l : Nat) (h : HomeKept fe cs lg q w) : HomeKept fe cs lg q (flitsDue l w) := by
  refine forAll_keeps (P := HomeKept fe cs lg q) (fun _ s hs => ?_) _ _ h
  unfold sendFlit
  dsimp only
  repeat' split
  all_goals exact hs

theorem pumpOut_home (l ch : Nat) (h : HomeKept fe cs lg q w) : HomeKept fe cs lg q (pumpOut l ch w) := by
  refine forAll_keeps (P := HomeKept fe cs lg q) (fun _ s hs => ?_) _ _ h
  repeat' split
  · exact flitsDue_home (w := updFlits _ (updFlits _ s)) _ hs
  · exact hs
  · exact hs

theorem chipRequest_home (u : ChipUser) (op line : Nat) (data : List Byte) (h : HomeKept fe cs lg q w) :
    HomeKept fe cs lg q (chipRequest u op line data w) := by
  unfold chipRequest finovSendFrom finovPost
  dsimp only
  split
  · exact h
  · exact pumpOut_home _ _ h

theorem chipRead_home (pa n : Nat) (h : HomeKept fe cs lg q w) : HomeKept fe cs lg q (chipRead pa n w).2 := by
  unfold chipRead
  dsimp only
  split
  · exact forAll_keeps (P := HomeKept fe cs lg q) (fun _ _ hs => chipRequest_home _ _ _ _ hs) _ w h
  · exact h

theorem chipWrite_home (u : ChipUser) (pa : Nat) (bs : List Byte) (h : HomeKept fe cs lg q w) :
    HomeKept fe cs lg q (chipWrite u pa bs w) := by
  unfold chipWrite
  split
  · exact h
  · refine forAll_keeps (P := HomeKept fe cs lg q) (fun _ s hs => ?_) _ _ h
    unfold chipWriteLine
    dsimp only
    split <;> exact chipRequest_home _ _ _ _ hs

/-- A device read keeps all of it. -/
theorem devRead_home (k pa n : Nat) (h : HomeKept fe cs lg (fun _ _ => True) w) :
    HomeKept fe cs lg (fun _ _ => True) (devRead k pa n w).2 := by
  unfold devRead
  split
  · exact served_home _ _ _ (awaitLater_home _ _ h)
  · split
    · exact chipRead_home _ _ h
    · exact h

/-- With nothing poisoned and no write held, a device read keeps that too. -/
theorem devRead_clean (k pa n : Nat) (h : HomeKept fe cs lg NoPoison w) : HomeKept fe cs lg NoPoison (devRead k pa n w).2 := by
  have ha : awaitLater pa n w = w := by simp [awaitLater, landLater, h.2.2.2.2.2]
  unfold devRead
  split
  · dsimp only
    rw [ha]
    exact served_home _ _ _ h
  · split
    · exact chipRead_home _ _ h
    · exact h

theorem vaDevRead_clean (k ctx va n : Nat) (h : HomeKept fe cs lg NoPoison w) :
    HomeKept fe cs lg NoPoison (vaDevRead k ctx va n w).2 := by
  refine foldl_keeps (P := fun a : List Byte × World => HomeKept fe cs lg NoPoison a.2) (fun acc i hs => ?_) _ _ h
  dsimp only
  split
  · exact devRead_clean _ _ _ hs
  · exact hs

/-- A stream's training and its prefetches touch none of it. -/
theorem prefetchLine_home (line : Nat) (h : HomeKept fe cs lg q w) : HomeKept fe cs lg q (prefetchLine line w) := by
  unfold prefetchLine
  dsimp only
  repeat' split
  all_goals first
    | exact h
    | exact makeRoom_home line _ true h

theorem trainStream_home (unit hint line : Nat) (h : HomeKept fe cs lg q w) :
    HomeKept fe cs lg q (trainStream unit hint line w) := by
  unfold trainStream
  dsimp only
  repeat' split
  all_goals first
    | exact h
    | skip
  unfold issuePrefetch
  split
  · exact h
  · refine forAll_keeps (P := HomeKept fe cs lg q) (fun _ s hs => ?_) _ _ h
    dsimp only
    split
    · exact prefetchLine_home _ hs
    · exact hs

/-- An engine's stream of reads poisons nothing. -/
theorem streamRead_clean (k unit hint ctx va n : Nat) (h : HomeKept fe cs lg NoPoison w) :
    HomeKept fe cs lg NoPoison (streamRead k unit hint ctx va n w).2 :=
  vaDevRead_clean _ _ _ _ (forAll_keeps (P := HomeKept fe cs lg NoPoison) (fun _ s hs => by
    split
    · exact trainStream_home _ _ _ hs
    · exact hs) _ w h)

/-- A device write keeps all of it. -/
theorem devWrite_home (k pa : Nat) (bs : List Byte) (h : HomeKept fe cs lg (fun _ _ => True) w) :
    HomeKept fe cs lg (fun _ _ => True) (devWrite k pa bs w) := by
  unfold devWrite
  dsimp only
  repeat' split
  · exact h
  · exact writeMain_home _ _ _ h
  · exact h
  · exact chipWrite_home _ _ _ h
  · exact h

end

end Sys2Proof.Machine
end

