-- ==== Sys2Proof/Laws/Regs.lean ====
section
/-!
SUPPORT. What reading a field of a register answers after a field, a register or a counter has been written.
-/
namespace Sys2Proof.Machine

theorem bits_lt (x lo n : Nat) : bits x lo n < 2 ^ n := Nat.mod_lt _ (Nat.two_pow_pos n)

theorem bits_eq (x lo n : Nat) : bits x lo n = x / 2 ^ lo % 2 ^ n := by rw [bits, Nat.shiftRight_eq_div_pow]

/-- A field below bit 64 is that of the 64-bit register. -/
theorem bits_mod_word (x lo n : Nat) (h : lo + n ≤ 64) : bits (x % 2 ^ 64) lo n = bits x lo n := by
  have e : 2 ^ 64 = 2 ^ lo * 2 ^ (64 - lo) := by rw [← Nat.pow_add]; congr 1; omega
  rw [bits_eq, bits_eq, e, Nat.mod_mul_right_div_self, Nat.mod_mod_of_dvd _ (Nat.pow_dvd_pow 2 (by omega))]

/-- A number is its bits above a field, the field and its bits below. -/
theorem split_field (x lo n : Nat) :
    x = 2 ^ lo * (2 ^ n * (x / 2 ^ lo / 2 ^ n)) + bits x lo n * 2 ^ lo + x % 2 ^ lo := by
  have hx := Nat.div_add_mod x (2 ^ lo)
  have hq := Nat.div_add_mod (x / 2 ^ lo) (2 ^ n)
  rw [bits_eq, Nat.mul_comm (x / 2 ^ lo % 2 ^ n), ← Nat.mul_add, hq, hx]

/-- A number one of whose fields has been replaced, in the same form. -/
theorem setBits_split (x lo n v : Nat) :
    setBits x lo n v = x % 2 ^ lo + 2 ^ lo * (2 ^ n * (x / 2 ^ lo / 2 ^ n) + v % 2 ^ n) := by
  have h := split_field x lo n
  rw [setBits, Nat.mul_add, Nat.mul_comm (2 ^ lo) (v % 2 ^ n)]
  omega

/-- The quotient of a number one of whose fields has been replaced. -/
theorem setBits_div (x lo n v : Nat) :
    setBits x lo n v / 2 ^ lo = 2 ^ n * (x / 2 ^ lo / 2 ^ n) + v % 2 ^ n := by
  have hp := Nat.two_pow_pos lo
  rw [setBits_split, Nat.add_mul_div_left _ _ hp, Nat.div_eq_of_lt (Nat.mod_lt _ hp), Nat.zero_add]

/-- A replaced field reads what was stored. -/
theorem bits_setBits_same (x lo n v : Nat) : bits (setBits x lo n v) lo n = v % 2 ^ n := by
  rw [bits_eq, setBits_div, Nat.mul_add_mod, Nat.mod_mod]

/-- A field above the replaced one is as it was. -/
theorem bits_setBits_above (x lo n v : Nat) {lo' : Nat} (n' : Nat) (h : lo + n ≤ lo') :
    bits (setBits x lo n v) lo' n' = bits x lo' n' := by
  have e : 2 ^ lo' = 2 ^ lo * 2 ^ n * 2 ^ (lo' - (lo + n)) := by
    rw [← Nat.pow_add, ← Nat.pow_add]; congr 1; omega
  rw [bits_eq, bits_eq, e, ← Nat.div_div_eq_div_mul, ← Nat.div_div_eq_div_mul, setBits_div,
    Nat.mul_add_div (Nat.two_pow_pos n), Nat.div_eq_of_lt (Nat.mod_lt v (Nat.two_pow_pos n)), Nat.add_zero,
    ← Nat.div_div_eq_div_mul, ← Nat.div_div_eq_div_mul]

/-- A field below the replaced one is as it was. -/
theorem bits_setBits_below (x lo n v : Nat) {lo' n' : Nat} (h : lo' + n' ≤ lo) :
    bits (setBits x lo n v) lo' n' = bits x lo' n' := by
  have hm : setBits x lo n v % 2 ^ lo = x % 2 ^ lo := by
    rw [setBits_split, Nat.add_mul_mod_self_left, Nat.mod_mod]
  have cut (y : Nat) : bits y lo' n' = bits (y % 2 ^ lo) lo' n' := by
    have e : 2 ^ lo = 2 ^ lo' * 2 ^ (lo - lo') := by rw [← Nat.pow_add]; congr 1; omega
    rw [bits_eq, bits_eq, e, Nat.mod_mul_right_div_self, Nat.mod_mod_of_dvd _ (Nat.pow_dvd_pow 2 (by omega))]
  rw [cut, hm, ← cut]

/-- A field of a register that was stored whole. -/
theorem fld_rgSet_same (w : World) (off v lo n : Nat) (h : lo + n ≤ 64) : fld (rgSet w off v) off lo n = bits v lo n := by
  rw [fld, rg, rgSet, mget_mset_same]
  show bits (BitVec.ofNat 64 v).toNat lo n = _
  rw [BitVec.toNat_ofNat, bits_mod_word _ _ _ h]

/-- A register other than the one stored. -/
theorem fld_rgSet_ne (w : World) {off off' : Nat} (v lo n : Nat) (h : off' ≠ off) :
    fld (rgSet w off v) off' lo n = fld w off' lo n := by
  simp [fld, rg, rgSet, mget_mset_ne _ _ h]

/-- A field that was stored. -/
theorem fld_fldSet_same (w : World) (off lo n v : Nat) (h : lo + n ≤ 64) :
    fld (fldSet w off lo n v) off lo n = v % 2 ^ n := by
  rw [fldSet, fld_rgSet_same _ _ _ _ _ h, bits_setBits_same]

/-- Another field of the register of which one was stored. -/
theorem fld_fldSet_other (w : World) (off lo n v lo' n' : Nat) (h : lo + n ≤ lo' ∨ lo' + n' ≤ lo) (h' : lo' + n' ≤ 64) :
    fld (fldSet w off lo n v) off lo' n' = fld w off lo' n' := by
  rw [fldSet, fld_rgSet_same _ _ _ _ _ h']
  cases h with
  | inl h => exact bits_setBits_above _ _ _ _ _ h
  | inr h => exact bits_setBits_below _ _ _ _ h

theorem fld_fldSet_ne (w : World) {off off' : Nat} (lo n v lo' n' : Nat) (h : off' ≠ off) :
    fld (fldSet w off lo n v) off' lo' n' = fld w off' lo' n' := fld_rgSet_ne _ _ _ _ h

theorem fld_bump_ne (w : World) {off off' : Nat} (k lo n : Nat) (h : off' ≠ off) :
    fld (bump w off k) off' lo n = fld w off' lo n := fld_rgSet_ne _ _ _ _ h

end Sys2Proof.Machine
end

