-- ==== Sys2Proof/WellFormed.lean ====
section
/-!
DEFINITION. Well-formed commands: each operand within the range the spec gives the thing it numbers. Operands whose
values a rule checks (an entry's number, a domain in PWR_CMD, a length) are not restricted here.
-/
namespace Sys2Proof

/-- A compute core by its logical number (R19, R22): 16 clusters of 16. -/
def okCore (n : Nat) : Bool := decide (n < 256)
/-- An issue names a core and one of its four quarters (R108). -/
def At.wf (a : At) : Bool := okCore a.core && decide (a.quarter < 4)
/-- A partition (R343). -/
def okPart (p : Nat) : Bool := decide (p < 16)
/-- A queue (R292). -/
def okQueue (q : Nat) : Bool := decide (q < 1024)
/-- A slot of the front end (R302). -/
def okSlot (s : Nat) : Bool := decide (s < 32)
/-- A notification ring of one side (R291, R316). -/
def okRing (r : Nat) : Bool := decide (r < 64)
/-- A hart (R262). -/
def okHart (h : Nat) : Bool := decide (h < 32)
/-- The size of a hart's access in bytes. -/
def okSize (n : Nat) : Bool := n == 1 || n == 2 || n == 4 || n == 8 || n == 16
/-- An HBM stack, its slice and its Saffron unit (R233). -/
def okStack (s : Nat) : Bool := decide (s < 12)
/-- A compute die (R18). -/
def okDie (d : Nat) : Bool := decide (d < 4)
/-- A power domain (R440). -/
def okDomain (d : Nat) : Bool := decide (d < 144)
/-- A network port: 16 optical, 4 electrical (R394). -/
def okPort (p : Nat) : Bool := decide (p < 20)
/-- A network barrier group (R389). -/
def okNbg (g : Nat) : Bool := decide (g < 16)
/-- A barrier (R385). -/
def okBarrier (b : Nat) : Bool := decide (b < 64)
/-- A Finov link (R421). -/
def okLink (l : Nat) : Bool := decide (l < 4)
/-- A RoCEv2 connection (R402), and the twin pair's internal one, 16,384 (R411). -/
def okConn (c : Nat) : Bool := decide (c ≤ 16384)
/-- A packet sequence number, or the number of a queue pair (R402, R403). -/
def okPsn (n : Nat) : Bool := decide (n < 2 ^ 24)
/-- A unit number, 12 bits (R17). -/
def okUnit (u : Nat) : Bool := decide (u < 2 ^ 12)
/-- A context number, 20 bits (R319). -/
def okContext (c : Nat) : Bool := decide (c < 2 ^ 20)
/-- A value written to a register, 64 bits (R5). -/
def okReg (v : Nat) : Bool := decide (v < 2 ^ 64)
/-- A physical address, 52 bits (R231). -/
def okAddr (a : Nat) : Bool := decide (a < 2 ^ 52)
/-- The writer of a register (R436): 0 the external host over PCIe, 1 a hart of the control complex. -/
def okAgent (a : Nat) : Bool := decide (a < 2)

/-- Is a command well-formed? -/
def Instr.wf : Instr → Bool
  | .registerWrite agent _ _ v => okAgent agent && okReg v
  | .unmappedAccess _ _ => true
  | .messageDelivery src => okUnit src
  | .ringEntryAcknowledged r | .ringTailAcknowledged r => okRing (r % 64) && decide (r < 128)
  | .ringEnable n v | .ringDisable n v | .ccNqHeadWrite n v | .hnRingEnable n v _ | .hnRingDisable n v
  | .feHnHeadWrite n v => okRing n && okReg v
  | .groupPlace p _ => okPart p
  | .iadd a | .isub a | .imul a | .imulhiU a | .imulhiS a | .imad a | .iminS a | .iminU a | .imaxS a
  | .imaxU a | .and a | .or a | .xor a | .shl a | .shr a | .sar a | .bfeU a | .bfeS a | .bfi a | .popc a
  | .clz a | .brev a | .mov a | .sel a | .isetp a | .pset a | .iadd64 a | .shfl a | .vote a | .readlane a
  | .fadd a | .fmul a | .ffma a | .fmin a | .fmax a | .fsetp a | .rcp a | .rsq a | .sqrt a | .ex2 a | .lg2 a
  | .vdot a | .vdotZ a | .cvt a | .cvtF2s a | .cvtF2u a | .cvtS2f a | .cvtU2f a | .cvtB16e a | .cvtB16f a
  | .cvtB32e a | .cvtB32f a | .cvtKbe a | .cvtKbd a | .ld a | .st a | .ldu a | .atomAdd a | .atomMin a
  | .atomMax a | .atomAnd a | .atomOr a | .atomXor a | .atomExch a | .atomCas a | .semSig a | .semWait a
  | .semRd a | .barArv a | .bra a | .brx a | .call a | .exitThreads a | .gjoin a | .yield a | .brk a
  | .nop a | .mload a | .mswap a | .mstream a | .mdrain a | .accRd a | .accWr a | .tmCopy a | .tmXpose a
  | .ftRd a | .ftWait a => a.wf
  | .ftWaitRelease n => okCore n
  | .watch a | .fencePub a | .cacheInv a => a.wf
  | .coreStopped n => okCore n
  | .quarterGate n q _ => okCore n && decide (q < 4)
  | .slmGrant n _ | .memoryAccessCheck n _ | .tableWalkComplete n _ | .loadReturn n _
  | .writeAcknowledge n _ | .sliceLineRequest n _ _ _ => okCore n
  | .hbmRunComplete _ | .agePromote _ => true
  | .sliceInvalidateComplete slice => okStack slice
  | .systemCacheInvalidateComplete | .tlbInvalidateConfirmed | .pageClearComplete _ => true
  | .thermalRead stack _ => okStack stack
  | .matrixDispatch n _ | .mloadComplete n | .mstreamComplete n _ | .drainDestinationReadReturn n
  | .mdrainComplete n | .launchClearComplete n | .tensorMoverStart n | .tensorMoverComplete n => okCore n
  | .offload _ | .offloadAcknowledged | .prefetch _ | .prefetchPageMapped | .casDiscard _ | .pageInComplete
  | .safUpdate _ | .factorLoad _ | .progLoad _ => true
  | .recordUpdate u _ _ | .factorLoadCopyComplete u _ => okStack u
  | .saffronCommandComplete _ | .mapObject _ | .mapResume _ | .unmapObject _ | .aliasObject _ | .modelReg _
  | .modelDereg _ | .modelPin _ | .modelUnpin _ | .modelHot _ | .promotionPageLanded _ | .evictionComplete _ => true
  | .hartLoad h pa n pbmt _ _ | .hartStore h pa n _ pbmt _ _ | .hartAmo h pa _ n _ _ pbmt _ _
  | .lr h pa n pbmt _ _ | .sc h pa n _ pbmt _ _ => okHart h && okAddr pa && okSize n && decide (pbmt < 4)
  | .fence h _ _ | .fenceI h => okHart h
  | .cboZero h pa pbmt _ => okHart h && okAddr pa && decide (pbmt < 4)
  | .wrsNto h | .wrsSto h | .wrsTimeout h | .hartTrapEntry h _ | .storeBufferDrain h
  | .combiningIdleTimeout h _ | .reservationHoldExpiry h | .hartPowerdownAck h => okHart h
  | .handshakeTimeout d => okDomain d
  | .doorbell q v _ => okQueue q && okReg v
  | .entryFetch q _ | .entryRelease q => okQueue q
  | .entryComplete _ | .entryTimeout _ | .entryNop _ | .launch _ | .waitEntry _ | .waitFrameTimeReached _
  | .chip _ _ | .graphRun _ | .graphCreate _ | .graphPatch _ | .graphDestroy _ => true
  | .slotMap q slot => okQueue q && okSlot slot
  | .preload p _ | .preloadComplete p | .launchStart p | .launchComplete p => okPart p
  | .epochMove _ => true
  | .queueEnable q | .queueDisable q | .queueDestroy q | .destroyQuiesced q => okQueue q
  | .ctxCreate _ | .ctxKill | .ctxDestroy => true
  | .contextDestroyComplete ctx => okContext ctx
  | .memcmd | .mapIo | .subscribe | .unsubscribe => true
  | .feCtxFlagsClear v => okReg v
  | .objectFree _ | .functionLevelReset | .bucketRefill => true
  | .swapOutComplete ctx | .swapInComplete ctx => okContext ctx
  | .launchSaved p | .restoreComplete p => okPart p
  | .stepRelease _ | .meridianEvaluation _ | .ptpEventMessage _ _ | .analogFrameStart _ _ | .ftbLossTimeout
  | .resync | .ftbAlignArm _ => true
  | .barrierContribution part _ => okPart part
  | .barrierRelease n b => okCore n && okBarrier b
  | .nbgArrive port _ | .nbgRelease port _ => okPort port
  | .arriveResend g b => okNbg g && okBarrier b
  | .nbgEnable g => okNbg g
  | .laneFailure port lane => okPort port && decide (lane < 9)
  | .linkUp p | .linkDown p => okPort p
  | .receiveFrame port _ | .transmitFrame port => okPort port
  | .nodeTableEnable v | .connectionInstall v | .connectionReset v | .regionEnable v | .regionDisable v => okReg v
  | .rdmaWriteRequest qpn psn _ _ _ _ _ _ _ _ _ _ _ _ | .rdmaReadRequest qpn psn _ _ _ _
  | .rdmaReadResponse qpn psn _ _ | .roceAck qpn psn _ | .roceNak qpn psn _ _ => okPsn qpn && okPsn psn
  | .ackTimeout conn | .rnrRetryTimer conn => okConn conn
  | .cnpReceived qpn => okPsn qpn
  | .rateIncreaseTimer conn => okConn conn
  | .netWrite _ _ | .netRead _ | .rwrite _ _ | .mirror _ _ _ | .digest _ | .refill _ _ => true
  | .hello seq _ node mac _ _ _ _ _ _ => okReg seq && decide (node < 2 ^ 20) && decide (mac < 2 ^ 48)
  | .helloTimer => true
  | .heartbeat seq => okReg seq
  | .heartbeatTimer => true
  | .journal seq _ _ _ => okReg seq
  | .journalSweep => true
  | .shardBegin seq _ _ _ | .shardEnd seq _ _ => okReg seq
  | .digestReceived seq slot _ record => okReg seq && decide (slot < 64) && record.length == 96
  | .digestResult seq slot _ _ => okReg seq && decide (slot < 64)
  | .digestHoldExpiry => true
  | .detach seq => okReg seq
  | .commandedDetach | .twinLoss | .pairingTimeout => true
  | .adapterRetry l _ _ => okLink l
  | .finovRd l flits | .finovWr l flits | .finovWrp l flits | .finovAtom l _ _ _ _ flits
  | .finovData l flits | .finovAck l flits | .atomRsp l flits => okLink l && decide (flits.length % 240 = 0)
  | .fwdS l h flits | .fwdI l h flits | .finovInv l h flits =>
      okLink l && okHart h && decide (flits.length % 240 = 0)
  | .cack l flits | .cdata l flits | .finovMsg l flits | .regRd l _ flits | .regWr l _ flits
  | .regRsp l _ flits => okLink l && decide (flits.length % 240 = 0)
  | .chipletLinkActive => true
  | .chipCap flits => decide (flits.length % 240 = 0)
  | .capTimeout | .chipCmd _ _ | .chipAbort _ => true
  | .chipDone flits => decide (flits.length % 240 = 0)
  | .abortTimeout _ | .chipletIsolate | .chipletRenegotiate | .chipDecode _ _ _ | .sdiFrame _ _ => true
  | .pwrAuthWrite agent v => okAgent agent && okReg v
  | .pcieLinkDownFallback => true
  | .deniedWrite agent _ => okAgent agent
  | .pcuSample _ _ _ _ => true
  | .domainOn agent _ | .domainOff agent _ => okAgent agent
  | .domainStartupComplete d | .domainShutdownComplete d => okDomain d
  | .setOp agent _ _ | .setFsp agent _ => okAgent agent
  | .pllRelockComplete d => okDie d
  | .selfRefreshExit => true
  | .shutdown agent _ => okAgent agent
  | .shutdownSelfTestComplete _ _ => true
  | .hartRestart agent h | .hartReset agent h => okAgent agent && okHart h
  | .powerGood | .romComplete | .bootFetch | .fetchComplete _ | .skipRecord | .trainingComplete _ _
  | .bootCheckComplete _ | .bootSelfTestComplete _ | .applyComplete => true
  | .quiesce agent => okAgent agent
  | .statusReq _ _ _ | .bootPut _ _ _ _ _ | .bootCommit _ _ _ _ | .responderBindingTimeout
  | .correctedError _ _ _ _ _ | .uncorrectableError _ _ _ | .spareSignatureTestComplete _ _
  | .pageReloadComplete => true
  | .fatalReset agent => okAgent agent
  | .rasLogSelWrite v => okReg v
  | .returnAuthorisation _ | .snapshotCapture => true
  | .snapshotArm v => okReg v
  | .snapshotKeyReached | .cloveArm | .cloveClose | .cloveDisarm | .starBuild _ _ | .starchartBuildComplete
  | .pwrEnRise | .pwrEnFall | .modRstNAssert | .modRstNRelease | .perstNAssert | .perstNRelease => true
  | .housekeepingUp slot => decide (slot < 16)
  | .inputUndervoltage | .railOvercurrent | .railOvervoltage | .stageOverTemperature
  | .stageMeasurement _ _ _ _ | .coolantSample _ _ => true
  | .elsfpLightLoss k => decide (k < 4)
  | .setEndpointId eid => decide (eid < 256)
  | .getEndpointId | .getMctpVersionSupport _ | .getMessageTypeSupport | .getTid | .getPldmVersion _
  | .getPldmTypes | .getPldmCommands _ | .getSensorReading _ | .getVersion | .getCapabilities
  | .negotiateAlgorithms | .getDigests | .getCertificate _ | .challenge _ | .getMeasurements _
  | .keyExchange | .spdmFinish | .endSession => true
  | .pcieInboundAccess pa _ _ _ _ => okAddr pa
  | .pcieLinkStateChange _ => true
  | .minRunElapsed p => okPart p
  | .machineTimer h => okHart h
  | .registerReadCapture _ _ _ | .tripNRelease => true
  | .elsfpLightReturn k => decide (k < 4)
  | .voltageRampComplete d => okDie d
  | .unsupportedRequest qpn psn _ _ => okPsn qpn && okPsn psn
  | .pdrRepositoryRequest _ | .fruDataRequest => true

end Sys2Proof
end

