-- ==== Sys2Proof/Tests/Slice0.lean ====
section
/-!
SUPPORT. Tests. The well-formedness checks refuse an ill-formed command each; a few commands do on a small state what
the spec says; and for the clauses of the obligations, concrete states and operands that meet a clause's hypotheses
together.
-/
namespace Sys2Proof.Tests

set_option Elab.async false

open Sys2Proof.Machine


/-! ### Witnesses: kernel instructions -/

def witLaunch : CoreLaunch :=
  { work := 8192, ctx := 1, part := 0, rank := 0, groups := 1, regs := 64, slmKib := 16, entry := 0x1000, ftz := false,
    seed := 0, coop := false, lcb := [] }

def witGroup (u : Map W32) (threads : List Thread) : Group :=
  { number := 0, g := [], u := u, p := [], threads := threads, paths := [] }

/-- A group whose 32 threads are active at the entry. -/
def witActive : List Thread := List.replicate 32 ⟨0x1000, .active⟩

/-- A core with a launch and one group, holding the two words at the entry. -/
def witCore (u : Map W32) (w1 w2 : Nat) : Core :=
  { Core.reset with
    launch := some witLaunch, groups := [(0, witGroup u witActive)],
    icache := [(0x1000, BitVec.ofNat 64 w1), (0x1008, BitVec.ofNat 64 w2)] }

def worldCore (n : Nat) (c : Core) : World := { World.reset with cores := [(n, c)] }

def stateOf (w : World) : State := { State.reset with w := w }

def witState (u : Map W32) (w1 : Nat) : State := stateOf (worldCore 0 (witCore u w1 0))

def witAt : At := ⟨0, 0, 1#16, 0xFFFFFFFF#32⟩

def witIss (w1 : Nat) : Iss := ⟨0, 0, 0x1000, 0xFFFFFFFF#32, 0xFFFFFFFF#32, w1, 0⟩

/-- A first word: class, operation, and the lower 48 bits (R133). -/
def opWord (cls op low : Nat) : Nat := cls * 2 ^ 60 + op * 2 ^ 54 + low

/-- Register destination 2, sources 4, 6 and 0. -/
def regWord (cls op : Nat) : Nat := opWord cls op (2 * 2 ^ 40 + 4 * 2 ^ 32 + 6 * 2 ^ 24)

/-- Destination 2, source a = 4 only. -/
def oneWord (cls op : Nat) : Nat := opWord cls op (2 * 2 ^ 40 + 4 * 2 ^ 32)

/-- Destination 2 only. -/
def dWord (cls op : Nat) : Nat := opWord cls op (2 * 2 ^ 40)

theorem witness_int_results : ∀ o ∈ intRegOps,
    issued witAt (witState [] (dWord 0 o.op)).w = some (witIss (dWord 0 o.op)) ∧ clsOp (dWord 0 o.op) = (0, o.op) ∧
      aluIllegal o.form (witIss (dWord 0 o.op)) = false ∧ o.bad (witIss (dWord 0 o.op)) = false ∧
      unhindered (aluUses o.form (witIss (dWord 0 o.op))) (witIss (dWord 0 o.op)) (witState [] (dWord 0 o.op)).w = true := by
  decide +kernel

/-- At their greatest field width, 32, the bit-field operations are still legal (R143). -/
theorem witness_bfe_width_32 :
    let i := witIss (oneWord 0 0x10 + 32 * 32)
    aluIllegal ⟨.reg, .none, .none, .reg, 0x7FF, true, false⟩ i = false ∧ fMod i / 32 = 32 := by decide +kernel

theorem witness_int_predicates : ∀ o ∈ intPredOps,
    issued witAt (witState [] (dWord 0 o.op)).w = some (witIss (dWord 0 o.op)) ∧ clsOp (dWord 0 o.op) = (0, o.op) ∧
      aluIllegal o.form (witIss (dWord 0 o.op)) = false ∧ o.bad (witIss (dWord 0 o.op)) = false ∧
      unhindered (aluUses o.form (witIss (dWord 0 o.op))) (witIss (dWord 0 o.op)) (witState [] (dWord 0 o.op)).w = true := by
  decide +kernel

/-- A state, an issue and what the statements about class `cls` ask of them. -/
def IssuesWord (u : Map W32) (w1 cls op : Nat) (us : Uses) : Prop :=
  issued witAt (witState u w1).w = some (witIss w1) ∧ clsOp w1 = (cls, op) ∧ unhindered us (witIss w1) (witState u w1).w = true

theorem witness_shfl : let w := regWord 0 0x1B; IssuesInt witAt (witState [] w) (witIss w) 0x1B shflForm := by
  unfold IssuesInt; decide +kernel

theorem witness_vote_ballot : let w := dWord 0 0x1C + 2;
    IssuesInt witAt (witState [] w) (witIss w) 0x1C ballotForm ∧ fMod (witIss w) = 2 := by
  unfold IssuesInt; decide +kernel

theorem witness_vote_all : let w := dWord 0 0x1C;
    IssuesInt witAt (witState [] w) (witIss w) 0x1C voteForm ∧ fMod (witIss w) < 2 := by
  unfold IssuesInt; decide +kernel

theorem witness_readlane : let w := regWord 0 0x1D;
    IssuesInt witAt (witState [] w) (witIss w) 0x1D readlaneForm ∧ leadLane (witIss w) = some 0 := by
  unfold IssuesInt; decide +kernel

theorem witness_iadd64 : let w := regWord 0 0x1A;
    IssuesInt witAt (witState [] w) (witIss w) 0x1A iadd64Form ∧ (fDu (witIss w) = false → fD (witIss w) ≠ 254) := by
  unfold IssuesInt; decide +kernel

/-- A word of each floating-point and conversion operation: KBD's source is a KB format. -/
def flagWord (cls op : Nat) : Nat :=
  if cls = 2 ∧ op = 0x0A then oneWord cls op + 9 * 2 ^ 8
  else if cls = 1 ∧ (op = 0x0B ∨ op = 0x0C) then oneWord cls op else dWord cls op

theorem witness_flag_results : ∀ o ∈ flagOps,
    let w := flagWord o.cls o.op
    issued witAt (witState [] w).w = some (witIss w) ∧ clsOp w = (o.cls, o.op) ∧ o.bad (witIss w) = false ∧
      unhindered (o.uses (witIss w)) (witIss w) (witState [] w).w = true := by
  decide +kernel

theorem witness_fsetp : let w := dWord 1 0x05;
    issued witAt (witState [] w).w = some (witIss w) ∧ clsOp w = (1, 0x05) ∧ aluIllegal fsetpForm (witIss w) = false ∧
      unhindered (aluUses fsetpForm (witIss w)) (witIss w) (witState [] w).w = true := by decide +kernel

theorem witness_block_forms : ∀ o ∈ blockOps,
    let w := oneWord 2 o.2.1 + 3 * 2 ^ 12 + 3 * 2 ^ 4
    issued witAt (witState [] w).w = some (witIss w) ∧ clsOp w = (2, o.2.1) ∧ fmtOfCode (cvtDst (witIss w)) = some .e4m3 ∧
      cvtTrap true (fun x y => x = 0 && 3 ≤ y && y ≤ 8) (witIss w) = none ∧
      unhindered (cvtUses true (witIss w)) (witIss w) (witState [] w).w = true := by decide +kernel

theorem witness_kb_encode : let w := oneWord 2 0x09 + 3 * 2 ^ 12 + 9 * 2 ^ 4;
    issued witAt (witState [] w).w = some (witIss w) ∧ clsOp w = (2, 0x09) ∧ (witIss w).ex ≠ 0 ∧
      cvtTrap true (fun x y => x = 0 && (y = 9 || y = 10)) (witIss w) = none ∧
      unhindered (cvtUses true (witIss w)) (witIss w) (witState [] w).w = true := by decide +kernel


/-! ### Witnesses: memory, synchronisation and control instructions -/

/-- The memory instructions in the constant space, which all three may name but ST; ST in a global space. -/
def memWord (op : Nat) : Nat := opWord 3 op (2 * 2 ^ 40 + 4 * 2 ^ 32 + (if op = 1 then 0 else 4) * 2 ^ 20 + 4 * 2 ^ 16)

theorem witness_memory : ∀ o ∈ memOps,
    let w := memWord o.2.1
    let i := witIss w
    (issued witAt (witState [] w).w = some i ∧ clsOp w = (3, o.2.1) ∧ unhindered (memUses o.2.2.1 i) i (witState [] w).w = true) ∧
      mSpace i ≠ 5 ∧ i.ex ≠ 0 ∧ memTrap o.2.2.1 o.2.2.2.1 i (witState [] w).w = none ∧ trackerFull (witState [] w).w 0 = false := by
  decide +kernel

/-- The SLM space: an aligned address inside the bound. -/
theorem witness_memory_slm :
    let w := opWord 3 0 (2 * 2 ^ 40 + 4 * 2 ^ 32 + 2 * 2 ^ 20 + 4 * 2 ^ 16)
    let i := witIss w
    (issued witAt (witState [] w).w = some i ∧ clsOp w = (3, 0) ∧ unhindered (memUses false i) i (witState [] w).w = true) ∧
      isSlm i = true ∧ memTrap false noBad i (witState [] w).w = none := by decide +kernel

/-- CAS names its comparand's pair in c; the data registers are pairs where the type is 64 bits wide. -/
theorem witness_atomics : ∀ o ∈ atomOps,
    let w := regWord 4 o.2
    let i := witIss w
    (issued witAt (witState [] w).w = some i ∧ clsOp w = (4, o.2) ∧ unhindered (atomUses o.2 i) i (witState [] w).w = true) ∧
      i.ex ≠ 0 ∧ atomTrap o.2 i (witState [] w).w = none ∧ trackerFull (witState [] w).w 0 = false := by
  decide +kernel

theorem witness_lcb_load :
    let w := opWord 3 0 (2 * 2 ^ 40 + 4 * 2 ^ 32 + 5 * 2 ^ 20 + 4 * 2 ^ 16)
    let i := witIss w
    (issued witAt (witState [] w).w = some i ∧ clsOp w = (3, 0) ∧ unhindered (memUses false i) i (witState [] w).w = true) ∧
      mSpace i = 5 ∧ memTrap false noBad i (witState [] w).w = none := by decide +kernel

/-- The last word of the launch constant buffer: offset 508 (R147). -/
theorem witness_lcb_uniform_load :
    let w := opWord 3 2 (2 * 2 ^ 40 + 4 * 2 ^ 32 + 5 * 2 ^ 20 + 4 * 2 ^ 16 + 508)
    let i := witIss w
    (issued witAt (witState [] w).w = some i ∧ clsOp w = (3, 2) ∧ unhindered (memUses true i) i (witState [] w).w = true) ∧
      mSpace i = 5 ∧ memTrap true (fun i => mSpace i < 4) i (witState [] w).w = none ∧ leadLane i = some 0 := by decide +kernel

theorem witness_sem_sig :
    let w := opWord 5 0 (3 * 2 ^ 35 + 7 * 2 ^ 24 + 2 * 2 ^ 22)
    let i := witIss w
    (issued witAt (witState [] w).w = some i ∧ clsOp w = (5, 0) ∧ unhindered (semUses i) i (witState [] w).w = true) ∧
      semBad i = false ∧ i.ex ≠ 0 ∧
      slmWritesOut (coreOf (witState [] w).w 0) 0 (slotNumber (coreOf (witState [] w).w 0) 0)
        (fenceStart i (witState [] w).w) = false := by
  decide +kernel

theorem witness_sem_wait :
    let w := opWord 5 1 (15 * 2 ^ 35 + 7 * 2 ^ 24 + 2 * 2 ^ 22)
    let i := witIss w
    (issued witAt (witState [] w).w = some i ∧ clsOp w = (5, 1) ∧ unhindered (semUses i) i (witState [] w).w = true) ∧
      semBad i = false := by decide +kernel

theorem witness_sem_rd :
    let w := opWord 5 2 (2 * 2 ^ 40 + 15 * 2 ^ 35)
    let i := witIss w
    (issued witAt (witState [] w).w = some i ∧ clsOp w = (5, 2) ∧ unhindered ⟨[], [(fD i, 1, 1)]⟩ i (witState [] w).w = true) ∧
      fixedBad (fm 40 8 + fm 35 5) i = false ∧ ySem i < 16 ∧ i.ex ≠ 0 := by decide +kernel

theorem witness_bra :
    let w := opWord 6 0 (2 ^ 40 - 2 ^ 8)
    let i := witIss w
    (issued witAt (witState [] w).w = some i ∧ clsOp w = (6, 0) ∧ unhindered noUse i (witState [] w).w = true) ∧
      fixedBad (fm 8 32) i = false := by decide +kernel

theorem witness_brx :
    let w := dWord 6 1
    let i := witIss w
    (issued witAt (witState [] w).w = some i ∧ clsOp w = (6, 1) ∧ unhindered ⟨[(yR i, 2, 2)], []⟩ i (witState [] w).w = true) ∧
      fixedBad (fm 40 8) i = false ∧
      ∀ l, l < 32 → i.ex.getLsbD l = true → gPair (groupOf (witState [] w).w 0 0) (yR i) l % 8 = 0 := by decide +kernel

theorem witness_call :
    let w := dWord 6 2 + 2 ^ 8
    let i := witIss w
    (issued witAt (witState [] w).w = some i ∧ clsOp w = (6, 2) ∧ unhindered ⟨[(yR i, 2, 2)], []⟩ i (witState [] w).w = true) ∧
      fixedBad (fm 8 40) i = false ∧ yR i ≠ 254 := by decide +kernel

theorem witness_exit :
    let w := opWord 6 3 0
    let i := witIss w
    (issued witAt (witState [] w).w = some i ∧ clsOp w = (6, 3) ∧ unhindered noUse i (witState [] w).w = true) ∧
      fixedBad 0 i = false ∧ i.ex = 0xFFFFFFFF ∧ (groupOf (witState [] w).w 0 0).threads.length = 32 ∧
      (groupOf (witState [] w).w 0 0).threads[31]? = some ⟨0x1000, .active⟩ ∧ i.ex.getLsbD 31 = true := by decide +kernel

theorem witness_gjoin :
    let w := dWord 6 4
    let i := witIss w
    let s := witState [(2, 0xFFFFFFFF)] w
    (issued witAt s.w = some i ∧ clsOp w = (6, 4) ∧ unhindered ⟨[], [(yR i, 1, 1)]⟩ i s.w = true) ∧
      fixedBad (fm 40 8) i = false ∧ i.ex = i.path ∧ uRead (groupOf s.w 0 0) (yR i) = i.ex ∧
      ∀ t ∈ (groupOf s.w 0 0).threads, t.st = .active := by decide +kernel

/-- NOP, YIELD, FENCE.PUB and CACHE.INV, and BRK: no field, no access outstanding. -/
theorem witness_hints : ∀ o ∈ [(6, 7), (6, 5), (6, 6), (9, 3), (9, 4)],
    let w := opWord o.1 o.2 0
    let i := witIss w
    let s := witState [] w
    (issued witAt s.w = some i ∧ clsOp w = o ∧ unhindered noUse i s.w = true) ∧ fixedBad 0 i = false ∧ i.ex ≠ 0 ∧
      writesOut (coreOf s.w 0) 0 (slotNumber (coreOf s.w 0) 0) (fenceStart i s.w) = false ∧
      loadsOut (coreOf s.w 0) 0 (slotNumber (coreOf s.w 0) 0) = false := by decide +kernel

/-- FT.RD writes u61 to u63 at most (R130). -/
theorem witness_ft_rd :
    let w := opWord 9 0 (61 * 2 ^ 40)
    let i := witIss w
    (issued witAt (witState [] w).w = some i ∧ clsOp w = (9, 0) ∧ unhindered ⟨[], [(fD i, 3, 1)]⟩ i (witState [] w).w = true) ∧
      fixedBad (fm 40 8) i = false ∧ i.ex ≠ 0 := by decide +kernel

theorem witness_ft_wait :
    let w := opWord 9 1 (61 * 2 ^ 32)
    let i := witIss w
    (issued witAt (witState [] w).w = some i ∧ clsOp w = (9, 1) ∧ unhindered ⟨[], [(fA i, 3, 1)]⟩ i (witState [] w).w = true) ∧
      fixedBad (fm 32 8) i = false := by decide +kernel

/-- Lane 0 is at a GJOIN with this mask, the other lanes are elsewhere. -/
def joinState (mask : Nat) : State :=
  let u : Map W32 := [(2, BitVec.ofNat 32 mask)]
  let g := witGroup u (⟨0x1000, .active⟩ :: List.replicate 31 ⟨0x1008, .active⟩)
  stateOf (worldCore 0 { witCore u (dWord 6 4) 0 with groups := [(0, g)] })

/-- Lane 0 exits, and is not the last of its group. -/
theorem witness_exit_some :
    let w := opWord 6 3 0
    let i : Iss := ⟨0, 0, 0x1000, 1, 1, w, 0⟩
    let g := witGroup [] (⟨0x1000, .active⟩ :: List.replicate 31 ⟨0x1008, .active⟩)
    let s := stateOf (worldCore 0 { witCore [] w 0 with groups := [(0, g)] })
    (issued witAt s.w = some i ∧ clsOp w = (6, 3) ∧ unhindered noUse i s.w = true) ∧ fixedBad 0 i = false ∧
      (groupOf s.w 0 0).threads[1]? = some ⟨0x1008, .active⟩ ∧ i.ex.getLsbD 1 = false := by decide +kernel

def joinIss : Iss := ⟨0, 0, 0x1000, 1, 1, dWord 6 4, 0⟩

theorem witness_gjoin_waits :
    let s := joinState 3
    (issued witAt s.w = some joinIss ∧ clsOp joinIss.w1 = (6, 4) ∧ unhindered ⟨[], [(yR joinIss, 1, 1)]⟩ joinIss s.w = true) ∧
      fixedBad (fm 40 8) joinIss = false ∧ uRead (groupOf s.w 0 0) (yR joinIss) = 3 ∧ joinIss.ex &&& ~~~3 = 0 ∧
      (groupOf s.w 0 0).threads[1]? = some ⟨0x1008, .active⟩ ∧ joinIss.path.getLsbD 1 = false ∧
      ∀ t ∈ (groupOf s.w 0 0).threads, t.st = .active := by decide +kernel

theorem witness_gjoin_traps :
    let s := joinState 2
    (issued witAt s.w = some joinIss ∧ unhindered ⟨[], [(yR joinIss, 1, 1)]⟩ joinIss s.w = true) ∧
      joinIss.ex &&& ~~~(uRead (groupOf s.w 0 0) (yR joinIss)) ≠ 0 := by decide +kernel


/-! ### Witnesses: the matrix array and the tensor mover -/

/-- Descriptor slots 1 and 2 name 16 × 16 tensors of element format `e` in the SLM at 0 and at 1,024; u32 to u34 hold
M = 1, K = 16 and N = 16, and start row 0 (R141, R150). -/
def witDescs (e : Nat) : Map W32 :=
  [(8, BitVec.ofNat 32 (1 + e * 2 ^ 26)), (9, 16), (10, 16), (11, 64),
   (16, BitVec.ofNat 32 (1 + e * 2 ^ 26)), (17, 16), (18, 16), (19, 64), (20, 1024), (32, 1), (33, 0x100010)]

/-- Slots 1 and 2, Q = 32, semaphore 31 (none). -/
def queueWord (cls op : Nat) (second q : Bool) : Nat :=
  opWord cls op (2 ^ 45 + (if second then 2 * 2 ^ 42 else 0) + (if q then 32 * 2 ^ 36 else 0) + 31 * 2 ^ 29)

theorem witness_mload :
    let w := queueWord 7 0 false false
    let i := witIss w
    let s := witState (witDescs 2) w
    let g := groupOf s.w 0 0
    (issued witAt s.w = some i ∧ clsOp w = (7, 0) ∧ unhindered ⟨[], slotUse (xSlot i)⟩ i s.w = true) ∧ i.ex ≠ 0 ∧
      (coreOf s.w 0).mx.queue.length < 8 ∧ checksPass (mloadCheck i g (launchOn s.w 0)) = true := by decide +kernel

theorem witness_mswap :
    let w := opWord 7 1 (31 * 2 ^ 29)
    let i := witIss w
    let s := witState [] w
    (issued witAt s.w = some i ∧ clsOp w = (7, 1) ∧ unhindered noUse i s.w = true) ∧ i.ex ≠ 0 ∧
      (coreOf s.w 0).mx.queue.length < 8 ∧ fixedBad (fm 29 5) i = false ∧ xSemBad i = false := by decide +kernel

theorem witness_mstream :
    let w := queueWord 7 2 false true + 2 ^ 34
    let i := witIss w
    let s := witState (witDescs 2) w
    let g := groupOf s.w 0 0
    (issued witAt s.w = some i ∧ clsOp w = (7, 2) ∧
      unhindered ⟨[], slotUse (xSlot i) ++ slotUse (xSlot2 i) ++ [(xQ i, if sDrain i then 2 else 3, 1)] ++ ctrUse i⟩ i s.w = true) ∧
      i.ex ≠ 0 ∧ (coreOf s.w 0).mx.queue.length < 8 ∧
      checksPass (streamCheck i g (coreOf s.w 0) (launchOn s.w 0)) = true := by decide +kernel

theorem witness_mdrain :
    let w := queueWord 7 3 false true
    let i := witIss w
    let s := witState ((witDescs 0).filter (·.1 ≠ 33)) w
    let g := groupOf s.w 0 0
    (issued witAt s.w = some i ∧ clsOp w = (7, 3) ∧
      unhindered ⟨[], slotUse (xSlot i) ++ [(xQ i, 2, 1)] ++ ctrUse i⟩ i s.w = true) ∧
      i.ex ≠ 0 ∧ (coreOf s.w 0).mx.queue.length < 8 ∧
      checksPass (drainCheck i g (coreOf s.w 0) (launchOn s.w 0)) = true := by decide +kernel

theorem witness_mover : ∀ o ∈ moverOps,
    let w := queueWord o.2.1 o.2.2.1 (o.2.1 = 8) false
    let i := witIss w
    let s := witState (witDescs 2) w
    let g := groupOf s.w 0 0
    (issued witAt s.w = some i ∧ clsOp w = (o.2.1, o.2.2.1) ∧ unhindered (o.2.2.2.1 i) i s.w = true) ∧ i.ex ≠ 0 ∧
      (coreOf s.w 0).tmq.length < 8 ∧
      checksPass (o.2.2.2.2.1 i g (launchOn s.w 0)) = true := by decide +kernel

theorem witness_acc_rd_wr : ∀ op ∈ [4, 5],
    let w := opWord 7 op (2 * 2 ^ 40 + 15 * 2 ^ 36 + 3 * 2 ^ 34 + 63 * 2 ^ 22)
    let i := witIss w
    let s := witState [] w
    (issued witAt s.w = some i ∧ clsOp w = (7, op) ∧ unhindered (accUses i) i s.w = true) ∧ fixedBad accMask i = false ∧
      (coreOf s.w 0).clearBusy = false ∧ writeBusy s.w.now (coreOf s.w 0).mx (accT i) = false ∧
      readBusy (coreOf s.w 0).mx (accT i) = false := by decide +kernel

/-- A 1 × 1 tensor of FP16 in the SLM at `base`. -/
def oneTensor (base : Nat) : TensorDesc := ⟨false, false, 0x800, 1, 1, 16, base, 0, 0⟩

def mxEntry (op : MxOp) : MxEntry := ⟨op, some 3, 0, 0, 0xFFFFFFFF, 0x1000, 0, [], none, 0, 0, 0, 0, 0⟩

/-- A core with a launch whose matrix array is as `f` makes it. -/
def mxState (f : Matrix → Matrix) : State :=
  stateOf (worldCore 0 { Core.reset with launch := some witLaunch, mx := f Core.reset.mx })

theorem witness_dispatch_mload :
    let e := mxEntry (.mload (oneTensor 0) false)
    let s := mxState (fun m => { m with queue := [e] })
    (coreOf s.w 0).mx.queue = e :: [] ∧ mxReady s.w.now (coreOf s.w 0) e = true ∧ (loadSet 0 (oneTensor 0) false 0 s.w).1.2 = false := by
  decide +kernel

theorem witness_dispatch_mswap :
    let e := mxEntry .mswap
    let s := mxState (fun m => { m with queue := [e] })
    let w1 := drained 0 s.w
    (coreOf s.w 0).mx.queue = e :: [] ∧ (coreOf w1 0).mx.queue = e :: [] ∧ mxReady w1.now (coreOf w1 0) e = true := by
  decide +kernel

theorem witness_dispatch_mstream :
    let e := mxEntry (.mstream (oneTensor 0) none 1 1 128 63 false false false .rne false 0)
    let s := mxState (fun m => { m with queue := [e] })
    let w1 := drained 0 s.w
    (coreOf s.w 0).mx.queue = e :: [] ∧ (coreOf w1 0).mx.queue = e :: [] ∧ mxReady w1.now (coreOf w1 0) e = true ∧
      (oneTensor 0).global = false ∧ (∀ j, j < 1 → (streamCells 0 (oneTensor 0) j 1 w1).1.2 = false) ∧
      mxMarked (coreOf w1 0) 63 1 128 = false := by decide +kernel

theorem witness_dispatch_mdrain :
    let e := mxEntry (.mdrain (oneTensor 0) 1 63 false true .rne false 0)
    let s := mxState (fun m => { m with queue := [e] })
    (coreOf s.w 0).mx.queue = e :: [] ∧ mxReady s.w.now (coreOf s.w 0) e = true ∧ (coreOf s.w 0).marks = [] := by
  decide +kernel

theorem witness_mload_complete :
    let e := { mxEntry (.mload (oneTensor 0) false) with snap := some StatBuf.reset }
    let s := mxState (fun m => { m with loader := some e, active := 1 })
    (coreOf s.w 0).mx.loader = some e ∧ e.snap = some StatBuf.reset ∧ (coreOf s.w 0).mx.active ≤ 1 := by decide +kernel

theorem witness_mstream_complete :
    let e := mxEntry (.mstream (oneTensor 0) none 1 1 1 0 false true false .rne false 0)
    let s := mxState (fun m => { m with streams := [e] })
    (coreOf s.w 0).mx.streams = e :: [] ∧ (mxWrites e.op).2 ≠ 0 := by decide +kernel

theorem witness_mdrain_complete :
    let e := mxEntry (.mdrain (oneTensor 0) 1 0 false false .rne false 0)
    let s := mxState (fun m => { m with drainer := some e })
    (coreOf s.w 0).mx.drainer = some e ∧ (oneTensor 0).global = false := by decide +kernel

/-- A drain whose two rows fill the SLM tensor at 0, the second not written yet. -/
theorem witness_mdrain_rows :
    let e := { mxEntry (.mdrain (oneTensor 0) 2 0 false false .rne false 0) with out := [[1, 2], [3, 4]], done := 1 }
    let s := mxState (fun m => { m with drainer := some e })
    (coreOf s.w 0).mx.drainer = some e ∧ (unwritten 0 e (oneTensor 0) s.w).1 = .ready ∧
      chipDown (unwritten 0 e (oneTensor 0) s.w).2 (launchOn s.w 0).ctx (rowRanges e (oneTensor 0)) = false ∧
      (allPaid 0 e.before e.paid (rowRanges e (oneTensor 0)) (unwritten 0 e (oneTensor 0) s.w).2).isSome = true := by
  decide +kernel

theorem witness_mstream_rows :
    let e := { mxEntry (.mstream (oneTensor 0) (some (oneTensor 64)) 1 1 1 0 true true false .rne false 0) with out := [[1, 2]] }
    let s := mxState (fun m => { m with streams := [e] })
    (coreOf s.w 0).mx.streams = e :: [] ∧ e.out.length = 1 ∧ (unwritten 0 e (oneTensor 64) s.w).1 = .ready ∧
      chipDown (unwritten 0 e (oneTensor 64) s.w).2 (launchOn s.w 0).ctx (rowRanges e (oneTensor 64)) = false ∧
      (allPaid 0 e.before e.paid (rowRanges e (oneTensor 64)) (unwritten 0 e (oneTensor 64) s.w).2).isSome = true := by
  decide +kernel

theorem witness_launch_clear :
    (coreOf (stateOf (worldCore 0 { Core.reset with clearBusy := true })).w 0).clearBusy = true := by decide +kernel

/-- Context 1 with one 64 KiB page of HBM mapped at virtual address 0 (R247, R248). -/
def mappedMem : Mem :=
  let table : W64 := 0x4000000000000000
  { World.reset.mem with
    pte := [(pteKey 1 0 0, 0x4080000000100000), (pteKey 1 1 0, table), (pteKey 1 2 0, table), (pteKey 1 3 0, table),
      (pteKey 1 4 0, table)] }

/-- The tensor at virtual address 0. -/
def globalTensor : TensorDesc := { oneTensor 0 with global := true }

theorem witness_drain_read :
    let e := { mxEntry (.mstream (oneTensor 0) (some globalTensor) 1 1 1 0 true false false .rne false 0) with
      snap := some StatBuf.reset }
    let s0 := mxState (fun m => { m with streams := [e] })
    let s := stateOf { s0.w with mem := mappedMem }
    let r := rangeState (launchOn s.w 0).ctx (dRowAt globalTensor 0) 4 false (some (launchOn s.w 0).work) s.w
    let p := allPaid 0 e.before e.paid [(dRowAt globalTensor 0, 4)] r.2
    readingStream (coreOf s.w 0).mx = some (e, 0) ∧ flushStreams 0 0 (·.out.length) s.w = (true, s.w) ∧
      e.out.length - e.done < 64 ∧ r.1.1 = .ready ∧ p.isSome = true ∧
      (drainThrough 0 (e.snap.getD StatBuf.reset) (oneTensor 0) globalTensor 0 1 1 false false .rne false 0
        (p.getD s.w)).1.2 = false ∧ 0 < (coreOf (p.getD s.w) 0).mx.streams.length :=
  ⟨by decide +kernel, rfl, by decide +kernel⟩

def tmEntry : TmEntry := ⟨.copy (oneTensor 0) (oneTensor 1024), some 3, 0, 0, 0xFFFFFFFF, 0x1000, 0, [], 0⟩

theorem witness_mover_start :
    let s := stateOf (worldCore 0 { Core.reset with launch := some witLaunch, tmq := [tmEntry] })
    (coreOf s.w 0).tmq = tmEntry :: [] ∧ (coreOf s.w 0).tmRun = none ∧ (oneTensor 0).global = false ∧
      tmMayRead (coreOf s.w 0) tmEntry = true := by decide +kernel

theorem witness_watch_untaken :
    let e : TmEntry := { tmEntry with op := .watch (oneTensor 0) 63 }
    let s := stateOf (worldCore 0 { Core.reset with launch := some witLaunch, tmq := [e] })
    (coreOf s.w 0).tmq = e :: [] ∧ (coreOf s.w 0).tmRun = none ∧ watchTaken s.w 0 63 = false ∧ (cloveOf s.w 63).st ≠ 2 := by
  decide +kernel

/-- A transposition in the SLM, and a copy to memory: both read the SLM. -/
theorem witness_mover_reads : ∀ xposed ∈ [true, false],
    let a := oneTensor 0
    let e : TmEntry := { tmEntry with op := if xposed then .xpose a (oneTensor 1024) else .copy a globalTensor }
    let s0 := stateOf (worldCore 0 { Core.reset with launch := some witLaunch, tmq := [e] })
    let s := stateOf { s0.w with mem := mappedMem }
    let rd := tensorRanges a a.rows (dRowBytes a)
    let r := rangesState (launchOn s.w 0).ctx false (some (launchOn s.w 0).work) rd 0 s.w
    (coreOf s.w 0).tmq = e :: [] ∧ (coreOf s.w 0).tmRun = none ∧ trackerFull s.w 0 = false ∧
      tmMayRead (coreOf s.w 0) e = true ∧ r.1.1 = .ready ∧ chipDown r.2 (launchOn s.w 0).ctx rd = false ∧
      (allPaid 0 e.before e.paid rd r.2).isSome = true := by decide +kernel

theorem witness_mover_complete :
    let s := stateOf (worldCore 0 { Core.reset with launch := some witLaunch, tmRun := some tmEntry })
    (coreOf s.w 0).tmRun = some tmEntry ∧ (∀ d k, tmEntry.op ≠ .watch d k) ∧ tmEntry.parts = [] :=
  ⟨by decide +kernel, fun _ _ h => (nomatch h), rfl⟩

/-- A copy that holds two bytes for virtual address 0. -/
theorem witness_mover_store :
    let e : TmEntry := { tmEntry with op := .copy (oneTensor 0) globalTensor, parts := [(0, [(1, false), (2, false)])] }
    let s0 := stateOf (worldCore 0 { Core.reset with launch := some witLaunch, tmRun := some e })
    let s := stateOf { s0.w with mem := mappedMem }
    let wr := e.parts.map (fun p => (p.1, p.2.length))
    let r := rangesState (launchOn s.w 0).ctx true (some (launchOn s.w 0).work) wr 0 s.w
    (coreOf s.w 0).tmRun = some e ∧ r.1.1 = .ready ∧ chipDown r.2 (launchOn s.w 0).ctx wr = false ∧
      (allPaid 0 e.before e.paid wr r.2).isSome = true := by decide +kernel


/-! ### Witnesses: accesses on their way, and the cores' own events -/

/-- Where no hart holds anything and no write waits, nothing else reaches memory: what the witnesses of `memoryAlone` and
`writesAlone` show. -/
theorem alone_of_no_hart {w : World} (h : w.harts.hart = []) (l : w.mem.later = []) : writesAlone w := by
  refine ⟨⟨fun g => ?_, l⟩, fun g => ?_⟩ <;> simp [ownerOf, heldBy, h]

/-- Access 1 of the group in slot 0: lane 0 of a 4-byte load or store of kind `k` at virtual address 0. -/
def witAccess (k : AccKind) (ph : AccPhase) : Access :=
  ⟨1, 0, 0, 1, 0x1000, k, false, 2, 4, [⟨0, 0, 0xAB, 0⟩], ph, [(0, 0x100000)], [], [], [], [], [], false, 0, 0, 0, []⟩

def accState (x : Access) (mem : Mem) : State :=
  stateOf { worldCore 0 { Core.reset with launch := some witLaunch, groups := [(0, witGroup [] witActive)], accs := [x] } with mem := mem }

theorem witness_slm_grant :
    let x := witAccess .st .unchecked
    let s := stateOf (worldCore 0 { Core.reset with launch := some witLaunch, slmq := [x] })
    (coreOf s.w 0).clearBusy = false ∧ (coreOf s.w 0).stopped = false ∧ grantQuarter (coreOf s.w 0) = some 0 ∧
      (coreOf s.w 0).slmq.find? (fun a => a.slot / 16 = 0) = some x ∧ slmPoisonRead (coreOf s.w 0) x = false ∧ x.kind = .st ∧
      x.reqs = [⟨0, 0, 0xAB, 0⟩] := by decide +kernel

theorem witness_slm_grant_load :
    let x := witAccess .ld .unchecked
    let s := stateOf (worldCore 0 { Core.reset with launch := some witLaunch, slmq := [x] })
    grantQuarter (coreOf s.w 0) = some 0 ∧ (coreOf s.w 0).slmq.find? (fun a => a.slot / 16 = 0) = some x ∧
      slmPoisonRead (coreOf s.w 0) x = false := by decide +kernel

/-- Context 1, LIVE in partition 0. -/
def witCtx : Ctx := ⟨0, false, .live, 0, 0, 0⟩

def liveFe : Fe := { Fe.reset with ctxs := [(1, witCtx)] }

theorem witness_access_check :
    let x := witAccess .ld .unchecked
    let t := [(pteKey 1 0 0, (0x4080000000100000 : W64))]
    let s0 := accState x mappedMem
    let s := stateOf { s0.w with fe := liveFe, cores := [(0, { coreOf s0.w 0 with tlb := t })] }
    (coreOf s.w 0).launch = some witLaunch ∧ (coreOf s.w 0).accs.find? (·.id = 1) = some x ∧ x.phase = .unchecked ∧
      earlierWrite (coreOf s.w 0) x = false ∧ checked 0 witLaunch x s.w = .ok 0 0 false ∧
      trackerOver (sentAccess 0 witLaunch x s.w) 0 = false := by decide +kernel

/-- The core's mover holds all 512 line requests. -/
theorem witness_access_check_waits :
    let x := witAccess .ld .unchecked
    let t := [(pteKey 1 0 0, (0x4080000000100000 : W64))]
    let s0 := accState x mappedMem
    let s := stateOf { s0.w with fe := liveFe, cores := [(0, { coreOf s0.w 0 with tlb := t, tmLines := 512 })] }
    (coreOf s.w 0).launch = some witLaunch ∧ (coreOf s.w 0).accs.find? (·.id = 1) = some x ∧ x.phase = .unchecked ∧
      earlierWrite (coreOf s.w 0) x = false ∧ checked 0 witLaunch x s.w = .ok 0 0 false ∧
      trackerOver (sentAccess 0 witLaunch x s.w) 0 = true := by decide +kernel

theorem witness_walk_complete :
    let x := witAccess .ld .walking
    let s := accState x mappedMem
    (coreOf s.w 0).launch = some witLaunch ∧ (coreOf s.w 0).accs.find? (·.id = 1) = some x ∧ x.phase = .walking ∧
      memoryAlone s.w := ⟨by decide +kernel, by decide +kernel, rfl, fun _ => rfl, rfl⟩

theorem witness_load_return :
    let x := witAccess .ld .lines
    let s := accState x mappedMem
    (coreOf s.w 0).accs.find? (·.id = 1) = some x ∧ x.kind = .ld ∧ accessDone s.w 0 x = true ∧ x.poison = false ∧
      (coreOf s.w 0).stopped = false ∧ accGroup? (coreOf s.w 0) x = some (witGroup [] witActive) ∧
      (x.reqs.map (·.lane)).Nodup ∧ ∀ r ∈ x.reqs, r.lane < 32 := by decide +kernel

theorem witness_write_acknowledge :
    let x := witAccess .st .lines
    let s := accState x mappedMem
    (coreOf s.w 0).accs.find? (·.id = 1) = some x ∧ x.kind = .st ∧ x.phase = .lines ∧ x.todo = [] ∧ chipWaits s.w 0 1 = false := by
  decide +kernel

/-- The line of 0x100000 is present and clean; no slice invalidates. -/
def lineMem : Mem := { mappedMem with lines := [(0x2000, false)], invBusy := 0, sysBusy := false }

theorem witness_line_store :
    let x := { witAccess .st .lines with todo := [0x2000] }
    let s := accState x lineMem
    (coreOf s.w 0).accs.find? (·.id = 1) = some x ∧ x.phase = .lines ∧ 0x2000 ∈ x.todo ∧ homeBusy s.w 0x2000 = false ∧ (0x2000 / 512) ∉ s.w.mem.held ∧
      earlierRequest s.w (coreOf s.w 0) x 0x2000 = false ∧ heldByStore (coreOf s.w 0) x 0x2000 = false ∧
      isMain (128 * 0x2000) = true ∧ inChip (128 * 0x2000) = false ∧ inPcie (128 * 0x2000) = false ∧
      lineAdmitted s.w (launchOn s.w 0).part (128 * 0x2000) = true ∧
      ownerOf s.w (2 * 0x2000) = none ∧ ownerOf s.w (2 * 0x2000 + 1) = none ∧ s.w.mem.later = [] ∧
      mget s.w.mem.lines 0x2000 = some false ∧ x.kind = .st ∧ heldByReservation s.w x 0x2000 false = false := by decide +kernel

theorem witness_line_load :
    let x := { witAccess .ld .lines with todo := [0x2000], const := true }
    let s := accState x lineMem
    (coreOf s.w 0).accs.find? (·.id = 1) = some x ∧ x.phase = .lines ∧ 0x2000 ∈ x.todo ∧ homeBusy s.w 0x2000 = false ∧ (0x2000 / 512) ∉ s.w.mem.held ∧
      earlierRequest s.w (coreOf s.w 0) x 0x2000 = false ∧ heldByStore (coreOf s.w 0) x 0x2000 = false ∧
      isMain (128 * 0x2000) = true ∧ inChip (128 * 0x2000) = false ∧ inPcie (128 * 0x2000) = false ∧
      lineAdmitted s.w (launchOn s.w 0).part (128 * 0x2000) = true ∧
      ownerOf s.w (2 * 0x2000) = none ∧ ownerOf s.w (2 * 0x2000 + 1) = none ∧ s.w.mem.later = [] ∧
      mget s.w.mem.lines 0x2000 = some false ∧ x.kind = .ld ∧ x.const = true := by decide +kernel

def witFill : Fill := ⟨0x2000, [⟨some (.agent 0), 1, 0, false⟩], false⟩

def memState (m : Mem) : State := stateOf { World.reset with mem := m }

theorem witness_hbm_run :
    let s := memState { lineMem with fills := [witFill] }
    s.w.mem.fills.find? (·.line = 0x2000) = some witFill ∧
      ∀ x ∈ s.w.mem.fills, x.line / 4 = 0x2000 / 4 ∨ homeOf s.w x.line ≠ homeOf s.w 0x2000 := by decide +kernel

/-- 0x1000 SCLK cycles, the reset value of age_limit, are 2,048 ns. -/
theorem witness_age :
    let s := stateOf { (memState { lineMem with fills := [witFill] }).w with now := 2048 }
    let r : FillReq := ⟨some (.agent 0), 1, 0, false⟩
    s.w.mem.fills.find? (·.line = 0x2000) = some witFill ∧ r ∈ witFill.reqs ∧ r.aged = false ∧ 1 ≤ r.cls ∧ r.cls ≤ 3 ∧
      fld s.w rMEM_PRIO 16 16 ≤ 2 * (s.w.now - r.since) := by decide +kernel

theorem witness_invalidation :
    let r : InvReq := ⟨[pteKey 1 0 0], .nothing⟩
    let s := memState { lineMem with inval := [r] }
    s.w.mem.inval = r :: [] ∧ r.cont = .nothing := by decide +kernel

theorem witness_page_clear :
    let r : MapRun := ⟨none, 1, 0, 0, 65536, false, false, 0, false, [0x100000], [0x100000]⟩
    let s := memState { lineMem with maps := [r], tableRoom := 0x100000, tables := [(0, 0xFF000)] }
    s.w.mem.maps.find? (fun m => m.dirty.contains 0x100000) = some r ∧ writesAlone s.w ∧ s.w.mem.tableRoom ≤ 0x100000 ∧
      ∀ t ∈ s.w.mem.tables, t.2 + 4096 ≤ 0x100000 := ⟨by decide +kernel, alone_of_no_hart rfl rfl, by decide +kernel, by decide +kernel⟩

theorem witness_quarter_gate :
    let t : Thread := ⟨0x1000, .waitSem 3 7⟩
    let g := witGroup [] [t]
    let s := stateOf (worldCore 0 { Core.reset with launch := some witLaunch, groups := [(63, g)] })
    quarterActive (coreOf s.w 0) 3 = false ∧ mget (coreOf s.w 0).groups 63 = some g ∧ 63 / 16 = 3 ∧ t ∈ g.threads ∧
      t.st = .waitSem 3 7 ∧ (coreOf s.w 0).stopped = false ∧ witLaunch.part ∉ s.w.sched.preempt := by decide +kernel

/-- A launch of two groups on core 0 in partition 0, one of them placed. -/
def witRun : Launch :=
  ⟨8192, 1, false, 2, 64, 16, 1, [0], false, none, [0], [], [], [], [], [(0, 0)], 0, 0, 0, 0, [], 0x1000, false, 0⟩

theorem witness_core_stopped :
    let l := { witRun with stop := some 0x07 }
    let s := stateOf { worldCore 0 { Core.reset with launch := some witLaunch } with fe := { liveFe with launches := [(0, l)] } }
    s.w.fe.launches.find? (fun p => p.2.cores.contains 0 && p.2.stop ≠ none && !(p.2.halted.contains 0)) = some (0, l) ∧
      (coreOf s.w 0).accs = [] ∧ mget s.w.fe.launches 0 = some l ∧ (stopCore (coreOf s.w 0)).cut = [] := by decide +kernel

theorem witness_group_place :
    let s := stateOf { worldCore 0 { Core.reset with launch := some witLaunch } with fe := { liveFe with launches := [(0, witRun)] } }
    mget s.w.fe.launches 0 = some witRun ∧ nextFreed witRun = some (0, 0) ∧ witRun.stop = none ∧ 0 ∉ s.w.sched.preempt ∧
      (coreOf s.w 0).launch = some witLaunch ∧ witRun.placed < witRun.groups ∧ coreRoom (coreOf s.w 0) = true ∧
      placeSlot (coreOf s.w 0) = some 0 := by decide +kernel

/-- BRK at the entry, and class INT with operation 0x1E, which names none (R143). -/
theorem witness_traps : ∀ w1 ∈ [opWord 6 6 0, opWord 0 0x1E 0],
    let s0 := witState [] w1
    let s := stateOf { s0.w with fe := liveFe }
    issued witAt s.w = some (witIss w1) ∧ (coreOf s.w 0).launch = some witLaunch ∧ ctxOf s.w witLaunch.ctx = some witCtx ∧
      witCtx.st = .live ∧ fld s.w (rKX_TRAP_INFO 0) 63 1 = 0 ∧ fld s.w (rKX_TRAP_INFO 0) 62 1 = 0 ∧
      (w1 = opWord 0 0x1E 0 → opDefined (clsOp w1).1 (clsOp w1).2 = false ∧ bit w1 53 = false) := by decide +kernel


/-! ### Witnesses: registers, messages and rings -/

/-- The block after reset with some registers set. -/
def regWorld (l : List (Nat × Nat)) : World := l.foldl (fun w p => rgSet w p.1 p.2) World.reset

/-- The block with an image loaded: GLB_LLYN_STATUS is CONFIGURED (R32). -/
def confWorld (l : List (Nat × Nat)) : World := regWorld ((rGLB_LLYN_STATUS, 2) :: l)

theorem witness_configured : configured (confWorld []) = true := by decide +kernel

/-- An access of 3 bytes, and one of 8 bytes at an offset that is no multiple of 8 (R8). -/
theorem witness_unmapped : ∀ p ∈ [(0x5000, 3), (0x5004, 8)], accessOk World.reset p.1 p.2 = false := by decide +kernel

/-- CC ring 63 is enabled, of 64 entries, at HBM address 0x200000. -/
def ringOnRegs : List (Nat × Nat) := [(rCC_NQ_CFG 63, 1 + 6 * 256 + 5 * 2 ^ 24 + 7 * 2 ^ 32), (rCC_NQ_BASE 63, 0x200000)]

/-- Host ring 63, which is ring 127 of the interrupt unit, is enabled, of 64 entries. -/
def hostOnRegs : List (Nat × Nat) := [(rFE_HN_CFG 63, 1 + 6 * 256), (rFE_HN_BASE 63, 0x1000)]

theorem witness_delivery : ∀ r ∈ [63, 127],
    let m : Msg := ⟨0x0A1, 1, 0, 5, if r = 63 then .rings (some 63) none else .rings none (some 63)⟩
    let w := confWorld (ringOnRegs ++ hostOnRegs)
    let s := stateOf { w with irq := { w.irq with inbox := [m] } }
    s.w.irq.inbox.find? (·.src = m.src) = some m ∧ msgRings s.w m = [r] ∧ r < 128 ∧ ringOn s.w r = true ∧
      ringFull s.w r = false ∧ (∀ x ∈ s.w.irq.waiting, x.ring ≠ r) ∧
      (isHostRing r = true ∨ isMain (ringBase s.w r + 64 + 16 * (ringNext s.w r % ringSize s.w r)) = true ∧
        heldBy s.w none ((ringBase s.w r + 64 + 16 * (ringNext s.w r % ringSize s.w r)) / 64) = false) := by decide +kernel

theorem witness_entry_acknowledged : ∀ r ∈ [63, 127],
    let w := confWorld (ringOnRegs ++ hostOnRegs)
    let s := stateOf { w with irq := { w.irq with flight := [(r, [false])] } }
    ringAhead s.w r ≠ 0 ∧ (r = 63 → isMain (ringBase s.w r + 8) = true ∧
      heldBy s.w none ((ringBase s.w r + 8) / 64) = false ∧ ringHeld s.w r (ringEntryAt s.w r) 16 = false) := by
  decide +kernel

theorem witness_tail_acknowledged : ∀ r ∈ [63, 64],
    let w := confWorld (ringOnRegs ++ hostOnRegs)
    let s := stateOf { w with irq := { w.irq with flight := [(r, [true])] } }
    mgetD s.w.irq.flight r [] = true :: [] ∧ ringHeld s.w r (ringBase s.w r + 8) 8 = false := by decide +kernel

/-- A write of the ring's first entry, or of its header, waits behind a hart's reservation. -/
theorem witness_ring_held : ∀ a ∈ [0x200040, 0x200000],
    let w0 := confWorld ringOnRegs
    let w := { w0 with
      mem := { w0.mem with later := [⟨0, a, List.replicate 16 0, false⟩] }
      harts := { w0.harts with hart := [(0, { Hart.reset with resv := some ⟨a / 64, 0, false⟩ })] } }
    (a = 0x200040 → ringHeld w 63 (ringEntryAt w 63) 16 = true) ∧
      (a = 0x200000 → ringHeld w 63 (ringBase w 63 + 8) 8 = true) := by decide +kernel

theorem witness_ring_enable :
    let v := 6 * 256 + 5 * 2 ^ 24 + 7 * 2 ^ 32
    let w := regWorld [(rCC_NQ_BASE 63, 0x200000)]
    let s := stateOf { w with mem := { w.mem with bytes := [(0x200000, 1)], hostPools := [], invBusy := 0, sysBusy := false } }
    ringOn s.w 63 = false ∧ (ringError 63 true (rgSet s.w (rCC_NQ_CFG 63) (v &&& ringCfgMask 63))).1 = 0 := by decide +kernel

theorem witness_hn_ring_enable :
    let v := 6 * 256
    let w := confWorld [(rFE_HN_BASE 0, 0x1000)]
    let s := stateOf { w with mem := { w.mem with host := [(0x1000, 1)] } }
    configured s.w = true ∧ ringOn s.w 64 = false ∧
      (ringError 64 true (rgSet s.w (rFE_HN_CFG 0) (v &&& ringCfgMask 64))).1 = 0 := by decide +kernel

theorem witness_ring_disable :
    ringOn (confWorld ringOnRegs) 63 = true ∧ configured (confWorld hostOnRegs) = true ∧ ringOn (confWorld hostOnRegs) 127 = true := by
  decide +kernel

/-- A head equal to the tail is taken, one above it is not; nothing waits. -/
theorem witness_head_write :
    let w := confWorld ((rCC_NQ_TAIL 63, 70) :: ringOnRegs)
    (70 ≤ rg w (rCC_NQ_TAIL 63) ∧ rg w (rCC_NQ_TAIL 63) - 70 ≤ ringSize w 63) ∧ ¬ 71 ≤ rg w (rCC_NQ_TAIL 63) ∧
      ¬ rg w (rCC_NQ_TAIL 63) - 5 ≤ ringSize w 63 ∧ rg w (rCC_NQ_TAIL 63) - 6 ≤ ringSize w 63 ∧
      ∀ m ∈ w.irq.waiting, m.ring ≠ 63 := by decide +kernel


/-! ### Witnesses: queues and entries -/

/-- Queue 1023 of context 1: ring of 64 entries at virtual address 0, whose first byte is 1. -/
def queueRegs : List (Nat × Nat) := [(rFE_QCFG 1023, 6 * 2 ^ 24 + 2 ^ 32)]

/-- Context 1 is LIVE, with its page mapped and its ring's header byte set. -/
def queueWorld (l : List (Nat × Nat)) (fe : Fe) : World :=
  { confWorld l with mem := { mappedMem with bytes := [(0x100000, 1)], invBusy := 0, sysBusy := false }, fe := fe }

theorem witness_queue_enable :
    let w := queueWorld queueRegs liveFe
    configured w = true ∧ queueOf w 1023 = none ∧ enableError w 1023 = 0 ∧
      (rangeState (queueCtx w 1023) (ringVa w 1023) 64 true none w).1.1 = .ready ∧
      (headerError 1023 (rangeState (queueCtx w 1023) (ringVa w 1023) 64 true none w).2).1 = 0 := by decide +kernel

theorem witness_queue_enable_refused :
    let w := queueWorld [(rFE_QCFG 1023, 5 * 2 ^ 24 + 2 ^ 32)] liveFe
    configured w = true ∧ queueOf w 1023 = none ∧ ringLog w 1023 < 6 := by decide +kernel

def queueFe (x : Queue) (works : Map Work) : Fe := { liveFe with queues := [(1023, x)], works := works }

theorem witness_queue_disable :
    let w := queueWorld queueRegs (queueFe freshQueue [])
    queueOf w 1023 = some freshQueue ∧ openEntries freshQueue = 0 ∧ freshQueue.destroying = false := by decide +kernel

/-- NOP with notify (R295, R296). -/
def nopEntry : Entry := ⟨1 + 2 ^ 16, 0, 9, 0, 1⟩

/-- One entry accepted and read. -/
def oneEntry (e : Entry) : Queue := { freshQueue with door := 1, head := 1, ents := [e], slot := some 0, lastSlot := some 0 }

theorem witness_destroy_quiesced :
    let x := { oneEntry nopEntry with destroying := true }
    let w := queueWorld queueRegs (queueFe x [])
    feHeld w = false ∧ queueOf w 1023 = some x ∧ x.destroying = true ∧ (∀ p ∈ w.fe.works, p.2.q ≠ 1023) ∧
      openEntries x = x.ents.length := by decide +kernel

/-- An entry not yet read stands in a page that is off-loaded to slot 0. -/
theorem witness_destroy_waits :
    let x := { freshQueue with door := 1, stamps := [1], destroying := true }
    let w0 := queueWorld queueRegs (queueFe x [])
    let w := { w0 with
      mem := { w0.mem with pte := mset mappedMem.pte (pteKey 1 0 0) 0xC080000000000000 }
      cas := { Cas.reset with slots := [(0, ⟨.host, 1, 0, 65536, [0x1000000000000]⟩)] } }
    feHeld w = false ∧ queueOf w 1023 = some x ∧ x.destroying = true ∧ (∀ p ∈ w.fe.works, p.2.q ≠ 1023) ∧
      (ringAwaits 1023 x w).1 = true := by decide +kernel

/-- A doorbell of the whole ring, 64 entries, is the last that is accepted (R294). -/
theorem witness_doorbell :
    let w := queueWorld queueRegs (queueFe freshQueue [])
    configured w = true ∧ queueOf w 1023 = some freshQueue ∧ ctxOf w (queueCtx w 1023) = some witCtx ∧ witCtx.st ≠ .destroying ∧
      freshQueue.destroying = false ∧ freshQueue.door < 64 ∧ 64 ≤ freshQueue.head + 2 ^ ringLog w 1023 ∧
      freshQueue.head + 2 ^ ringLog w 1023 < 65 ∧ queueOf w 0 = none := by decide +kernel

theorem witness_entry_fetch :
    let x := { freshQueue with door := 8, stamps := [1, 2, 3, 4, 5, 6, 7, 8] }
    let w := queueWorld queueRegs (queueFe x [])
    queueOf w 1023 = some x ∧ 8 ≤ x.stamps.length ∧ x.destroying = false ∧
      ∀ i, i < 8 → (rangeState (queueCtx w 1023) (entryVa w 1023 (x.head + i)) 32 false none w).1.1 = .ready := by decide +kernel

theorem witness_slot_map :
    let x := { freshQueue with door := 1, stamps := [1] }
    let w := queueWorld queueRegs (queueFe x [])
    queueOf w 1023 = some x ∧ wantsSlot x = true ∧ (∀ p ∈ w.fe.queues, p.2.slot ≠ some 31) ∧
      (w.fe.queues.filter (fun p => wantsSlot p.2)).length ≤ 32 - (w.fe.queues.filter (fun p => p.2.slot ≠ none)).length := by
  decide +kernel

theorem witness_entry_release :
    let x := oneEntry nopEntry
    let w := queueWorld queueRegs (queueFe x [])
    feHeld w = false ∧ queueOf w 1023 = some x ∧ x.ents = nopEntry :: [] ∧ x.slot ≠ none ∧ x.destroying = false ∧
      getWork w (workKey 1023 none) = none ∧ ctxLive w (queueCtx w 1023) = true ∧ entBad nopEntry = false ∧
      namesCmd (entKind nopEntry) = false ∧ entKind nopEntry ≠ 6 ∧ entKind nopEntry ≠ 5 ∧
      ctxLive { w with fe := { w.fe with ctxs := [(1, { witCtx with st := .lost, cause := 6 })] } } (queueCtx w 1023) = false := by
  decide +kernel

/-- The latest version of graph 7, which is not stored. -/
theorem witness_release_run :
    let e : Entry := ⟨1 + 6 * 256, 0, 9, 7 + 0xFFFF * 2 ^ 16, 1⟩
    let w := queueWorld queueRegs (queueFe (oneEntry e) [])
    let w' := { w with fe := { w.fe with graphs := [(7, ⟨1, false, 3, [(3, [])]⟩)] } }
    feHeld w = false ∧ queueOf w 1023 = some (oneEntry e) ∧ getWork w (workKey 1023 none) = none ∧
      ctxLive w (queueCtx w 1023) = true ∧ entBad e = false ∧ entKind e = 6 ∧
      bindStatus w (queueCtx w 1023) e = some stObjGone ∧ bindStatus w' (queueCtx w' 1023) e = none := by decide +kernel

/-- The work of queue 1023's entry, of a kind. -/
def witWork (kind : Nat) : Work :=
  ⟨1023, none, kind, 1, 0, 1, 0, 0, 0, 1, [], false, none, none, false, 0, 0, 0⟩

def workKey0 : Nat := 8192 * 1023

theorem witness_nop :
    let w := queueWorld queueRegs (queueFe (oneEntry nopEntry) [(workKey0, witWork 0)])
    getWork w workKey0 = some (witWork 0) ∧ (witWork 0).fin = none ∧ (witWork 0).kind = 0 := by decide +kernel

/-- A WAIT on its own queue is met; one on queue 0, not enabled and never used, waits for the number 5; one on frame
key 0 is met (R300). -/
theorem witness_wait :
    let own := { witWork 5 with arg1 := 1023 }
    let other := { witWork 5 with arg1 := 0, arg0 := 5 }
    let frame := { witWork 5 with arg1 := 2 ^ 16 }
    let w (x : Work) := queueWorld ((rFE_QDONE 0, 4) :: queueRegs) (queueFe (oneEntry nopEntry) [(workKey0, x)])
    getWork (w own) workKey0 = some own ∧ waitMet (w own) own = true ∧ waitMet (w other) other = false ∧
      bit frame.arg1 16 = true ∧ waitMet (w frame) frame = true := by decide +kernel

theorem witness_entry_timeout :
    let x := { witWork 1 with limit := 1000 }
    let w := { queueWorld queueRegs (queueFe (oneEntry nopEntry) [(workKey0, x)]) with now := 1000 }
    getWork w workKey0 = some x ∧ x.limit ≠ 0 ∧ x.since + x.limit ≤ w.now ∧ x.fin = none ∧ x.stop = none ∧
      ctxOf w x.ctx = some witCtx ∧ witCtx.st = .live := by decide +kernel

theorem witness_entry_complete :
    let x := { witWork 0 with fin := some 0 }
    let w := queueWorld queueRegs (queueFe (oneEntry nopEntry) [(workKey0, x)])
    feHeld w = false ∧ getWork w workKey0 = some x ∧ x.node = none ∧ x.fin = some 0 ∧
      queueOf w x.q = some (oneEntry nopEntry) ∧ nodesOut w x.q = false ∧ stepOf w workKey0 = none := by decide +kernel


/-! ### Witnesses: stored graphs and launches -/

def isBytes (r : FeRead) (b : List Byte) : Bool :=
  match r with
  | .bytes c => decide (c = b)
  | _ => false

theorem feBytes_of {w : World} {ctx va n stamp : Nat} {b : List Byte} (h : isBytes (feRead ctx va n stamp w).1 b = true) :
    feBytes w ctx va n stamp b := by
  unfold feBytes
  cases hr : feRead ctx va n stamp w with
  | mk r u =>
    rw [hr] at h
    cases r with
    | bytes c => exact ⟨u, by simp only [isBytes, decide_eq_true_eq] at h; rw [h]⟩
    | waits => exact absurd h (by simp [isBytes])
    | gone => exact absurd h (by simp [isBytes])

/-- Context 1's object: the page mapped at virtual address 0. -/
def witObj : Obj := ⟨1, 0, 0, 65536, .map, false, false, 0, false, none, false, []⟩

/-- The page holds 1 at its first byte and at offset 64: a graph image's version, and a NOP entry (R309, R310). -/
def imageMem : Mem := { mappedMem with bytes := [(0x100000, 1), (0x100040, 1)], invBusy := 0, sysBusy := false, objs := [(1, witObj)], nextObj := 2 }

def zeros (n : Nat) : List Byte := List.replicate n 0

/-- A node record: a NOP entry without predecessors. -/
def nopNode : List Byte := 1 :: zeros 767

def graphBytes (op count base src : Nat) : List Byte :=
  [1, BitVec.ofNat 8 op, 7, 0, BitVec.ofNat 8 base, 0, BitVec.ofNat 8 count, 0, BitVec.ofNat 8 src] ++ zeros 55

def graphWork (op count base src : Nat) : Work := { witWork 7 with cmd := graphBytes op count base src }

/-- Room for 16 nodes; the store, the graphs and the runs as given. -/
def graphWorld (x : Work) (graphs : Map Graph) (nodes : Map (List Byte)) (runs : Map GraphRun) : World :=
  { confWorld ((rFE_CAP, 16 * 2 ^ 32) :: queueRegs) with
    mem := imageMem
    fe := { queueFe (oneEntry nopEntry) [(workKey0, x)] with graphs := graphs, nodes := nodes, runs := runs } }

def witGraph : Graph := ⟨1, false, 1, [(1, [0])]⟩

theorem witness_graph_create :
    let x := graphWork 1 1 0 0
    let w := graphWorld x [] [] []
    let b := 1 :: zeros 63 ++ nopNode
    (getWork w workKey0 = some x ∧ x.kind = 7 ∧ x.fin = none ∧ x.stop = none ∧ gOther x.cmd = false ∧ gFieldBad x.cmd = false ∧ le x.cmd 1 1 = 1 ∧
        graphBehind w x = false) ∧
      gCount x.cmd = 1 ∧ isBytes (feRead x.ctx (gSrc x.cmd) (64 + 768 * gCount x.cmd) x.stamp w).1 b = true ∧ le b 0 1 = 1 ∧
      zeroBytes ((b.take 64).drop 1) = true ∧ graphOf w (gNum x.cmd) = none ∧ storeRoom w (gCount x.cmd) = true ∧
      (createdNodes x b).zipIdx.all (fun p => nodeOk p.2 p.1 && ndIndex p.1 = 0) = true := by decide +kernel

theorem witness_graph_patch :
    let x := graphWork 2 1 1 64
    let w := graphWorld x [(7, witGraph)] [(0, nopNode)] []
    (getWork w workKey0 = some x ∧ x.kind = 7 ∧ x.fin = none ∧ x.stop = none ∧ gOther x.cmd = false ∧ gFieldBad x.cmd = false ∧ le x.cmd 1 1 = 2 ∧
        graphBehind w x = false) ∧
      gCount x.cmd = 1 ∧ isBytes (feRead x.ctx (gSrc x.cmd) (768 * gCount x.cmd) x.stamp w).1 nopNode = true ∧
      ownGraph w x = some witGraph ∧ gBase x.cmd = witGraph.latest ∧
      (witGraph.versions.filter (fun v => (runVersions w (gNum x.cmd)).contains v.1)).length < 16 ∧
      storeRoom w (gCount x.cmd) = true ∧
      (nodeList (gCount x.cmd) nopNode).all (fun p => nodeOk (ndIndex p) p &&
        decide (ndIndex p < (mgetD witGraph.versions witGraph.latest []).length)) = true := by decide +kernel

theorem witness_graph_destroy :
    let x := graphWork 3 0 0 0
    let w := graphWorld x [(7, witGraph)] [(0, nopNode)] [(0, ⟨7, 1, [.waiting]⟩)]
    (getWork w workKey0 = some x ∧ x.kind = 7 ∧ x.fin = none ∧ x.stop = none ∧ gOther x.cmd = false ∧ gFieldBad x.cmd = false ∧ le x.cmd 1 1 = 3 ∧
        graphBehind w x = false) ∧
      ownGraph w x = some witGraph ∧ (w.fe.graphs.map (·.1)).Pairwise (· < ·) ∧ 1 ∈ runVersions w (gNum x.cmd) ∧
      mget witGraph.versions 1 = some [0] := by decide +kernel

theorem witness_graph_run :
    let x := { witWork 6 with arg1 := 7 + 0xFFFF * 2 ^ 16 }
    let r : GraphRun := ⟨7, 1, [.waiting]⟩
    let w := graphWorld x [(7, witGraph)] [(0, nopNode)] [(workKey0, r)]
    feHeld w = false ∧ getWork w workKey0 = some x ∧ workKey0 = workKey x.q none ∧ x.fin = none ∧ x.stop = none ∧
      x.node = none ∧ x.begun = false ∧ stepOf w workKey0 = none ∧ runOf w workKey0 = some r ∧
      (nodeSteps (versionNodes w r.graph r.version)).all (· = 0) = true ∧
      (versionNodes w r.graph r.version)[0]? = some nopNode ∧ nodeReady r nopNode = true ∧
      entKind (ndEntry nopNode) ∉ [1, 2, 3] := by decide +kernel

def isOk (r : LaunchRead) (cmd : List Byte) : Bool :=
  match r with
  | .ok c => decide (c = cmd)
  | _ => false

def isFail (r : LaunchRead) (st : Nat) : Bool :=
  match r with
  | .fail x => decide (x = st)
  | _ => false

/-- A launch descriptor with its constant buffer: one group of 64 registers and 16 KiB of SLM, code at 0 (R303). -/
def launchBytes : List Byte := [1, 0, 0, 0, 1, 0, 0, 0, 64, 0, 16, 0, 0, 0, 0, 0] ++ zeros 560

/-- A launch node's work with these structures. -/
def nodeWork (cmd : List Byte) : Work := { witWork 1 with node := some 0, cmd := cmd }

/-- Partition 0 has cluster 0 (R343). -/
def partRegs : List (Nat × Nat) := [(rSCHED_PART_CFG 0, 1)]

def launchWorld (x : Work) : World :=
  { confWorld (partRegs ++ queueRegs) with mem := imageMem, fe := queueFe (oneEntry nopEntry) [(workKey0, x)] }

theorem witness_launch :
    let x := nodeWork launchBytes
    let w := launchWorld x
    feHeld w = false ∧ getWork w workKey0 = some x ∧ x.kind = 1 ∧ x.fin = none ∧ x.begun = false ∧ x.stop = none ∧
      isOk (launchCmd workKey0 x w).1 launchBytes = true ∧ x.node ≠ none := by decide +kernel

theorem witness_launch_fails :
    let x := nodeWork (zeros 576)
    let w := launchWorld x
    feHeld w = false ∧ getWork w workKey0 = some x ∧ x.kind = 1 ∧ x.fin = none ∧ x.begun = false ∧ x.stop = none ∧
      isFail (launchCmd workKey0 x w).1 stVersion = true ∧ stVersion ≠ 2 ∧ x.ctx < 2 ^ 20 ∧ x.q < 1024 := by decide +kernel

/-- The launch has been checked and waits for its partition. -/
def readyWork : Work := { witWork 1 with cmd := launchBytes, begun := true }

theorem witness_preload :
    let r : Preload := ⟨workKey0, 0, launchBytes, [], false⟩
    let w := launchWorld readyWork
    let c := candOf w workKey0 readyWork false false false
    nextStart w 0 = some (c, none) ∧ c.saved = false ∧ candCmd w c = launchBytes ∧
      mget { w.fe with preloads := [(0, r)] }.preloads 0 = some r := by decide +kernel

/-- While the queue's first launch runs, the second is read ahead: its descriptor stands at virtual address 0. -/
theorem witness_preload_ahead :
    let e : Entry := ⟨1 + 256, 0, 9, 0, 1⟩
    let y : Queue := { oneEntry e with door := 2, head := 2, ents := [e, e] }
    let w0 := launchWorld readyWork
    let w := { w0 with
      mem := { imageMem with bytes := [(0x100000, 1), (0x100004, 1), (0x100008, 64), (0x10000A, 16)] }
      fe := { queueFe y [(workKey0, readyWork)] with launches := [(0, { witRun with work := workKey0 })] } }
    let c : Cand := { aheadCand w workKey0 1 with step := false, deadline := 0 }
    nextStart w 0 = some (c, some ⟨c, 1, e, []⟩) ∧ c.saved = false ∧
      (match (readLaunch c.ctx 0 e.stamp stCtxLost e.w1 w).1 with
        | .ok _ => true
        | _ => false) = true := by decide +kernel

theorem witness_launch_start :
    let r : Preload := ⟨workKey0, 0, launchBytes, [], true⟩
    let w0 := launchWorld readyWork
    let w := { w0 with fe := { w0.fe with preloads := [(0, r)] } }
    let c := candOf w workKey0 readyWork false false false
    feHeld w = false ∧ mget w.fe.launches 0 = none ∧ partDefined w 0 = true ∧ choose w 0 = some c ∧ c.saved = false ∧
      c.step = false ∧ c.fallback = false ∧ mget w.fe.preloads 0 = some r ∧ epochReady w 0 = true ∧ r.work = c.key ∧
      r.num = workNum w c.key ∧ r.cmd = candCmd w c ∧ r.ready = true ∧ coopTooLarge w 0 r.cmd = false := by decide +kernel

theorem witness_launch_complete :
    let l := { witRun with work := workKey0, placed := 2 }
    let w0 := launchWorld readyWork
    let w := { w0 with fe := { w0.fe with launches := [(0, l)] } }
    feHeld w = false ∧ mget w.fe.launches 0 = some l ∧ l.stop = none ∧ l.placed = l.groups ∧
      (∀ n ∈ l.cores, coreDrained (coreOf w n) = true) ∧ stepOfWork w l.work = none ∧ w.ras.retiring = [] ∧ fld w rRAS_STATUS 1 1 = 0 ∧
      getWork w l.work = some readyWork ∧ readyWork.fin = none := by decide +kernel


/-! ### Witnesses: memory commands and models -/

/-- A memory command structure (R254). -/
def jobBytes (op flags legacy num va len src : Nat) : List Byte :=
  [1, BitVec.ofNat 8 op, BitVec.ofNat 8 flags, BitVec.ofNat 8 legacy] ++ natLe num 2 ++ zeros 2 ++ natLe va 8 ++ natLe len 8 ++
    natLe src 8 ++ zeros 32

def jobWork (cmd : List Byte) : Work := { witWork 4 with cmd := cmd }

def jobOf (x : Work) : MemJob := ⟨some workKey0, 1, 0, 1, false, x.cmd⟩

/-- Pools of four 64 KiB pages, with `used` of the HBM pages in use; the table carve-out has room. -/
def jobMem (used : List Nat) : Mem :=
  { imageMem with hbmPools := [(0, ⟨0x800000, 4, used, []⟩)], hostPools := [(0, ⟨0x1000000000000, 4, [], []⟩)], tableRoom := 2 ^ 30 }

def jobWorld (x : Work) (m : Mem) : World :=
  { confWorld (partRegs ++ queueRegs) with mem := m, fe := queueFe (oneEntry nopEntry) [(workKey0, x)] }

/-- The parts of `memJob` that can be decided. -/
def jobReady (w : World) (x : Work) (op : Nat) : Bool :=
  decide (getWork w workKey0 = some x) && !(jobBad (jobOf x)) && decide (le x.cmd 1 1 = op) &&
    (match memJobOf w workKey0 with
     | some j => decide (j.work = some workKey0 ∧ j.ctx = 1 ∧ j.part = 0 ∧ j.stamp = 1 ∧ j.nowait = false ∧ j.cmd = x.cmd)
     | none => false)

theorem memJob_of {w : World} {x : Work} {op : Nat} (h : jobReady w x op = true) : memJob w workKey0 op x (jobOf x) := by
  simp only [jobReady, Bool.and_eq_true, decide_eq_true_eq, Bool.not_eq_true'] at h
  obtain ⟨⟨⟨h1, h2⟩, h3⟩, h4⟩ := h
  refine ⟨h1, ?_, h2, h3⟩
  split at h4
  · rename_i j hj
    simp only [decide_eq_true_eq] at h4
    obtain ⟨a, b, c, d, e, f⟩ := h4
    rw [hj]; cases j; simp only at a b c d e f; subst a b c d e f; rfl
  · cases h4

def mapWork : Work := jobWork (jobBytes 1 1 0 0 0x10000 0x10000 0)

theorem witness_map :
    let j := jobOf mapWork
    let w := jobWorld mapWork (jobMem [0])
    jobReady w mapWork 1 = true ∧ jobUnused true false false true true false j = false ∧
      rangeBad (pageBytes (bit j.flags 1)) j.va j.len = false ∧ bits j.flags 4 2 < 2 ∧ overlaps w j.ctx j.va j.len = false ∧
      w.mem.maps = [] ∧ w.mem.objs.length < 262144 ∧
      (allocN (bit j.flags 1) (j.len / pageBytes (bit j.flags 1)) (poolOf w (bit j.flags 2) j.part)).isSome = true := by
  decide +kernel

theorem witness_map_nowait :
    let j := jobOf mapWork
    let w := jobWorld mapWork (jobMem [0, 1, 2, 3])
    jobReady w mapWork 1 = true ∧ jobUnused true false false true true false j = false ∧
      rangeBad (pageBytes (bit j.flags 1)) j.va j.len = false ∧ bits j.flags 4 2 < 2 ∧ overlaps w j.ctx j.va j.len = false ∧
      bit j.flags 0 = true ∧ w.mem.maps = [] ∧
      allocN (bit j.flags 1) (j.len / pageBytes (bit j.flags 1)) (poolOf w (bit j.flags 2) j.part) = none := by decide +kernel

theorem witness_map_resume :
    let r : MapRun := ⟨some workKey0, 1, 0, 0x10000, 0x10000, false, false, 0, false, [], []⟩
    let w := jobWorld mapWork { jobMem [0] with maps := [r] }
    w.mem.maps.find? (fun m => m.work = some workKey0 && m.frames.isEmpty) = some r ∧
      w.mem.maps.find? (fun m => m.frames.isEmpty && m.part = r.part && m.host = r.host) = some r ∧
      w.mem.objs.length + (w.mem.maps.filter (fun m => !(m.frames.isEmpty))).length < 262144 ∧
      (allocN r.page2m (r.len / pageBytes r.page2m) (poolOf w r.host r.part)).isSome = true := by decide +kernel

theorem witness_unmap :
    let x := jobWork (jobBytes 2 0 0 0 0 0 0)
    let w := jobWorld x (jobMem [0])
    jobReady w x 2 = true ∧ jobUnused false false false true false false (jobOf x) = false ∧
      objFirst w 1 (jobOf x).va = some (1, witObj) ∧ objOf w 1 = some witObj ∧ witObj.drain = none ∧
      ctxOf w witObj.ctx = some witCtx := by decide +kernel

theorem witness_model_dereg :
    let x := jobWork (jobBytes 5 0 0 9 0x10000 0 0)
    let o := { witObj with va := 0x10000, kind := .model (jobOf x).key, wp := true }
    let w := jobWorld x { jobMem [0] with objs := [(1, witObj), (2, o)] }
    jobReady w x 5 = true ∧ jobUnused false false true true false false (jobOf x) = false ∧
      objFirst w 1 (jobOf x).va = some (2, o) ∧ objOf w 2 = some o ∧ o.drain = none ∧ ctxOf w o.ctx = some witCtx := by
  decide +kernel

theorem witness_alias :
    let x := jobWork (jobBytes 3 0 1 0 0x10000 0x40000 0)
    let w := jobWorld x (jobMem [0])
    let j := jobOf x
    jobReady w x 3 = true ∧ srcGone w j = false ∧ jobUnused false true false true true true j = false ∧
      rangeBad 65536 j.va j.len = false ∧ overlaps w j.ctx j.va j.len = false ∧ le j.cmd 3 1 ≠ 0 ∧ le j.cmd 3 1 < 6 ∧
      objFirst w j.ctx j.src = some (1, witObj) ∧ witObj.page2m = false ∧
      j.len * aliasBytes (le j.cmd 3 1) / 4 ≤ witObj.len ∧ objRoom w = true ∧
      ∀ i, i < j.len / 65536 → (aliasLeaf w witObj (aliasBytes (le j.cmd 3 1)) (le j.cmd 3 1) i).isSome = true := by decide +kernel

/-- Context 1's object in the host tier: a warm copy (R257). -/
def warmObj : Obj := { witObj with host := true }

/-- Its leaf names the first host-tier page. -/
def warmMem : Mem :=
  { jobMem [0] with
    objs := [(1, warmObj)]
    pte := mset mappedMem.pte (pteKey 1 0 0) 0x4081000000000000 }

theorem witness_model_reg :
    let x := jobWork (jobBytes 4 0 0 9 0x10000 0x10000 0)
    let w := jobWorld x warmMem
    let j := jobOf x
    jobReady w x 4 = true ∧ modelOf w j.key = none ∧ srcGone w j = false ∧ jobUnused false false true true true true j = false ∧
      rangeBad 65536 j.va j.len = false ∧ overlaps w j.ctx j.va j.len = false ∧ objFirst w j.ctx j.src = some (1, warmObj) ∧
      warmObj.kind = .map ∧ warmObj.host = true ∧ warmObj.attr = 0 ∧ j.len ≤ warmObj.len ∧ w.mem.models.length < 1024 ∧
      objRoom w = true := by decide +kernel

/-- Model 9 of partition 0 in one page. -/
def witModel (st : ModelSt) : Model := ⟨0, 9, 65536, st, 1, 0, 0, 0, if st = .warm then [] else [0x800000], 0, false, [], false⟩

theorem witness_model_counts : ∀ op ∈ [6, 7, 8], ∀ st ∈ [ModelSt.warm, .hot],
    let x := jobWork (jobBytes op 0 0 9 0 0 0)
    let w := jobWorld x { warmMem with models := [((jobOf x).key, witModel st)] }
    jobReady w x op = true ∧ jobUnused false false true false false false (jobOf x) = false ∧
      modelOf w (jobOf x).key = some (witModel st) := by decide +kernel

theorem witness_page_landed :
    let k := (jobOf (jobWork (jobBytes 8 0 0 9 0 0 0))).key
    let w := jobWorld mapWork { warmMem with models := [(k, witModel .loading)], tableRoom := 2 ^ 22, tables := [(0, 2 ^ 22 - 4096)] }
    modelOf w k = some (witModel .loading) ∧ (witModel .loading).st = .loading ∧
      (witModel .loading).landed < (witModel .loading).frames.length ∧ admits w 1 0 = true ∧ writesAlone w ∧
      Memory.wf w.mem.bytes = true ∧ nth (witModel .loading).frames 0 0 = 0x800000 ∧ w.mem.tableRoom ≤ 0x800000 ∧
      (∀ t ∈ w.mem.tables, t.2 + 4096 ≤ 0x800000) ∧ pageUnits (witModel .loading) = 1 ∧
      0x800000 + pageBytes (modelBig (witModel .loading)) ≤ warmUnit w (witModel .loading) 0 := by
  refine ⟨?_, ?_, ?_, ?_, alone_of_no_hart rfl rfl, ?_⟩ <;> decide +kernel

theorem witness_eviction :
    let k := (jobOf (jobWork (jobBytes 8 0 0 9 0 0 0))).key
    let w := jobWorld mapWork { warmMem with models := [(k, witModel .evicting)] }
    modelOf w k = some (witModel .evicting) ∧ (witModel .evicting).st = .evicting ∧ invPending w (modelKeys w k) = false ∧
      ∀ p ∈ w.mem.models, p.2.again = false := by decide +kernel

theorem witness_object_free :
    let o := { witObj with drain := some 1 }
    let a := { o with kind := .aliasOf 1, va := 0x40000000 }
    let w := { jobWorld mapWork { jobMem [0] with objs := [(1, o), (2, a)] } with fe := liveFe }
    objOf w 1 = some o ∧ o.drain ≠ none ∧ o.freeing = false ∧ heldSelf w 1 o = false ∧ o.kind = .map ∧
      aliasesOf w 1 = [(2, a)] ∧ objOf w 2 = some a ∧ a.kind = .aliasOf 1 := by decide +kernel


/-! ### Witnesses: contexts -/

/-- FE_CTX_SEL names context `n`; the arguments are `a`, `b` and `c`. -/
def ctxRegs (n a b c : Nat) : List (Nat × Nat) :=
  [(rFE_CTX_SEL, n), (rFE_CTX_ARG0, a), (rFE_CTX_ARG1, b), (rFE_CTX_ARG2, c)] ++ partRegs

def ctxWorld (n a b c : Nat) (fe : Fe) : World := { confWorld (ctxRegs n a b c ++ queueRegs) with mem := jobMem [0], fe := fe }

theorem witness_selected : ∀ n ∈ [1, 0xFFFFE],
    let w := ctxWorld n 0 0 0 liveFe
    configured w = true ∧ w.fe.ctxRun = none ∧ fld w rFE_CTX_SEL 0 20 = n ∧ n ≠ 0 ∧ n ≠ 0xFFFFF ∧
      ctxArg w 0 = 0 ∧ ctxArg w 1 = 0 ∧ ctxArg w 2 = 0 := by decide +kernel

theorem witness_create :
    let w := ctxWorld 2 0 0 0 liveFe
    llynState w = 2 ∧ ctxOf w 2 = none ∧ w.fe.ctxs.length < 4096 ∧ partDefined w 0 = true ∧
      tablePlace w ≠ none := by decide +kernel

theorem witness_kill_destroy :
    let lost := { witCtx with st := .lost, cause := 1 }
    let w := ctxWorld 1 0 0 0 liveFe
    let v := ctxWorld 1 0 0 0 { queueFe freshQueue [] with ctxs := [(1, lost)] }
    ctxOf w 1 = some witCtx ∧ witCtx.st = .live ∧ ctxQueues w 1 = [] ∧ ctxOf v 1 = some lost ∧ lost.st = .lost ∧
      ctxQueues v 1 = [1023] := by decide +kernel

theorem witness_subscribe :
    let w := ctxWorld 1 7 1023 9 (queueFe freshQueue [])
    bits (ctxArg w 1) 0 10 = 1023 ∧ ctxArg w 1 &&& subMask = ctxArg w 1 ∧ (queueOf w 1023).isSome = true ∧
      ctxLive w 1 = true ∧ w.fe.subs.length < 4096 ∧ serialGe (queueDone w 1023) (ctxArg w 0) = false := by decide +kernel

theorem witness_unsubscribe :
    let u : Sub := ⟨1, 1023, 7, none, none, 9⟩
    let w := ctxWorld 1 4095 0 0 { liveFe with subs := [(4095, u)] }
    ctxArg w 0 = 4095 ∧ mget w.fe.subs 4095 = some u ∧ u.ctx = 1 ∧ ctxLive w 1 = true := by decide +kernel

theorem witness_map_io :
    let w := ctxWorld 1 0x20000 0x3000000000000 0x10000 liveFe
    rangeBad 65536 0x20000 0x10000 = false ∧ 0x3000000000000 % 65536 = 0 ∧ inPcie 0x3000000000000 = true ∧
      inPcie (0x3000000000000 + 0x10000 - 1) = true ∧ overlaps w 1 0x20000 0x10000 = false ∧ ctxLive w 1 = true ∧
      objRoom w = true ∧ ioTablesFit w 1 0x20000 0x10000 = true ∧ ctxArg w 1 = 0x3000000000000 := by decide +kernel

theorem witness_memcmd :
    let w := ctxWorld 1 0x200000 0 0 liveFe
    0x200000 % 64 = 0 ∧ isMain 0x200000 = true ∧ ctxOf w 1 = some witCtx ∧ memoryAlone w ∧
      byteAt w.mem.bytes 0x200000 ≠ 1 := by
  refine ⟨?_, ?_, ?_, ⟨fun _ => rfl, rfl⟩, ?_⟩ <;> decide +kernel

theorem witness_flags_clear :
    let w := ctxWorld 1 0 0 0 liveFe
    configured w = true ∧ fld w rFE_CTX_SEL 0 20 = 1 ∧ ctxOf w 1 = some witCtx ∧ witCtx.st ≠ .destroying := by decide +kernel

theorem witness_destroy_complete :
    let c := { witCtx with st := .destroying }
    let w := ctxWorld 1 0 0 0 { Fe.reset with ctxs := [(1, c)], ctxRun := some (.destroy 1) }
    ctxOf w 1 = some c ∧ ctxQueues w 1 = [] ∧ w.mem.inval = [] ∧ (∀ m ∈ w.irq.inbox, m.ctx ≠ 1) ∧ (∀ m ∈ w.mem.maps, m.ctx ≠ 1) ∧
      (w.mem.objs.map (·.1)).Nodup ∧ (w.fe.ctxs.map (·.1)).Nodup ∧ w.fe.ctxRun = some (.destroy 1) := by decide +kernel

/-- A DESTROYING and a FREE context, and a LIVE one with an enabled queue. -/
theorem witness_wrong_state :
    let w := ctxWorld 1 0 0 0 { liveFe with ctxs := [(1, { witCtx with st := .destroying })] }
    let v := ctxWorld 1 0 0 0 (queueFe freshQueue [])
    ctxOf w 1 = some { witCtx with st := .destroying } ∧ ctxOf (ctxWorld 2 0 0 0 liveFe) 2 = none ∧
      ctxOf v 1 = some witCtx ∧ ctxQueues v 1 ≠ [] := by decide +kernel

/-- Queue 5 is not enabled; entry 0 of a queue counts as done. -/
theorem witness_subscribe_refused :
    let v := ctxWorld 1 7 5 9 (queueFe freshQueue [])
    let w := ctxWorld 1 (queueDone v 1023) 1023 9 (queueFe freshQueue [])
    bits (ctxArg v 1) 0 10 = 5 ∧ ctxArg v 1 &&& subMask = ctxArg v 1 ∧ queueOf v 5 = none ∧
      (queueOf w 1023).isSome = true ∧ ctxLive w 1 = true ∧ w.fe.subs.length < 4096 ∧
      serialGe (queueDone w 1023) (ctxArg w 0) = true := by decide +kernel


/-! ### Witnesses: Cassia and Saffron -/

/-- A Cassia command of one page at virtual address 0 and slot 0 (R197). -/
def casBytes (op : Nat) : List Byte := [1, BitVec.ofNat 8 op] ++ zeros 6 ++ natLe 0 8 ++ natLe 65536 8 ++ zeros 40

def casWork (op : Nat) : Work := { witWork 2 with cmd := casBytes op }

/-- Partition 0 has four off-load slots and a pool of `n` host pages. -/
def casWorld (x : Work) (m : Mem) (n : Nat) (slots : Map CasSlot) (run : Option CasRun) : World :=
  { confWorld ([(rCAS_PART_CFG 0, 4)] ++ queueRegs) with
    mem := m
    fe := queueFe (oneEntry nopEntry) [(workKey0, x)]
    cas := { Cas.reset with slots := slots, pools := [(0, ⟨0x1000000000000, n, [], []⟩)], run := run } }

def casReadyB (w : World) (x : Work) (op : Nat) : Bool :=
  decide (getWork w workKey0 = some x ∧ x.kind = 2 ∧ x.fin = none ∧ x.stop = none ∧ w.cas.run = none ∧
    w.cas.pageIns = [] ∧ (casNext w).map (·.1) = some workKey0 ∧ cBad x.cmd = false ∧ cOp x.cmd = op)

theorem casReady_of {w : World} {x : Work} {op : Nat} (h : casReadyB w x op = true) : casReady w workKey0 op x := by
  simpa [casReadyB, casReady] using h

theorem witness_offload :
    let x := casWork 1
    let w := casWorld x (jobMem [0]) 4 [] none
    casReadyB w x 1 = true ∧ cVa x.cmd + cLen x.cmd ≤ 2 ^ 57 ∧ rangeGone w x.ctx (cVa x.cmd) (cLen x.cmd) x.stamp = false ∧
      cSlot x.cmd < casSlots w x.part ∧ casSlot w (slotKey x) = none ∧
      (∀ l ∈ rangeLeaves w x.ctx (cVa x.cmd) (cLen x.cmd), leafRefused (cVa x.cmd) (cLen x.cmd) l = false) ∧
      (rangeLeaves w x.ctx (cVa x.cmd) (cLen x.cmd)).length = 1 ∧
      (allocN false (cLen x.cmd / 65536) (casPool w x.part)).isSome = true ∧
      allocN false (cLen x.cmd / 65536) (casPool (casWorld x (jobMem [0]) 0 [] none) x.part) = none := by decide +kernel

def witSlot (st : SlotSt) : CasSlot := ⟨st, 1, 0, 65536, [0x1000000000000]⟩

theorem witness_offload_acknowledged :
    let x := casWork 1
    let r : CasRun := ⟨workKey0, 1, 0, [⟨0, 0, 0x100000⟩], false⟩
    let w := casWorld x (jobMem [0]) 4 [(0, witSlot .out)] (some r)
    w.cas.run = some r ∧ r.op = 1 ∧ casSlot w r.slot = some (witSlot .out) ∧ getWork w r.work = some x ∧ x.stop = none ∧
      casEnding w r.work = false ∧ invPending w (moveKeys (witSlot .out).owner r.moves) = false ∧ admits w 1 x.part = true ∧ x.part < 16 ∧
      (∀ m ∈ r.moves, (m.va - (witSlot .out).va) / 65536 < 2 ^ 24) ∧ r.moves = [⟨0, 0, 0x100000⟩] ∧
      quietMemory w (nth (witSlot .out).pages 0 0) := by
  intro x r w
  have frame : writesAlone w := ⟨⟨fun _ => rfl, rfl⟩, fun _ => rfl⟩
  simp only [quietMemory, frame, true_and]
  decide +kernel

/-- The last translations of an OFFLOAD and of a PREFETCH are being invalidated. -/
theorem witness_cassia_confirmed : ∀ op ∈ [1, 2],
    let x := casWork op
    let r : CasRun := ⟨workKey0, op, 0, [⟨0, 0, 0x100000⟩], decide (op = 1)⟩
    let y := witSlot (if op = 1 then .out else .inn)
    let q : InvReq := ⟨[pteKey 1 0 0], .casDone workKey0⟩
    let w := casWorld x { jobMem [0] with inval := [q] } 4 [(0, y)] (some r)
    w.mem.inval = q :: [] ∧ q.cont = .casDone r.work ∧ w.cas.run = some r ∧ casSlot w r.slot = some y ∧
      getWork w r.work = some x ∧ x.fin = none ∧ r.op = op ∧ (op = 1 → r.moved = true) := by decide +kernel

/-- The page of virtual address 0 is off-loaded to slot 0 of partition 0 (R248). -/
def offMem : Mem := { jobMem [0] with pte := mset mappedMem.pte (pteKey 1 0 0) 0xC080000000000000 }

theorem witness_prefetch_discard : ∀ op ∈ [2, 3], ∀ st ∈ [SlotSt.host, .retained],
    let x := casWork op
    let w := casWorld x offMem 4 [(0, witSlot st)] none
    casReadyB w x op = true ∧ ownSlot w x = some (some (witSlot st)) := by decide +kernel

theorem witness_prefetch_page :
    let x := casWork 2
    let r : CasRun := ⟨workKey0, 2, 0, [], false⟩
    let y := witSlot .inn
    let w := casWorld x offMem 4 [(0, y)] (some r)
    let v := casWorld x (jobMem [0]) 4 [(0, y)] (some r)
    w.cas.run = some r ∧ r.op = 2 ∧ casSlot w r.slot = some y ∧ getWork w r.work = some x ∧ x.stop = none ∧ x.fin = none ∧
      casEnding w r.work = false ∧ casEnding v r.work = false ∧ nextOff w r.slot y = some ⟨0, 0, 0⟩ ∧ (allocPage false (hbmPool w x.part)).isSome = true ∧ admits w 1 x.part = true ∧
      nextOff v r.slot y = none := by decide +kernel

theorem witness_page_in :
    let p : PageIn := ⟨1, 0, 0, 0, 0, some 0x810000, none, false⟩
    let y := witSlot .host
    let w0 := casWorld (casWork 2) offMem 4 [(0, y)] none
    let w := { w0 with cas := { w0.cas with pageIns := [p] } }
    w.cas.pageIns = p :: [] ∧ p.frame = some 0x810000 ∧ casSlot w p.slot = some y ∧ p.ctx = y.owner ∧
      offTo p.slot (pteOf w p.ctx p.level p.va) = true ∧ admits w 1 (p.slot / 65536) = true := by decide +kernel

/-- Two pages of context 1, virtual addresses 0 to 0x1FFFF, with these bytes. -/
def twoPages (bs : Map Byte) : Mem :=
  { jobMem [0] with
    bytes := bs
    objs := [(1, { witObj with len := 0x20000 })]
    pte := mset mappedMem.pte (pteKey 1 0 0x10000) 0x4080000000110000 }

/-- A Saffron command: rule, rows, records a row, record base 0, gradient base 0x10000 in FP32 (R209). -/
def safBytes (op rule : Nat) : List Byte :=
  if op = 1 then [1, 1, BitVec.ofNat 8 rule, 0] ++ natLe 1 4 ++ natLe 1 4 ++ zeros 12 ++ natLe 256 8 ++ natLe 0x10000 8 ++ zeros 88
  else [1, BitVec.ofNat 8 op, BitVec.ofNat 8 rule] ++ zeros 125

def safWork (op rule : Nat) : Work := { witWork 3 with cmd := safBytes op rule }

/-- Rule 0 and programs are armed. -/
def safWorld (x : Work) (m : Mem) (cmds : List SafCmd) : World :=
  { confWorld ((rSAF_CFG, 0x1F) :: queueRegs) with
    mem := m, fe := queueFe (oneEntry nopEntry) [(workKey0, x)], saf := { Saf.reset with cmds := cmds } }

def safReadyB (w : World) (x : Work) (op : Nat) : Bool :=
  decide (getWork w workKey0 = some x ∧ x.kind = 3 ∧ x.fin = none ∧ x.stop = none) && (safOf w workKey0).isNone &&
    !(sBad x.cmd) && decide (sOp x.cmd = op)

theorem safReady_of {w : World} {x : Work} {op : Nat} (h : safReadyB w x op = true) : safReady w workKey0 op x := by
  simp only [safReadyB, Bool.and_eq_true, decide_eq_true_eq, Bool.not_eq_true', Option.isNone_iff_eq_none] at h
  obtain ⟨⟨⟨⟨a, b, c, d⟩, e⟩, f⟩, g⟩ := h
  exact ⟨a, b, c, d, e, f, g⟩

theorem witness_update :
    let x := safWork 1 0
    let w := safWorld x (twoPages []) []
    safReadyB w x 1 = true ∧ rangesNormal w x.ctx x.stamp (updateRanges x.cmd) = true ∧ updateBad w x.cmd = false ∧
      sFmtOk (sFmt x.cmd) = true ∧ rangesNormal (safWorld x (jobMem [0]) []) x.ctx x.stamp (updateRanges x.cmd) = false := by
  decide +kernel

theorem witness_factor_load :
    let x := safWork 2 0
    let w := safWorld x (twoPages []) []
    safReadyB w x 2 = true ∧ rangeNormal w x.ctx (sRecBase x.cmd) 131072 x.stamp = true ∧ sRecBase x.cmd % 256 = 0 := by
  decide +kernel

/-- A program of one micro-op at virtual address 0. -/
theorem witness_prog_load :
    let x := safWork 3 31
    let w := safWorld x (twoPages [(0x100000, 1), (0x100001, 1)]) []
    let va := sRecBase x.cmd
    let h := streamRead bySaffron 0x050 0 x.ctx va 4 (rangeState x.ctx va 4 false (some workKey0) w).2
    let b := streamRead bySaffron 0x050 0 x.ctx (va + 4) 4 (rangeState x.ctx va 8 false (some workKey0) h.2).2
    safReadyB w x 3 = true ∧ 16 ≤ sRule x.cmd ∧ sRule x.cmd < 32 ∧
      rangeNormal w x.ctx va 4 x.stamp = true ∧ (rangeState x.ctx va 4 false (some workKey0) w).1.1 = .ready ∧
      poisonAt h.2 x.ctx va 4 = none ∧ le h.1 0 1 = 1 ∧ le h.1 1 1 = 1 ∧ le h.1 2 2 = 0 ∧
      rangeNormal h.2 x.ctx va 8 x.stamp = true ∧ (rangeState x.ctx va 8 false (some workKey0) h.2).1.1 = .ready ∧
      poisonAt b.2 x.ctx (va + 4) 4 = none ∧ (sProg (x.cmd ++ b.1)).all microOk = true := by decide +kernel

/-- A record of zeros of version 1 and rule 0, with its CRC (R207, R208). -/
def witRecord : List Byte :=
  let body := 1 :: zeros 251
  body ++ natLe (crc32c body) 4

/-- The first record of an UPDATE and its gradient, as unit `u` reads them. -/
def witReads (u : Nat) (x : Work) (c : SafCmd) (w : World) : (List Byte × List Byte × List Byte) × World :=
  recordReads u c 0 0 (safCharged c x ((recVa c.cmd 0 0, 256) :: gradRanges c.cmd 0 0) (recordBytesMoved c.cmd 0 0) w)

theorem witness_record_update :
    let x := safWork 1 0
    let c := newSafCmd workKey0 1 x.cmd
    let w := safWorld x (twoPages (listSet [] 0x100000 witRecord)) [c]
    let u := unitOf w 0x100000
    let rs := (recVa c.cmd 0 0, 256) :: gradRanges c.cmd 0 0
    let reads := witReads u x c w
    let rd := reads.1
    safOf w workKey0 = some c ∧ getWork w workKey0 = some x ∧ x.stop = none ∧ u < 12 ∧ unitReached w workKey0 u = true ∧
      admits w 0 x.part = true ∧ sOp c.cmd = 1 ∧ mayTake w c u 0 = true ∧ (safRanges c.ctx c.work rs w).1 = .ready ∧
      (∀ p ∈ rs, p.2 ≠ 0 → poisonAt reads.2 c.ctx p.1 p.2 = none) ∧
      rd.1 = witRecord ∧ crc32c (witRecord.take 252) = le witRecord 252 4 ∧ le rd.1 0 1 = 1 ∧ le rd.1 1 1 = sRule c.cmd ∧
      (match stepRecord c.cmd [] rd.1 (recordGrad w c u 0 rd.2.1 rd.2.2) with
       | .done b' _ _ => decide (b'.length = 256)
       | .skip _ => false) = true := by decide +kernel

/-- No hart holds a line or a reservation, and no write waits. -/
theorem witness_writes_alone : writesAlone (safWorld (safWork 1 0) (twoPages []) []) :=
  ⟨⟨fun _ => rfl, rfl⟩, fun _ => rfl⟩

theorem witness_record_crc :
    let x := safWork 1 0
    let c := newSafCmd workKey0 1 x.cmd
    let w := safWorld x (twoPages [(0x100000, 1)]) [c]
    let rd := (witReads (unitOf w 0x100000) x c w).1
    crc32c (rd.1.take 252) ≠ le rd.1 252 4 := by decide +kernel

/-- Where nothing is poisoned, no range is. -/
theorem poisonAt_clean {w : World} (ctx va n : Nat) (h : w.mem.poison = []) (l : w.mem.later = []) :
    poisonAt w ctx va n = none := by
  unfold poisonAt
  rw [List.findSome?_eq_none_iff]
  intro i _
  split <;> simp [h, l, poisoned]

theorem witness_load_copy :
    let x := safWork 3 31
    let c := newSafCmd workKey0 1 x.cmd
    let w := safWorld x (twoPages []) [c]
    let y := safWork 2 0
    let d := newSafCmd workKey0 1 y.cmd
    let v := safWorld y (twoPages []) [d]
    (safOf w workKey0 = some c ∧ getWork w workKey0 = some x ∧ x.stop = none ∧ unitReached w workKey0 11 = true ∧
      admits w 0 x.part = true) ∧ 11 ∉ c.loaded ∧ sOp c.cmd = 3 ∧ c.poison = false ∧
    (safOf v workKey0 = some d ∧ getWork v workKey0 = some y ∧ y.stop = none ∧ unitReached v workKey0 11 = true ∧
      admits v 0 y.part = true) ∧ sOp d.cmd = 2 ∧ 11 ∉ d.loaded ∧
      (safRanges d.ctx d.work [(sRecBase d.cmd, 131072)] v).1 = .ready ∧ sRecBase d.cmd % 64 = 0 := by decide +kernel

/-- The factor that it reads is not poisoned. -/
theorem witness_factor_clean :
    let y := safWork 2 0
    let d := newSafCmd workKey0 1 y.cmd
    poisonAt (factorRead 11 d y (safWorld y (twoPages []) [d])).2 d.ctx (sRecBase d.cmd) 131072 = none := by
  intro y d
  unfold factorRead
  generalize hw : safCharged d y [(sRecBase d.cmd, 131072)] 131072 (safWorld y (twoPages []) [d]) = w
  have m : Memory.wf w.mem.bytes = true ∧ w.mem.poison = [] ∧ w.mem.later = [] := by rw [← hw]; decide +kernel
  have c := streamRead_clean bySaffron (0x050 + 11) 0 d.ctx (sRecBase d.cmd) 131072 (w := w) ⟨m.1, rfl, rfl, rfl, m.2⟩
  exact poisonAt_clean _ _ _ c.2.2.2.2.1 c.2.2.2.2.2

theorem witness_saffron_complete :
    let x := safWork 1 0
    let c := { newSafCmd workKey0 1 x.cmd with done := [0] }
    let d := { newSafCmd workKey0 1 (safWork 2 0).cmd with loaded := List.range 12 }
    let w := safWorld x (twoPages []) [c]
    safOf w workKey0 = some c ∧ getWork w workKey0 = some x ∧ x.fin = none ∧ c.poison = false ∧ sOp c.cmd = 1 ∧
      c.done.length = recCount c ∧ sOp d.cmd ≠ 1 ∧ ∀ u, u < 12 → u ∈ d.loaded := by decide +kernel

theorem witness_saffron_poison :
    let x := safWork 1 0
    let c := { newSafCmd workKey0 1 x.cmd with done := [0], poison := true }
    let w := safWorld x (twoPages []) [c]
    safOf w workKey0 = some c ∧ getWork w workKey0 = some x ∧ x.fin = none ∧ x.stop = none ∧ ctxOf w x.ctx = some witCtx ∧
      witCtx.st = .live ∧ c.poison = true ∧ sOp c.cmd = 1 ∧ c.done.length = recCount c := by decide +kernel

/-! ### Witnesses: scheduling and batch steps -/

/-- Partition 0 runs `l`; its core holds one group. -/
def schedWorld (l : Launch) (c : Core) : World :=
  let w := launchWorld readyWork
  { w with fe := { w.fe with launches := [(0, l)] }, cores := [(0, c)], sched := { w.sched with preempt := [0] } }

theorem witness_launch_saved :
    let l := { witRun with work := workKey0 }
    let w := schedWorld l { Core.reset with launch := some witLaunch, groups := [(0, witGroup [] witActive)] }
    mget w.fe.launches 0 = some l ∧ 0 ∈ w.sched.preempt ∧ l.stop = none ∧ (∀ n ∈ l.cores, coreQuiet (coreOf w n) = true) ∧
      w.ras.retiring = [] ∧ fld w rRAS_STATUS 1 1 = 0 ∧ ¬ (l.placed = l.groups ∧ ∀ n ∈ l.cores, coreDrained (coreOf w n) = true) := by decide +kernel

/-- A saved launch of context 1. -/
def witSaved : Saved := ⟨{ witRun with work := workKey0 }, [(0, { Core.reset with launch := some witLaunch })], false, 0⟩

/-- Context 1 with a saved launch, and this residency. -/
def savedWorld (r : Residency) (m : Mem) (moved : Map (List Moved)) : World :=
  let w := launchWorld readyWork
  { w with mem := m, sched := { w.sched with saved := [(0, [witSaved])], residency := [(1, r)], moved := moved } }

theorem witness_restore :
    let w := savedWorld .resident imageMem []
    let c := candOf w workKey0 readyWork true false false
    feHeld w = false ∧ mget w.fe.launches 0 = none ∧ choose w 0 = some c ∧ c.saved = true ∧
      (savedOf w 0).find? (fun v => v.launch.work = c.key) = some witSaved ∧ witSaved.lost = false ∧
      (∀ n ∈ witSaved.launch.cores, coreServes w n = true) ∧ (witSaved.cores.map (·.1)).Nodup := by decide +kernel

theorem witness_swap_out :
    let w0 := launchWorld { readyWork with fin := some 0 }
    let w := { w0 with mem := jobMem [], sched := { w0.sched with residency := [(1, .swappingOut)] } }
    residencyOf w 1 = .swappingOut ∧ admits w 1 (ctxPart w 1) = true ∧ runnable w (ctxPart w 1) 1 = false ∧
      (swapPages w 1).map (fun x => (x.frame, x.big)) = [(0x100000, false)] ∧
      (allocList ((swapPages w 1).map (·.big)) (hostPool w (ctxPart w 1))).map (·.1) = some [0x1000000000000] ∧
      quietMemory w 0x1000000000000 := by
  refine ⟨?_, ?_, ?_, ?_, ?_, ⟨alone_of_no_hart rfl rfl, ?_, ?_⟩⟩ <;> decide +kernel

theorem witness_swap_in :
    let w := savedWorld .swappingIn warmMem [(1, [⟨pteKey 1 0 0, 0x100000, 0x1000000000000⟩])]
    residencyOf w 1 = .swappingIn ∧ admits w 1 (ctxPart w 1) = true ∧ runnable w (ctxPart w 1) 1 = true ∧
      (movedPages w 1).map (fun x => (x.frame, x.big)) = [(0x1000000000000, false)] ∧
      (allocList ((movedPages w 1).map (·.big)) (hbmPool w (ctxPart w 1))).map (·.1) = some [0x810000] ∧
      quietMemory w 0x810000 := by
  refine ⟨?_, ?_, ?_, ?_, ?_, ⟨alone_of_no_hart rfl rfl, ?_, ?_⟩⟩ <;> decide +kernel

/-- A step of context 1 that names model 9, with a release, a decision and a deadline. -/
def witStep (rel dec dl : Nat) : Step :=
  { part := 0, ctx := 1, stamp := 1, record := 0, mark := 0, decide := true, fbGraph := none, fbCmd := launchBytes
    models := [modelKey 0 9], model := 0x8009, fbModel := 0x8009, release := rel, decision := dec, deadline := dl
    est := 10, total := 1, finished := 0, started := none, released := true, decided := false, abandoned := false
    fallback := false, predicted := 0, status := 0 }

/-- Frame time runs, 1,000 lines to a frame, at tick 100; Meridian is enabled. -/
def stepWorld (t : Step) : World :=
  let ft := [(rFTB_RATE, 60 * 2 ^ 32 + 1), (rFTB_CFG, 1000 * 2 ^ 48 + 2), (rFTB_STATUS, 1), (rMER_CTL, 1)]
  let w := { confWorld (ft ++ partRegs ++ queueRegs) with
    mem := { warmMem with models := [(modelKey 0 9, witModel .hot)] }
    fe := queueFe (oneEntry nopEntry) [(workKey0, readyWork)] }
  { w with ftb := { w.ftb with acc := 100 * ftbUnit w }, sched := { w.sched with steps := [(workKey0, t)] } }

theorem witness_step_release : ∀ rel ∈ [0, 100],
    let t := { witStep rel 100 1000 with released := false }
    let w := stepWorld t
    feHeld w = false ∧ stepOf w workKey0 = some t ∧ getWork w workKey0 = some readyWork ∧ t.released = false ∧
      readyWork.stop = none ∧ readyWork.fin = none ∧ (t.release = 0 ∨ reachedKey w t.release = true) ∧
      (modelOf w (modelKey 0 9)).isSome = true := by decide +kernel

/-- Tick 100 and 10 for the launch: a deadline of 111 is kept, one of 110 is not (R363). -/
theorem witness_meridian : ∀ x ∈ [(111, true), (110, false)],
    let t := witStep 0 100 x.1
    let w := stepWorld t
    (stepOf w workKey0 = some t ∧ getWork w workKey0 = some readyWork ∧ t.decide = true ∧
      t.decided = false ∧ t.released = true ∧ fld w rMER_CTL 0 1 = 1 ∧ reachedKey w t.decision = true) ∧
      predictedEnd w t = 110 ∧ decide (predictedEnd w t < linOfKey w t.deadline % 2 ^ 64) = x.2 := by decide +kernel

/-- A decision one tick ahead is not due, one at this tick is (R363). -/
theorem witness_meridian_waits :
    stepOf (stepWorld (witStep 0 101 1000)) workKey0 = some (witStep 0 101 1000) ∧
      reachedKey (stepWorld (witStep 0 101 1000)) 101 = false ∧ reachedKey (stepWorld (witStep 0 100 1000)) 100 = true := by
  decide +kernel

/-! ### Witnesses: frame time and barriers -/

/-- The frame time base with its source and status, 16 measurements less one inside the window, last at 0 (R369). -/
def ftbWorld (source status now : Nat) (l : List (Nat × Nat)) : World :=
  let w := confWorld ([(rFTB_RATE, 60 * 2 ^ 32 + 1), (rFTB_CFG, 1000 * 2 ^ 48 + source), (rFTB_STATUS, status)] ++ l)
  { w with now := now, ftb := { acc := 0, good := 15, bad := 0, last := 0 } }

/-- The first measurement, and one that a resync waits for. -/
theorem witness_ptp_first : ∀ st ∈ [1, 1 + 4 + 8],
    let w := ftbWorld 2 st 0 []
    ftbSource w = 2 ∧ ftbState w ≠ 0 ∧ (fld w rFTB_STATUS 2 1 = 0 ∨ fld w rFTB_STATUS 3 1 = 1) := by decide +kernel

theorem witness_ptp_locks :
    let w := ftbWorld 2 5 0 [(rFTB_SERVO, 1000)]
    ftbSource w = 2 ∧ ftbState w = 1 ∧ fld w rFTB_STATUS 2 1 = 1 ∧ fld w rFTB_STATUS 3 1 = 0 ∧ w.ftb.good = 15 ∧
      ((w.ftb.acc : Int) - ptpRef w 1000).natAbs ≤ fld w rFTB_SERVO 0 32 * ftbNs w := by decide +kernel

theorem witness_ftb_loss :
    let w := ftbWorld 2 6 (10 ^ 6) [(rFTB_SERVO, 2 ^ 48)]
    ftbState w = 2 ∧ w.ftb.last + fld w rFTB_SERVO 48 16 * 10 ^ 6 ≤ w.now := by decide +kernel

/-- A frame of 1,000 lines each 1/60 s is the set rate; one of 500 lines is not (R372). -/
theorem witness_analog : ∀ x ∈ [(1000, true), (500, false)],
    let w := ftbWorld 3 5 0 [(rFTB_ALIGN, 2 ^ 63 + 77)]
    ftbSource w = 3 ∧ ftbState w ≠ 0 ∧ fld w rFTB_ALIGN 63 1 = 1 ∧ 0 < ftbFrame w ∧
      (within1000 (10 ^ 9 * ftbDen w) (ftbNum w * 16666667) && within1000 x.1 (ftbLpf w)) = x.2 := by decide +kernel

theorem witness_ftb_commands : configured (ftbWorld 3 1 0 []) = true ∧ ftbSource (ftbWorld 3 1 0 []) = 3 := by
  decide +kernel

/-- BAR.ARV, its handle in U0. -/
def arvWord : Nat := opWord 5 3 0

/-- A cooperative launch's core that expects `n` groups. -/
def barState (n : Nat) (arrived : List BarArrival) : State :=
  let c := { witCore [(0, 0)] arvWord 0 with launch := some { witLaunch with coop := true }, expect := n, arrived := arrived }
  stateOf { worldCore 0 c with fe := { liveFe with launches := [(0, { witRun with coop := true, placed := 2 })] } }

/-- More groups are expected; this is the last; this group has arrived before. -/
theorem witness_bar_arv : ∀ x ∈ [(2, false), (1, false), (2, true)],
    let i := witIss arvWord
    let s := barState x.1 (if x.2 then [⟨0, 0, 0, 1, 0⟩] else [])
    issued witAt s.w = some i ∧ clsOp arvWord = (5, 3) ∧
      unhindered ⟨[], [(fB i, 1, 1)]⟩ i s.w = true ∧
      fixedBad (fm 35 5 + fm 24 8) i = false ∧ ySem i < 16 ∧ i.ex ≠ 0 ∧ (launchOn s.w i.core).coop = true ∧
      handleBad (barHandle i s.w) = false ∧ nbgRefuses s.w (barHandle i s.w) (launchOn s.w i.core) = false ∧
      hasArrived (coreOf s.w i.core) i.slot (hBarrier (barHandle i s.w)) = x.2 ∧
      (∀ y ∈ (barPeers i s.w).head?, handleDiffers y.handle (barHandle i s.w) = false) ∧
      decide ((barPeers i s.w).length + 1 = (coreOf s.w i.core).expect) = (x.1 == 1 || x.2) := by decide +kernel

/-- Handles of scope CLUSTER (0) and PARTITION (2); one core, and two, in cluster 0. -/
theorem witness_contributions : ∀ x ∈ [([0], 0), ([0, 1], 0), ([0], 2 * 2 ^ 30)],
    let m : BarMsg := ⟨1, 0, x.2, [0]⟩
    let l := { witRun with coop := true, barCores := x.1, barMsgs := [m] }
    let w := { World.reset with fe := { liveFe with launches := [(0, l)] } }
    let old := mgetD l.bars (barKey m.level m.unit (hBarrier m.handle)) ⟨0, [], m.handle⟩
    mget w.fe.launches 0 = some l ∧ l.barMsgs[0]? = some m ∧ handleDiffers old.handle m.handle = false ∧
      decide (old.count + 1 = barExpect l m.level m.unit) = (x.1.length == 1) ∧
      decide (m.level = hScope old.handle + 1) = (x.2 == 0) ∧ m.level ≠ 3 := by decide +kernel

theorem witness_bar_release :
    let cl := { witLaunch with coop := true }
    let l := { witRun with coop := true, barRels := [(0, 0)] }
    let c := { Core.reset with launch := some cl, arrived := [⟨0, 0, 3, 1, 0⟩] }
    let w := { worldCore 0 c with fe := { liveFe with launches := [(0, l)] } }
    (coreOf w 0).launch = some cl ∧ mget w.fe.launches cl.part = some l ∧ (0, 0) ∈ l.barRels ∧
      (∀ y ∈ (coreOf w 0).held, hBarrier y.handle ≠ 0) := by decide +kernel

/-- Group 0: parent node 5, child node 7, retry 1 µs, partition 0, enabled, with barrier 2's phase. -/
def nbgWorld (p : NbgPhase) : World :=
  let w := confWorld [(rNET_ROLE, 1), (rBT_NBG_STATUS 0, 1), (rBT_NBG_CFG 0, 2 ^ 48 + 2 ^ 27 + 5), (rBT_NBG_CHILD 0 0, 7)]
  { w with now := 2000, nbgs := [(0, ⟨some 1, 8192, [], [(2, p)]⟩)], fe := { liveFe with launches := [(0, witRun)] } }

/-- A datagram of phase 0 and barrier 2 for this node (R410). -/
def nbgGram (w : World) (typ sender : Nat) : Nat :=
  1 + typ * 2 ^ 8 + 2 * 2 ^ 24 + sender * 2 ^ 64 + nodeId w * 2 ^ 96

theorem witness_nbg_arrive :
    let w := nbgWorld blankPhase
    let d := nbgGram w 1 7
    configured w = true ∧ portRole w 0 = 1 ∧ btSender w d = some 0 ∧ bits d 16 4 = 0 ∧ bits d 24 6 = 2 ∧
      bits d 32 16 = (phaseOf w 0 2).phase ∧ 0 ∉ (phaseOf w 0 2).arrived ∧ (phaseOf w 0 2).cores = none ∧
      btSender w (nbgGram w 1 9) = none := by decide +kernel

theorem witness_nbg_release :
    let w := nbgWorld { blankPhase with cores := some [0], sent := some 0 }
    let d := nbgGram w 2 5
    configured w = true ∧ portRole w 0 = 1 ∧ btSender w d = some 16 ∧ bits d 32 16 = (phaseOf w 0 2).phase ∧
      nbgLaunch w 0 = some witRun ∧ (∀ v ∈ mgetD w.sched.saved (nbgPart w 0) [], v.launch.work ≠ (nbgOf w 0).work) ∧
      (phaseOf w 0 2).sent = some 0 ∧ (phaseOf w 0 2).released = false ∧ nbgActive w 0 = true ∧ 0 + 1000 * fld w (rBT_NBG_CFG 0) 48 16 ≤ w.now := by
  decide +kernel

/-! ### Witnesses: the network -/

/-- Ports 0 and 16 have role DATA; port 0 is up; the node table at 0x200000 is enabled (R394, R400). -/
def netRegs : List (Nat × Nat) :=
  [(rNET_ROLE, 1 + 2 ^ 32), (rNET_PORT_STATUS 0, 1 + 15 * 2 ^ 12), (rNET_PORT_STATUS 16, 15 * 2 ^ 12), (rNET_NODETAB, 0x200001)]

/-- Eight nodes; node 3's address has one byte that is not 0. -/
def nodeBytes : Map Byte := [(0x200000, 1), (0x200004, 8), (0x200070, 1)]

/-- Context 1's page holds nothing but 1 at its first byte; the node table stands at 0x200000. -/
def netMem : Mem := { jobMem [0] with bytes := (0x100000, 1) :: nodeBytes }

/-- A connection of context 1 on port 0 with node 3, in RTS. -/
def witConn : Conn := { blankConn with cfg := 2 ^ 63 + 2 ^ 41, peer := 3, st := 1, rate := 1600000000000 }

/-- A region of context 1 over its page, generation 0, open for WRITE and READ (R404). -/
def witRegion : Region := ⟨2 ^ 63 + 2 ^ 62 + 2 ^ 61 + 2 ^ 40, 0, 65536, [], [], [], []⟩

def netWorld (l : List (Nat × Nat)) (conns : Map Conn) : World :=
  let w := confWorld (l ++ netRegs ++ queueRegs)
  { w with mem := netMem, now := 10 ^ 6, fe := liveFe, net := { w.net with conns := conns, regions := [(5, witRegion)] } }

theorem witness_lane_failure :
    let w := netWorld [] []
    configured w = true ∧ portRole w 0 ≠ 0 ∧ bit (lanesOut w 0) 7 = false ∧ bit (lanesOut w 0) 8 = false ∧
      portDegraded w 0 = false ∧ spareFor w 0 = 15 := by decide +kernel

theorem witness_link :
    let w := netWorld [] []
    configured w = true ∧ portRole w 16 ≠ 0 ∧ portUp w 16 = false ∧ linkTrains w 16 = true ∧ portUp w 0 = true := by
  decide +kernel

/-- Port 0's receive and transmit rings of one entry, at 0x300000 and 0x310000; the driver has put one frame in. -/
def ringWorld : World :=
  let w := netWorld [(frReg false 0, 0x300000), (frReg false 0 + 8, 1), (frReg true 0, 0x310000), (frReg true 0 + 8, 1)] []
  { w with mem := { w.mem with bytes := w.mem.bytes ++ [(0x310008, 1), (0x310040, 64)] } }

theorem witness_frames :
    let w := ringWorld
    configured w = true ∧ portRole w 0 = 1 ∧ portUp w 0 = true ∧ frOn w (frReg false 0) = true ∧
      frPlaced w (frReg false 0) = true ∧
      rg w (rNET_FR_RX_TAIL 0) - rg w (rNET_FR_RX_HEAD 0) < frSize w (frReg false 0) ∧
      frOn w (frReg true 0) = true ∧ frPlaced w (frReg true 0) = true ∧ w.harts.hart = [] ∧ w.mem.later = [] ∧
      leNat (listAt w.mem.bytes (frBase w (frReg true 0) + 8) 8) = 1 ∧ rg w (rNET_FR_TX_HEAD 0) < 1 ∧
      1 - rg w (rNET_FR_TX_HEAD 0) ≤ frSize w (frReg true 0) ∧
      leNat (listAt w.mem.bytes (frEntry w (frReg true 0) (rg w (rNET_FR_TX_HEAD 0))) 2) = 64 ∧
      poisoned w (frEntry w (frReg true 0) 0) (64 + 64) = false := by decide +kernel

theorem witness_node_table :
    let w := netWorld [(rNET_NODETAB, 0)] []
    let w := { w with regs := (rgSet w rNET_NODETAB 0).regs }
    let b := bits 0x200001 6 46 * 64
    configured w = true ∧ fld w rNET_NODETAB 0 1 = 0 ∧ w.harts.hart = [] ∧ w.mem.later = [] ∧ inHbm b = true ∧ byteAt w.mem.bytes b = 1 ∧
      leNat (listAt w.mem.bytes (b + 4) 4) = 8 ∧ inHbm (b + 63 + 16 * 8) = true := by decide +kernel

theorem witness_connection_install :
    let c := { blankConn with peer := 3 }
    let w := netWorld [(rNET_CONN_SEL, 7)] [(7, c)]
    configured w = true ∧ (connOf w (connSel w)).getD blankConn = c ∧ bit c.cfg 63 = false ∧
      connPortOk w (bits (2 ^ 63 + 2 ^ 41) 36 5) c.peer = true := by decide +kernel

/-- Connection 7 is installed; it has heard no congestion. -/
theorem witness_connection :
    let w := netWorld [(rNET_CONN_SEL, 7)] [(7, witConn)]
    configured w = true ∧ connOf w (connSel w) = some witConn ∧ bit witConn.cfg 63 = true ∧
      (∀ r ∈ w.net.runs, r.conn ≠ connSel w) ∧ connHears w 7 = some witConn ∧ witConn.cut = none ∧ witConn.st = 1 ∧
      witConn.rateAt + 55000 ≤ w.now := by decide +kernel

theorem witness_region :
    let r := { witRegion with cfg := 0 }
    let v := 2 ^ 63 + 2 ^ 62 + 2 ^ 61 + 2 ^ 40
    let w0 := netWorld [(rNET_REG_SEL, 5)] []
    let w := { w0 with net := { w0.net with regions := [(5, r)] } }
    configured w = true ∧ regionOf w (regSel w) = r ∧ rOn r = false ∧
      regionError w { r with cfg := (v &&& regMask) + rGen r * 2 ^ 20 } = 0 ∧
      regionOf w0 (regSel w0) = witRegion ∧ rOn witRegion = true := by decide +kernel

/-- A WRITE of four bytes and a READ of 5,000, at offset 64 of the region. -/
theorem witness_roce_requests :
    let w := netWorld [] [(7, witConn)]
    connHears w 7 = some witConn ∧ 0 = witConn.expect ∧ regionFor w 0 5 64 4 = some (5, witRegion) ∧
      (rangeState (rCtx witRegion) (witRegion.va + 64) 4 true none w).1.1 = .ready ∧
      vaRead w (rCtx witRegion) (witRegion.va + 64) = some 0x100040 ∧ isMain 0x100040 = true ∧ w.harts.hart = [] ∧ w.mem.later = [] ∧
      regionFor w 2 5 64 5000 = some (5, witRegion) ∧
      (rangeState (rCtx witRegion) (witRegion.va + 64) 5000 false none w).1.1 = .ready ∧
      poisonAt w (rCtx witRegion) (witRegion.va + 64) 5000 = none ∧ nodeAddr w witConn.peer = some 1 ∧
      isMain (nodeTable w + 4) = true ∧ isMain (nodeTable w + 64 + 16 * witConn.peer) = true := by decide +kernel

/-- A packet of the command released first. -/
def witPkt (op : Nat) : NetPkt := ⟨0, 1, 1, op, 5, 64, 4, 0, true, true, none, [1, 2, 3, 4], []⟩

theorem witness_roce_ack :
    let c := { witConn with sent := [witPkt 0] }
    let w := netWorld [] [(7, c)]
    connHears w 7 = some c ∧ 7 ≠ twinConn ∧ w.net.twin.leaving = false ∧ c.sent = witPkt 0 :: [] ∧ (witPkt 0).op ≠ 2 ∧
      psnLe (witPkt 0).psn 0 = true ∧ (witPkt 0).psn < 2 ^ 24 := by decide +kernel

/-- A READ request acknowledged, and the range it reads; a packet of no charged partition. -/
theorem witness_readable :
    let w := netWorld [] [(7, witConn)]
    let va := witRegion.va + 64
    (rangeState 1 va 5000 false none w).1.1 = .ready ∧ poisonAt (rangeState 1 va 5000 false none w).2 1 va 5000 = none ∧
      pktPart w (witPkt 0) = none := by decide +kernel

/-- The seventh and the eighth timeout; and an RNR NAK at time 0. -/
theorem witness_timeouts : ∀ n ∈ [6, 7],
    let c := { witConn with sent := [witPkt 0], retries := n }
    let d := { witConn with rnr := some 0 }
    let g := { c with peer := 2 ^ 18 - 1 }
    let w := netWorld [] [(7, c), (8, d), (9, g)]
    connOf w 7 = some c ∧ c.st = 1 ∧ c.sent ≠ [] ∧ c.rnr = none ∧ c.since + 65500 ≤ w.now ∧ decide (c.retries < 7) = (n == 6) ∧
      connOf w 8 = some d ∧ d.rnr = some 0 ∧ d.st = 1 ∧ 0 + 10000 ≤ w.now ∧
      peerGone w 7 = false ∧ peerGone w 8 = false ∧ connOf w 9 = some g ∧ peerGone w 9 = true ∧ w.net.twin.leaving = false := by decide +kernel

/-- A network command (R405): op, rank, connection, local address 0, remote offset, length, R_Key, immediate, tag. -/
def netBytes (op rank conn roff len rkey imm tag : Nat) : List Byte :=
  [1, BitVec.ofNat 8 op, 0, BitVec.ofNat 8 rank] ++ natLe conn 4 ++ natLe 0 8 ++ natLe roff 8 ++ natLe len 8 ++
    natLe rkey 4 ++ natLe imm 4 ++ natLe tag 8 ++ zeros 16

def netWork (cmd : List Byte) : Work := { witWork 8 with cmd := cmd }

/-- The module is PAIRED, with four shards of 64 KiB (R411, R414). -/
def pairRegs : List (Nat × Nat) := [(rNET_TWIN_CFG, 4 * 2 ^ 48 + 64), (rNET_TWIN_STATUS, 2)]

def cmdWorld (x : Work) : World :=
  let w := netWorld pairRegs [(7, witConn), (twinConn, witConn)]
  { w with fe := queueFe (oneEntry nopEntry) [(workKey0, x)] }

def startsB (w : World) (x : Work) (op i : Nat) : Bool :=
  decide (getWork w workKey0 = some x ∧ x.kind = 8 ∧ x.fin = none ∧ x.stop = none ∧ netRun w workKey0 x = none ∧
    netBad w x.cmd = false ∧ netUnready w x = false ∧ nOp x.cmd = op ∧ w.net.runs.length < 4096 ∧
    connOf w i = some witConn ∧ stalled w x i = false)

theorem netStarts_of {w : World} {x : Work} {op i : Nat} (h : startsB w x op i = true) :
    netStarts w workKey0 op x i witConn := by
  simpa [startsB, netStarts] using h

theorem witness_net_send : ∀ op ∈ [1, 2, 3],
    let x := netWork (netBytes op 0 7 128 256 5 0 0)
    let w := cmdWorld x
    let v := rangeState x.ctx (nLocal x.cmd) (min 4096 (nLen x.cmd)) false none (netBegun workKey0 op x 7 w)
    startsB w x op 7 = true ∧ nConn x.cmd = 7 ∧ netGone w x = false ∧ (nodeAddr w witConn.peer).isSome = true ∧
      admits w 2 x.part = true ∧ v.1.1 = .ready ∧ poisonAt v.2 x.ctx (nLocal x.cmd) (min 4096 (nLen x.cmd)) = none ∧
      vaRead w x.ctx (nLocal x.cmd) = some 0x100000 := by decide +kernel

theorem witness_mirror :
    let x := netWork (netBytes 4 0 0 0 8192 0 3 0)
    let w := cmdWorld x
    startsB w x 4 twinConn = true ∧ netGone w x = false ∧
      (rangeState x.ctx (nLocal x.cmd) (min 4096 (nLen x.cmd)) false none (netBegun workKey0 4 x twinConn w)).1.1 = .ready ∧
      4096 < nLen x.cmd := by
  decide +kernel

theorem witness_refill :
    let x := netWork (netBytes 6 0 0 64 0 5 3 0)
    let h : HoldCopy := ⟨2, 256, [(0, 1)], [], 256, false⟩
    let w0 := cmdWorld x
    let w := { w0 with net := { w0.net with twin := { w0.net.twin with hold := [(6, h)], newest := [(3, 0)] } } }
    startsB w x 6 twinConn = true ∧ admits w 2 x.part = true ∧ newestCopy w (nImm x.cmd) = some h ∧ h.len ≠ 0 ∧
      h.poison = [] := by decide +kernel

theorem witness_digest :
    let x := netWork (netBytes 5 9 0 0 0 0 0 77)
    let w0 := cmdWorld x
    let w := { w0 with dbg := { w0.dbg with clove := [(9, { blankClove with st := 2 })] } }
    startsB w x 5 twinConn = true ∧ admits w 2 x.part = true ∧ (cloveOf w (nRank x.cmd)).st = 2 ∧
      w.net.twin.leaving = false ∧ w.net.twin.digests.length < 64 ∧ (∀ d ∈ w.net.twin.digests, d.own ≠ some x.order) := by
  decide +kernel

theorem witness_read_response :
    let x := netWork (netBytes 2 0 7 64 4 5 0 0)
    let p := { witPkt 2 with data := [] }
    let c := { witConn with sent := [p] }
    let r : NetRun := ⟨workKey0, 1, 2, 7, 4, true, 0⟩
    let w0 := netWorld [] [(7, c)]
    let w := { w0 with fe := queueFe (oneEntry nopEntry) [(workKey0, x)], net := { w0.net with runs := [r] } }
    connHears w 7 = some c ∧ w.net.twin.leaving = false ∧ c.sent = p :: [] ∧ p.op = 2 ∧ p.psn = 0 ∧ p.len ≤ 4096 ∧
      [1, 2, 3, 4].length = p.len ∧ w.net.runs.find? (·.order = p.owner) = some r ∧
      (r ∈ w.net.runs ∧ r.conn = 7 ∧ getWork w r.work = some x ∧ x.order = r.order ∧ x.fin = none) ∧ r.all = true ∧ r.op = 2 ∧
      (rangeState x.ctx (nLocal x.cmd + (p.off - nRoff x.cmd)) p.len true none w).1.1 = .ready ∧
      vaRead w x.ctx (nLocal x.cmd + (p.off - nRoff x.cmd)) = some 0x100000 := by decide +kernel

/-! ### Witnesses: the twin pair -/

/-- Port 15 has role TWIN and is up; the pair is in state `st` (R411). -/
def twinWorld (st : Nat) (l : List (Nat × Nat)) (t : Twin → Twin) : World :=
  let w := confWorld (l ++ [(rNET_ROLE, 2 * 2 ^ 30), (rNET_PORT_STATUS 15, 1 + 15 * 2 ^ 12), (rNET_TWIN_STATUS, st),
    (rNET_TWIN_CFG, 4 * 2 ^ 48 + 64)])
  { w with now := 10 ^ 9, net := { w.net with conns := [(twinConn, { blankConn with st := 1 })], twin := t w.net.twin } }

def hearsB (w : World) (st : Nat) : Bool := configured w && twinUp w && decide (twinState w = st)

theorem twinHears_of {w : World} {st : Nat} (h : hearsB w st = true) : twinHears w ∧ twinState w = st := by
  simpa [hearsB, twinHears, and_assoc] using h

theorem witness_hello : hearsB (twinWorld 0 [] id) 0 = true := by decide +kernel

theorem witness_hello_pairs :
    let w := twinWorld 1 [] (fun t => { t with seen := true, serial := 42 })
    hearsB w 1 = true ∧ w.net.twin.seen = true ∧ w.net.twin.serial < 2 ^ 64 := by decide +kernel

theorem witness_twin_timers : ∀ st ∈ [1, 2],
    let w := twinWorld st [] (fun t => { t with hold := [(0, ⟨1, 256, [], [], 0, false⟩)] })
    hearsB w st = true ∧ w.net.twin.helloAt + 100000 ≤ w.now ∧ w.net.twin.lastRx + lossNs w ≤ w.now ∧ w.net.twin.left < 4 ∧
      w.net.twin.lastTx + 10000 ≤ w.now ∧ w.net.twin.sweepAt + 1000000 ≤ w.now ∧ (∀ r ∈ w.net.runs, r.op < 4) := by
  decide +kernel

/-- A shard copy that has all its bytes, and one that lacks some; one that is the newest COMPLETE one. -/
theorem witness_shards : ∀ got ∈ [256, 255],
    let h : HoldCopy := ⟨1, 256, [], [], got, false⟩
    let g : HoldCopy := ⟨2, 256, [], [], 256, false⟩
    let w := twinWorld 2 [] (fun t => { t with hold := [(6, g), (7, h)], newest := [(3, 0)] })
    hearsB w 2 = true ∧ 3 < nShards w ∧ mget w.net.twin.hold (2 * 3 + 1) = some h ∧ h.st = 1 ∧
      decide (h.got = h.len) = (got == 256) ∧ connOf w twinConn = some { blankConn with st := 1 } ∧
      mget w.net.twin.hold (2 * 3 + 0) = some g ∧ g.st = 2 ∧ mget w.net.twin.newest 3 = some 0 ∧
      mget w.net.twin.newest 3 ≠ some 1 := by decide +kernel

theorem witness_digests :
    let d : Digest := ⟨9, 77, [], 0, some 1⟩
    let x := netWork (netBytes 5 9 0 0 0 0 0 77)
    let r : NetRun := ⟨workKey0, 1, 5, twinConn, 0, true, 0⟩
    let w0 := twinWorld 2 ((rNET_TWIN_TIMER, 10000 * 2 ^ 32 + 1000) :: queueRegs) (fun t => { t with digests := [d] })
    let w := { w0 with
      dbg := { w0.dbg with clove := [(9, { blankClove with st := 2, armTag := 77 })] }
      net := { w0.net with runs := [r] }, fe := queueFe (oneEntry nopEntry) [(workKey0, x)] }
    hearsB w 2 = true ∧ (cloveOf w 9).st = 2 ∧ (cloveOf w 9).armTag = 77 ∧
      w.net.twin.digests.find? (fun d => d.own.isSome && d.slot = 9 && d.tag = 77) = some d ∧
      w.net.runs.find? (fun r => some r.order = d.own) = some r ∧ getWork w r.work = some x ∧ x.order = r.order ∧
      x.fin = none ∧ w.net.twin.leaving = false ∧
      w.net.twin.digests.find? (fun d => decide (d.since + 1000 * fld w rNET_TWIN_TIMER 32 32 ≤ w.now)) = some d := by
  decide +kernel

/-! ### Witnesses: power -/

/-- An unconfigured device whose holder is the host (R436), with registers and power state as given. -/
def pwrWorld (l : List (Nat × Nat)) (p : Pwr → Pwr) : World :=
  let w := regWorld (l ++ [(rPWR_TRIP, 110 * 256 + 105), (rGLB_BOOT_STATUS, 6)])
  { w with now := 2 * 10 ^ 9, pwr := p w.pwr, pins := { w.pins with pwrgd := true, perstN := true } }

def pwrFreeB (w : World) : Bool := decide (0 = holder w ∧ w.pwr.runs = [] ∧ bootPhase w ≠ 8)

theorem powerFree_of {w : World} (h : pwrFreeB w = true) : powerFree w 0 := by simpa [pwrFreeB, powerFree] using h

theorem witness_power_authority :
    let w := pwrWorld [] (fun p => { p with pcieDown := some 0, fallback := true })
    w.pwr.runs = [] ∧ w.pwr.was = none ∧ (1 : Nat) % 2 = 1 ∧ holderReg rPWR_TRIP = true ∧ 1 ≠ holder w ∧
      w.pwr.pcieDown = some 0 ∧ 0 + 10 ^ 9 ≤ w.now ∧ w.pwr.fallback = true ∧ fld w rPWR_AUTH 0 1 = 0 ∧
      (pwrWorld [] (fun p => { p with runs := [⟨1, 3, 0⟩] })).pwr.runs ≠ [] := by decide +kernel

theorem witness_link_back :
    let w := pwrWorld [(rPWR_DOM 142, 2)] id
    w.pins.perstN = true ∧ domState w 142 ≠ 0 := by decide +kernel

/-- Domain 128 is a hart group, 3 is not; OFF, ON; and in a configured device the host keeps PCIe, 142, ON. -/
theorem witness_domain_switch : ∀ d ∈ [3, 128], ∀ st ∈ [0, 2],
    let w := pwrWorld [(rPWR_DOM d, st)] id
    pwrFreeB w = true ∧ d < 144 ∧ domState w d = st ∧ offAllowed w d = true ∧
      offAllowed { w with regs := (rgSet w rGLB_LLYN_STATUS 2).regs } 142 = false := by decide +kernel

/-- A domain in each transition, its command running. -/
theorem witness_domain_transition : ∀ d ∈ [3, 128], ∀ st ∈ [1, 3, 4],
    let w := pwrWorld [(rPWR_DOM d, st)] (fun p =>
      { p with runs := [⟨if st = 3 then 2 else 1, d, 0⟩], offNext := [5] })
    0 = holder w ∧ bootPhase w ≠ 8 ∧ d < 144 ∧ domState w d = st ∧ offAllowed w d = true ∧ d ∉ w.pwr.offNext ∧
      domState { w with regs := (rgSet w (rPWR_DOM 5) 1).regs } 5 = 1 ∧ 5 ∈ w.pwr.offNext := by decide +kernel

/-- The chiplet's domain starts up; its site still negotiates, or is ACTIVE. -/
theorem witness_domain_chiplet : ∀ st ∈ [1, 2],
    let w := pwrWorld [(rPWR_DOM 143, 1), (rD2D_CHIP_STATUS, st)] id
    domState w 143 = 1 ∧ fld w rD2D_CHIP_STATUS 0 2 = st ∧ 143 ∉ w.pwr.offNext := by decide +kernel

/-- The harts of group 128 have stopped, or one still runs. -/
theorem witness_domain_drains : ∀ r ∈ [(HartRun.stopped, true), (HartRun.stopping, false)],
    let hs : Map Hart := [0, 1, 2, 3].map (fun h => (h, { Hart.reset with run := r.1 }))
    let w0 := pwrWorld [(rPWR_DOM 128, 3)] (fun p => { p with runs := [⟨2, 128, 0⟩] })
    let w := { w0 with harts := { w0.harts with hart := hs } }
    isHartGroup 128 = true ∧ domState w 128 = 3 ∧ domDrained w 128 = r.2 ∧ mgetD w.pwr.since 128 0 + 100000 ≤ w.now ∧
      ⟨1, 128, 0⟩ ∉ w.pwr.runs ∧ ⟨2, 128, 0⟩ ∈ w.pwr.runs := by decide +kernel

theorem witness_hart_reset :
    let w0 := pwrWorld [(rPWR_DOM 129, 2)] id
    let w := { w0 with harts := { w0.harts with hart := [(5, { Hart.reset with run := .stopped })] } }
    pwrFreeB w = true ∧ 5 < 32 ∧ domState w (128 + 5 / 4) = 2 ∧ 0x0E0 + 5 ∉ w.ras.retired ∧ (hartOf w 5).run = .stopped ∧
      (hartOf w 4).run ≠ .stopped := by decide +kernel

theorem witness_set_op : ∀ x ∈ [(1000, true), (1010, false), (1975, false)],
    let w := pwrWorld [(rPWR_OP 2, 1950 * 2 ^ 16)] id
    pwrFreeB w = true ∧ opLegal x.1 = x.2 ∧ ∃ d ∈ bitList 4 4, opTarget w d ≠ x.1 := by decide +kernel

theorem witness_set_fsp : pwrFreeB (pwrWorld [] id) = true ∧ (pwrWorld [] id).pwr.fspNext ≠ 1 := by decide +kernel

/-- Cluster 0 of partition 0 runs a launch of the present epoch; the host tier's set point changes. -/
theorem witness_epoch_moves :
    let w0 := pwrWorld [(rSCHED_PART_CFG 0, 1), (rPWR_EPOCH, 5 * 2 ^ 32)] (fun p => { p with fspNext := 1 })
    let w := { w0 with fe := { w0.fe with launches := [(0, { witRun with epoch := 5 })] } }
    0 ∈ partClusters w 0 ∧ (∀ x ∈ w.fe.launches, epochOlder x.2.epoch (fld w rPWR_EPOCH 32 32) = false) ∧
      (∀ p, p < 16 → savedOf w p = []) ∧ fld w rPWR_EPOCH 20 1 = 0 ∧ w.pwr.refresh = false ∧
      engineOlder w (fld w rPWR_EPOCH 32 32) = false ∧ w.pwr.fsp ≠ w.pwr.fspNext := by decide +kernel

theorem witness_die_phases : ∀ ph ∈ [1, 2, 3, 4],
    let w := pwrWorld [] (fun p => { p with phase := [(2, ph)], refresh := true })
    mget w.pwr.phase 2 = some ph ∧ w.pwr.refresh = true := by decide +kernel

/-- HBM readings at the trip point and above it; stack 7's die is 2. -/
theorem witness_thermal : ∀ t ∈ [110, 111],
    let w := pwrWorld [(rMEM_THERM_CFG, 100 + 105 * 2 ^ 8 + 255 * 2 ^ 16)] id
    7 < 12 ∧ w.pins.pwrgd = true ∧ w.pins.tripAt = none ∧ decide (fld w rPWR_TRIP 8 8 < t) = (t == 111) ∧
      enterLevel (rg w rMEM_THERM_CFG) 1 (fld w (rMEM_THERM_STACK 7) 8 2) t = 2 := by decide +kernel

/-- No die above its trip point, and dies 2 and 3. -/
theorem witness_sample :
    let w := pwrWorld [] id
    w.pins.pwrgd = true ∧ hotDies w [60, 61, 62, 105] = [] ∧ (hotDies w [60, 61, 106, 107]).head? = some 2 ∧
      w.pins.tripAt = none := by decide +kernel

/-! ### Witnesses: pins, boot and shutdown. Whether a signature or a seal holds is open (Config), so that an image or a
record that is accepted has no witness that can be computed; the rejected one has. -/

/-- The device with these pins, and few registers. -/
def pinWorld (l : List (Nat × Nat)) (f : Pins → Pins) : World :=
  let w := { World.reset with regs := [] }
  let w := l.foldl (fun w p => rgSet w p.1 p.2) w
  { w with now := 2 * 10 ^ 10, pins := f w.pins }

theorem witness_housekeeping : (pinWorld [] id).pins.awake = false ∧ (pinWorld [] id).pins.pwrEn = false := by decide +kernel

theorem witness_power_good :
    let w := pinWorld [] (fun p => { p with awake := true, pwrEn := true })
    w.pins.awake = true ∧ w.pins.pwrEn = true ∧ w.pins.rstN = true ∧ w.pins.trip = false ∧ w.pins.pwrgd = false ∧
      bootPhase w = 0 := by decide +kernel

theorem witness_power_falls :
    let w := pinWorld [(rGLB_BOOT_STATUS, 7), (rPWR_TRIP_INFO, 1)] (fun p =>
      { p with awake := true, pwrEn := true, pwrgd := true, perstN := true })
    w.pins.pwrEn = true ∧ w.pins.pwrgd = true ∧ (w.regs.map (·.1)).Nodup ∧ w.pins.rstN = true ∧ w.pins.perstN = true ∧
      w.pins.tripAt = none := by decide +kernel

theorem witness_trip_release :
    let w := pinWorld [] (fun p => { p with awake := true, trip := true, enAt := 10 ^ 10 })
    w.pins.trip = true ∧ w.pins.pwrEn = false ∧ w.pins.enAt + 10 ^ 9 ≤ w.now := by decide +kernel

theorem witness_light :
    let w := pinWorld [(rGLB_LLYN_STATUS, 2), (rNET_ROLE, 1)] (fun p => { p with awake := true, dark := [0] })
    w.pins.awake = true ∧ 0 ∈ w.pins.dark ∧ configured w = true ∧ 0 ∈ sourcePorts 0 ∧ portRole w 0 ≠ 0 := by decide +kernel

/-- Boot in a phase, with this state of Llynmon and of the boot block. -/
def bootWorld (phase llyn : Nat) (l : List (Nat × Nat)) (f : Boot → Boot) : World :=
  let w := pinWorld ([(rGLB_BOOT_STATUS, phase), (rGLB_LLYN_STATUS, llyn)] ++ l) (fun p =>
    { p with awake := true, pwrEn := true, pwrgd := true, perstN := true })
  { w with boot := f w.boot, pwr := { w.pwr with pcieDown := none } }

theorem witness_rom : bootPhase (bootWorld 1 0 [] id) = 1 ∧ (bootWorld 1 0 [] id).pins.perstN = true := by decide +kernel

theorem witness_fetch : ∀ b ∈ [none, some 3],
    let w := bootWorld 2 0 [] (fun x => { x with bound := b })
    bootServes w = true ∧ w.boot.fetching = false ∧ w.boot.bound = b := by decide +kernel

theorem witness_fetch_complete :
    let w := bootWorld 2 0 [(rGLB_BOOT_LEN, 2 ^ 32 + 128)] (fun x => { x with fetching := true })
    w.boot.fetching = true ∧ w.pwr.pcieDown = none ∧ fld w rGLB_BOOT_LEN 32 4 = 1 ∧ bootPhase w = 2 := by decide +kernel

theorem witness_boot_put :
    let w := bootWorld 2 0 [] (fun x => { x with bound := some 3 })
    responderOn w = true ∧ w.boot.fetching = false ∧ w.boot.bound = some 3 ∧ [1, 2].length ≤ 8192 ∧
      2 ^ 24 - 2 + [1, 2].length ≤ 2 ^ 24 ∧ w.boot.heard + 10 ^ 10 ≤ w.now := by decide +kernel

/-- An empty image is refused, whatever its signature. -/
theorem witness_image_refused : imgReason (bootWorld 3 0 [] id) [] ≠ 0 := by
  unfold imgReason
  split
  · decide
  · decide

theorem witness_commit :
    let w := bootWorld 3 0 [] id
    responderOn w = true ∧ w.boot.fetching = false ∧ w.boot.bound = none ∧ bootPhase w = 3 ∧ llynState w = 0 ∧
      fld w rRAS_STATUS 1 1 = 0 ∧ objectBytes w 0 = [] := by decide +kernel

theorem witness_record : responderOn (bootWorld 4 1 [] id) = true ∧ bootPhase (bootWorld 4 1 [] id) = 4 := by decide +kernel

theorem witness_training :
    let w := bootWorld 5 1 [] (fun b => { b with trained := trainUnits.filter (· ≠ 7) })
    7 ∈ trainUnits ∧ 7 ∉ w.boot.trained ∧ 3 ≤ bootPhase w ∧ bootPhase w ≤ 5 ∧ bootPhase w = 5 ∧
      fld w rRAS_STATUS 1 1 = 0 := by decide +kernel

/-- Link 1 has trained before and retrains; nothing is outstanding at the chiplet. -/
theorem witness_retraining :
    let w := bootWorld 7 2 [(rD2D_LINK_STATUS 1, 1)] (fun b => { b with trained := trainUnits })
    32 + 1 ∈ w.boot.trained ∧ fld w (rD2D_LINK_STATUS 1) 0 2 = 1 ∧ chipQuiet w := by
  unfold chipQuiet
  decide +kernel

/-- A record that names hart 4 retired (kind 1), and one that is not applied. -/
theorem witness_boot_test : ∀ r ∈ [1, 2],
    let e : List Byte := [1, 0, 0xE4, 0] ++ zeros 12
    let w0 := bootWorld 5 1 [] id
    let w1 := { w0 with regs := (fldSet (fldSet w0 rRAS_STATUS 3 1 1) rGLB_BOOT_STATUS 20 4 r).regs }
    let w := { w1 with ras := { w1.ras with record := [e] } }
    bootPhase w = 5 ∧ fld w rRAS_STATUS 3 1 = 1 ∧ bootRecord w = r ∧ (∀ x ∈ [e], x ∈ w.ras.record) ∧
      (∃ x ∈ [zeros 16], x ∉ w.ras.record) ∧ entryOk e = true := by decide +kernel

theorem witness_apply : bootPhase (bootWorld 6 1 [] id) = 6 ∧ llynState (bootWorld 6 1 [] id) = 1 := by decide +kernel

theorem witness_quiesce :
    let w := bootWorld 7 2 [] id
    0 = holder w ∧ configured w = true ∧ llynState w = 2 ∧ twinState w ≠ 2 ∧ w.pwr.runs = [] ∧ bootPhase w ≠ 8 := by
  decide +kernel

/-- UNCONFIGURED, QUIESCING without contexts, and CONFIGURED, where it is illegal; the host holds power. -/
theorem witness_shutdown : ∀ x ∈ [(4, 0), (7, 4), (7, 2)],
    let w := bootWorld x.1 x.2 [] id
    pwrFreeB w = true ∧ decide (llynState w = 0 ∨ (llynState w = 4 ∧ w.fe.ctxs = [])) = (x.2 != 2) ∧ holder w ≠ 1 := by
  decide +kernel

/-- With CC as the holder the record lies in the host tier, and not in HBM. -/
theorem witness_shutdown_cc : ∀ x ∈ [(0x1000000000000, true), (0x1000, false)],
    let w := bootWorld 4 0 [(rPWR_AUTH, 1), (rPWR_ARG, x.1)] id
    holder w = 1 ∧ w.pwr.runs = [] ∧ bootPhase w ≠ 8 ∧
      (inHost (rg w rPWR_ARG) && inHost (rg w rPWR_ARG + 256 * 1024 - 1)) = x.2 := by decide +kernel

theorem witness_shutdown_ends : ∀ x ∈ [(0, 0x1000), (1, 0x1000000000000)],
    let r : PwrRun := ⟨5, 256, x.2⟩
    let w0 := bootWorld 4 0 [(rPWR_AUTH, x.1)] id
    let w := { w0 with pwr := { w0.pwr with runs := [r] } }
    w.pwr.runs = [r] ∧ r.op = 5 ∧ holder w = x.1 ∧
      (holder w = 1 → inHost r.arg = true ∧ inHost (r.arg + r.target * 1024 - 1) = true) ∧
      w.harts.hart = [] ∧ w.mem.later = [] ∧ (∀ e ∈ w.ras.record ++ w.ras.session, e.length = 16) ∧
      96 + 16 * (w.ras.record.length + w.ras.session.length + [zeros 16].length + w.ras.ce.length) ≤ r.target * 1024 := by
  decide +kernel

/-! ### Witnesses: Finov and the chiplet site -/

/-- Every link is ACTIVE; the chiplet site is in state `st` with the seven channels (R430). -/
def finovWorld (st : Nat) (l : List (Nat × Nat)) (d : D2d → D2d) : World :=
  let w := confWorld (l ++ [(rD2D_LINK_STATUS 0, 2), (rD2D_LINK_STATUS 1, 2), (rD2D_LINK_STATUS 2, 2), (rD2D_LINK_STATUS 3, 2),
    (rD2D_CHIP_STATUS, st), (rD2D_CHIP_CAP0, 0x7F)] ++ queueRegs)
  { w with now := 2 * 10 ^ 9, mem := { jobMem [0] with bytes := [(0x100000, 1)] }, d2d := d w.d2d }

/-- Twenty credits of each kind on every channel of every link, for both sides. -/
def openCreds : Map Nat := (List.range 64).map (fun k => (k, 20))

/-- The links with these messages come and not served, and no credits spent. -/
def openFlits (inq : Map (List FinovMsg)) : FlitLinks := { tx := [], rx := [], wait := [], inq := inq, can := openCreds, may := openCreds, owed := [] }

def flitWorld (st : Nat) (f : FlitLinks) (d : D2d → D2d) : World := { finovWorld st [] d with flits := f }

/-- What `comes` asks, decided. -/
def comesB (w : World) (l : Nat) (m : FinovMsg) (flits : List Byte) : Bool :=
  linkActive w l && (l != 3 || chipUses w m.channel) &&
    ((flits.isEmpty && decide ((mgetD w.flits.inq (chanKey l m.channel) []).head? = some m)) ||
      decide (flits = flitBytes ⟨[], msgSlots m⟩ ∧ (msgSlots m).length ≤ 14 ∧ m.channel < 7 ∧ m.status < 8 ∧ m.tag < 65536 ∧
        m.source < 4096 ∧ m.addr < 2 ^ 57 ∧ (∀ s ∈ m.data, s.length = 16) ∧ arrivalCause w l (headSlot m) = 0 ∧
        mgetD w.flits.rx l [] = [] ∧ mgetD w.flits.inq (chanKey l m.channel) [] = []))

theorem comes_of {w : World} {l : Nat} {m : FinovMsg} {flits : List Byte} (h : comesB w l m flits = true) :
    comes w l m flits := by
  simp only [comesB, Bool.and_eq_true, Bool.or_eq_true, decide_eq_true_eq, bne_iff_ne, ne_eq, List.isEmpty_iff] at h
  obtain ⟨⟨h1, h2⟩, h3⟩ := h
  exact ⟨h1, fun e => h2.resolve_left (fun n => n e), h3⟩

/-- A message of die unit 0x021 with tag 65535 and `n` data slots. -/
def witMsg (ch op addr n : Nat) : FinovMsg := ⟨ch, op, 0, false, 65535, 0x021, addr, List.replicate n (zeros 16)⟩

/-- Requests to main memory, to an address with none, and to the chiplet window, as a flit brings them and as they wait. -/
theorem witness_finov_requests : ∀ x ∈ [(0x01, 0x100010, 0), (0x01, 0x4000000000080, 0), (0x01, 2 ^ 56, 0), (0x02, 0x100080, 8),
    (0x03, 0x100080, 9), (0x04, 0x100010, 1)], ∀ l ∈ [0, 2],
    let m := witMsg 0 x.1 x.2.1 x.2.2
    let w := flitWorld 2 (openFlits []) id
    let v := flitWorld 2 (openFlits [(chanKey l 0, [m])]) id
    comesB w l m (flitBytes ⟨[], msgSlots m⟩) = true ∧ comesB v l m [] = true ∧ canSend w l 1 8 ∧ canSend v l 1 8 ∧
      m.channel = 0 ∧ m.opcode = x.1 ∧ (x.2.2 = 8 → m.data.flatten.length = 128) ∧
      (x.2.2 = 9 → m.data = zeros 16 :: dataSlots (zeros 128)) := by
  unfold canSend noneWaits
  decide +kernel

theorem witness_finov_homes :
    let w := flitWorld 2 (openFlits []) id
    let v := flitWorld 2 { openFlits [] with can := [] } id
    isMain (0x100010 / 128 * 128) = true ∧ isMain 0x100010 = true ∧ (isMain (2 ^ 56) = false ∧ inChip (2 ^ 56) = false) ∧
      (0x4000000000000 ≤ 0x4000000000080 / 128 * 128 ∧ 0x4000000000080 / 128 * 128 < 0x4000100000000) ∧ w.harts.hart = [] ∧ w.mem.later = [] ∧ atomLegal 0 0 = true ∧
      0x100010 % atomBytes 0 = 0 ∧ atomLegal 3 1 = false ∧ noneWaits v 2 1 ∧ mgetD v.flits.can (creditKey 2 1 false) 0 = 0 := by
  unfold noneWaits
  decide +kernel

/-- In variant A the chiplet window is there (R431). -/
theorem witness_chip_window (h : Config.variantA = true) : inChip (0x4000000000080 / 128 * 128) = true := by
  simp [inChip, h]

theorem chipRoom_pos : 0 < chipRoom := by
  unfold chipRoom ownCredits
  simp only [Bool.not_true, Bool.not_false, Bool.false_eq_true, if_true, if_false, show carriesData chMemRsp = true from rfl]
  omega

theorem witness_can_ask : canAsk (flitWorld 2 (openFlits []) id) 0 := by
  refine ⟨?_, ?_, ?_, chipRoom_pos⟩
  · decide +kernel
  · decide +kernel
  · unfold canSend noneWaits
    decide +kernel

/-- A credit return, with nothing waiting on its channel, and with a response that it lets go. -/
theorem witness_credits :
    let c : CreditRet := ⟨1, false, 1⟩
    let m := witMsg 1 0x11 0x100000 0
    let w := flitWorld 2 { openFlits [] with wait := [(chanKey 2 1, [m])], can := [] } id
    linkActive w 2 = true ∧ flitFits ⟨[c], []⟩ ∧ mgetD w.flits.rx 2 [] = [] ∧ noneWaits (flitWorld 2 (openFlits []) id) 2 1 ∧
      mgetD w.flits.wait (chanKey 2 c.channel) [] = [m] ∧ m.channel = c.channel ∧
      affords 2 m (maddTo w.flits.can (creditKey 2 c.channel c.data) c.count) = true := by
  unfold flitFits noneWaits
  decide +kernel

/-- A flit with the greatest credit return and one slot, and a MSG and a line of data that fit their headers. -/
theorem witness_flit :
    let f : FlitBody := ⟨[⟨6, true, 65535⟩], [List.replicate 16 0xA5#8]⟩
    flitFits f ∧ (flitBytes f).length = 240 ∧ parseFlit (flitBytes f) = some f := by
  refine ⟨⟨?_, ?_, ?_, ?_⟩, ?_, ?_⟩ <;> decide +kernel

theorem witness_message :
    let m : FinovMsg := ⟨1, 0x10, 7, true, 65535, 0xFFF, 2 ^ 57 - 1, List.replicate 8 (zeros 16)⟩
    msgFits m ∧ nextMsg (msgSlots m ++ [zeros 16]) = some (m, [zeros 16]) := by
  refine ⟨⟨⟨[1], ?_, ?_⟩, ?_, ?_, ?_, ?_, ?_⟩, ?_⟩ <;> decide +kernel

/-- Hart 4 holds line 7 M, and line 8 not at all. -/
theorem witness_forward : ∀ op ∈ [0x20, 0x21, 0x22], ∀ line ∈ [7, 8],
    let w0 := flitWorld 2 (openFlits []) id
    let w := { w0 with harts := { w0.harts with hart := [(4, { Hart.reset with mLines := [(7, zeros 64)] })] } }
    let m := witMsg 2 op (64 * line) 0
    comesB w 0 m (flitBytes ⟨[], msgSlots m⟩) = true ∧ m.channel = 2 ∧ m.opcode = op ∧ m.addr = 64 * line ∧ canSend w 0 3 4 ∧
      mget (hartOf w 4).mLines 7 = some (zeros 64) ∧ mget (hartOf w 4).mLines 8 = none ∧ cohHeld w 4 line = false := by
  unfold canSend noneWaits
  decide +kernel

/-- Answers of the chiplet to a core, to a hart's loads and to another die; the responses of an internal link. -/
theorem witness_chip_answers : ∀ x ∈ [(ChipUser.core 0 3, 0x10, 8), (.hartLoad 4 0x4000000000008 8, 0x10, 8),
    (.hartLoad 4 0x4000000000010 16, 0x10, 8), (.hartPair 4 0x4000000000018 (zeros 8), 0x10, 8),
    (.engine none, 0x11, 0), (.finov 2 0x10 7 0x4000000000080 0x021, 0x10, 8), (.finov 2 0x12 7 0x4000000000080 0x021, 0x12, 1)],
    let r : ChipReq := ⟨65535, 0, x.1⟩
    let m := witMsg 1 x.2.1 0 x.2.2
    let w1 := flitWorld 2 (openFlits []) (fun d => { d with reqs := [r] })
    comesB w1 3 m (flitBytes ⟨[], msgSlots m⟩) = true ∧ m.channel = 1 ∧ m.opcode = x.2.1 ∧ m.status = 0 ∧
      noneWaits w1 3 chMemReq ∧ w1.d2d.reqs.find? (·.tag = m.tag) = some r ∧ linkActive w1 2 = true ∧ canSend w1 2 1 8 ∧
      m.data.flatten.length = 16 * x.2.2 ∧ w1.d2d.reqs.filter (·.tag ≠ m.tag) = [] ∧
      1 ≤ mgetD w1.flits.can (creditKey 3 chMemReq false) 0 := by
  unfold canSend noneWaits
  decide +kernel

/-- Answers that carry an error and a poison of a hart's load. -/
theorem witness_chip_poison : ∀ st ∈ [1, 2],
    let r : ChipReq := ⟨65535, 0, .hartLoad 4 0x4000000000008 8⟩
    let m := { witMsg 1 0x10 0 8 with status := st }
    let w1 := flitWorld 2 (openFlits []) (fun d => { d with reqs := [r] })
    comesB w1 3 m (flitBytes ⟨[], msgSlots m⟩) = true ∧ w1.d2d.reqs.find? (·.tag = m.tag) = some r ∧ m.status = st := by
  decide +kernel

theorem witness_finov_others : ∀ x ∈ [(1, 0x12, 1), (3, 0x28, 0), (3, 0x29, 4), (5, 0x42, 1), (6, 0x42, 1), (4, 0x30, 1),
    (5, 0x40, 0), (6, 0x40, 0), (5, 0x41, 1), (6, 0x41, 1)], ∀ addr ∈ [0x5008, 0x5004],
    let m := witMsg x.1 x.2.1 addr x.2.2
    let w := flitWorld 2 (openFlits []) id
    comesB w 1 m (flitBytes ⟨[], msgSlots m⟩) = true ∧ m.channel = x.1 ∧ m.opcode = x.2.1 ∧ canSend w 1 x.1 1 ∧
      0x5008 = 0x5000 + 8 * 1 ∧ accessOk w 0x5004 8 = false := by
  unfold canSend noneWaits
  decide +kernel

/-- A body of version 2; a header of opcode 0x13, which the table lacks; and a request beyond its sender's credits. -/
theorem witness_breaks : ∀ l ∈ [0, 3],
    let w := flitWorld 2 { openFlits [] with may := [] } id
    let bad : List Byte := 2 :: zeros 239
    let h1 := headSlot (witMsg 0 0x13 0 0)
    let h2 := headSlot (witMsg 0 0x01 0 0)
    linkActive w l = true ∧ (bad.length = 240 ∧ flitCause bad ≠ 0) ∧ h1.length = 16 ∧ h2.length = 16 ∧
      mgetD w.flits.rx l [] = [] ∧ headCause h1 ≠ 0 ∧ headCause h2 = 0 ∧ arrivalCause w l h2 ≠ 0 ∧ w.flits.owed = [] ∧
      fld w rD2D_CHIP_STATUS 0 2 = 2 ∧ fld (flitWorld 1 (openFlits []) id) rD2D_CHIP_STATUS 0 2 = 1 := by
  decide +kernel

/-- Domain 143 is on, or starts up, and the chiplet's link trains; no lane entry, and five of one module. -/
theorem witness_chip_link : ∀ on ∈ [1, 2],
    let w0 := finovWorld 0 [(rPWR_DOM 143, on)] id
    let w1 := { w0 with regs := (rgSet w0 (rD2D_LINK_STATUS 3) 1).regs }
    (fld w1 (rPWR_DOM 143) 0 3 = 1 ∨ fld w1 (rPWR_DOM 143) 0 3 = 2) ∧ fld w1 (rD2D_LINK_STATUS 3) 0 2 = 1 ∧
      fld w1 rRAS_STATUS 0 1 = 0 ∧ lanesSpent w1 3 = false := by decide +kernel

theorem witness_lanes_spent :
    let e : List Byte := [6, 0, 3, 0] ++ zeros 28
    let w0 := finovWorld 0 [] id
    lanesSpent { w0 with ras := { w0.ras with record := List.replicate 5 e } } 3 = true := by
  intro e w0
  have h : entriesOf { w0 with ras := { w0.ras with record := List.replicate 5 e } } 6 = List.replicate 5 e := by decide +kernel
  unfold lanesSpent
  rw [h]
  have f : (List.replicate 5 e).filter (fun e => le e 2 1 = 3) = List.replicate 5 e := by decide +kernel
  have g : ((List.replicate 5 e).filter (fun x => le x 3 1 = le e 3 1)).length = 5 := by decide +kernel
  simp only [f]
  rw [List.any_eq_true]
  refine ⟨e, by simp, ?_⟩
  rw [g, decide_eq_true_eq]
  unfold finovSpares
  omega

/-- A CAP with every channel, and its credits (R430). -/
def capBytes (ver width : Nat) : List Byte :=
  [0, 0, 0, 0, 0, BitVec.ofNat 8 ver, 0x7F, 0, BitVec.ofNat 8 width, 0] ++ List.replicate 14 16#8 ++ zeros 8

def mgmtMsg (op n : Nat) (b : List Byte) : FinovMsg := ⟨6, op, 0, false, n, 0x0B1, 0, dataSlots b⟩

theorem witness_chip_cap : ∀ x ∈ [(1, 57, 0), (0, 57, 2), (1, 48, 4)],
    let b := capBytes x.1 x.2.1
    let m := mgmtMsg 0x50 0 b
    let w := flitWorld 1 (openFlits []) (fun d => { d with capAt := some (2 * 10 ^ 9 - 10) })
    let v := flitWorld 1 (openFlits []) (fun d => { d with capAt := some (10 ^ 9) })
    comesB w 3 m (flitBytes ⟨[], msgSlots m⟩) = true ∧ comesB v 3 m (flitBytes ⟨[], msgSlots m⟩) = true ∧ m.channel = 6 ∧
      m.opcode = 0x50 ∧ m.data.flatten = b ∧ fld w rD2D_CHIP_STATUS 0 2 = 1 ∧ w.now ≤ 2 * 10 ^ 9 - 10 + 1000000 ∧
      capReason b = x.2.2 ∧ 10 ^ 9 + 1000000 < v.now := by decide +kernel

theorem witness_chip_control : ∀ st ∈ [1, 2, 3],
    let w := finovWorld st [] id
    configured w = true ∧ fld w rD2D_CHIP_STATUS 0 2 = st := by decide +kernel

/-- A CHIP command with op 1 or 2 (R433). -/
def chipWork (ver op : Nat) : Work := { witWork 9 with cmd := [BitVec.ofNat 8 ver, BitVec.ofNat 8 op] ++ zeros 62 }

/-- With MGMT's credits, and with 3 data credits only. -/
theorem witness_chip : ∀ ver ∈ [1, 2],
    let x := chipWork ver 1
    let w0 := flitWorld 2 (openFlits []) id
    let w := { w0 with fe := queueFe (oneEntry nopEntry) [(workKey0, x)] }
    let v := flitWorld 2 { openFlits [] with can := mset openCreds (creditKey 3 chMgmt true) 3 } id
    feHeld w = false ∧ workRuns w workKey0 9 = some x ∧ x.begun = false ∧ x.stop = none ∧ le x.cmd 0 1 = ver ∧
      chipActive w = true ∧ linkActive w 3 = true ∧ chipBehind w x = false ∧ w.d2d.cmds.length < 64 ∧
      (∀ c ∈ w.d2d.cmds, c.tag ≠ 9) ∧ x.cmd.length = 64 ∧ noneWaits w 3 chMgmt ∧ canSend w 3 chMgmt 4 ∧ noneWaits v 3 chMgmt ∧
      mgetD v.flits.can (creditKey 3 chMgmt true) 0 < 4 := by
  unfold canSend noneWaits
  decide +kernel

/-- The command runs under tag 9; it is stopped, or asked to end at time 0; its DONE comes. -/
theorem witness_chip_commands : ∀ p ∈ [(none, none), (none, some 7), (some 0, some 7)],
    let x := { chipWork 1 1 with stop := p.2 }
    let c : ChipCmd := ⟨9, workKey0, 1, p.1⟩
    let m := mgmtMsg 0x53 9 (zeros 16)
    let w0 := flitWorld 2 (openFlits []) (fun d => { d with cmds := [c] })
    let w := { w0 with fe := queueFe (oneEntry nopEntry) [(workKey0, x)] }
    w.d2d.cmds.find? (·.tag = 9) = some c ∧ getWork w c.work = some x ∧ (∀ t ∈ w.d2d.tasks, t.tag ≠ 9) ∧ c.abort = p.1 ∧
      x.stop = p.2 ∧ linkActive w 3 = true ∧ noneWaits w 3 chMgmt ∧ canSend w 3 chMgmt 0 ∧ x.fin = none ∧
      comesB w 3 m (flitBytes ⟨[], msgSlots m⟩) = true ∧ m.channel = 6 ∧ m.opcode = 0x53 ∧ m.tag = 9 ∧
      le m.data.flatten 0 1 ≠ 3 ∧ 0 + 1000000000 ≤ w.now ∧ fld w rD2D_CHIP_STATUS 0 2 = 2 := by
  unfold canSend noneWaits
  decide +kernel

/-- Virtual address 0 lies in the host tier: a DECODE writes it, an SDI output reads it at frame time 100, and one with
present key 101 puts the last frame out again. -/
theorem witness_chip_frames : ∀ op ∈ [1, 2], ∀ key ∈ [100, 101],
    let x := chipWork 1 op
    let t : ChipTask := ⟨9, x.cmd, if op = 1 then [0, 64] else [3, key, 64, 128], false⟩
    let c : ChipCmd := ⟨9, workKey0, 1, none⟩
    let ft := [(rFTB_RATE, 60 * 2 ^ 32 + 1), (rFTB_CFG, 1000 * 2 ^ 48 + 2), (rFTB_STATUS, 1),
      (rD2D_CHIP_CAP0, 0x4E4C * 2 ^ 48 + 0x0F10 * 2 ^ 32 + 2 ^ 24 + 0x53)]
    let w0 := finovWorld 2 [] (fun d => { d with cmds := [c], tasks := [t], sdi := [(3, zeros 4)] })
    let w1 := { w0 with regs := (ft.foldl (fun (w : World) (p : Nat × Nat) => rgSet w p.1 p.2) w0).regs }
    let w := { w1 with
      mem := warmMem, fe := queueFe (oneEntry nopEntry) [(workKey0, x)]
      ftb := { w0.ftb with acc := 100 * ftbUnit w1 } }
    taskOf w 9 op = some (t, c) ∧ (op = 1 → taskField t 0 + 1 * taskField t 1 = 64) ∧
      (op = 2 → taskField t 0 = 3 ∧ taskField t 1 = key ∧ taskField t 2 = 64 ∧ taskField t 3 = 128) ∧
      (rangeState c.ctx 64 128 (op == 1) (some c.work) w).1.1 = .ready ∧
      vaRead w c.ctx 64 = some 0x1000000000040 ∧ 64 % 65536 + 128 ≤ 65536 ∧ isMain 0x1000000000040 = true ∧
      isMain (0x1000000000040 + 127) = true ∧ w.harts.hart = [] ∧ w.mem.later = [] ∧ vaPages 64 128 = [0] ∧
      vaRead w c.ctx 0 = some 0x1000000000000 ∧ inHost 0x1000000000000 = true ∧ chipActive w = true ∧
      reachedKey w key = (key == 100) ∧ mget w.d2d.sdi 3 = some (zeros 4) ∧ poisonAt w c.ctx 64 128 = none := by decide +kernel

/-! ### Witnesses: errors and repair, observability, management -/

/-- Core 3 runs a launch; limits of 0 errors in 10 s (R467, R469); with repair state as given. -/
def rasWorld (f : Ras → Ras) : World :=
  let w := confWorld ((rRAS_CE_CFG, 10) :: partRegs ++ queueRegs)
  { w with
    cores := [(3, { Core.reset with launch := some witLaunch })], mem := jobMem [0], fe := liveFe, ras := f w.ras }

theorem witness_error_sites : ∀ p ∈ [(1, 3), (2, 11), (3, 0), (4, 0), (6, 5), (7, 0x045), (9, 0x026),
    (9, 0x0E1), (9, 0x05B)], siteOk p.1 p.2 = true := by
  decide +kernel

theorem witness_units : vitalUnit 0x026 = true ∧ ∀ u ∈ [0x0E1, 0x05B], vitalUnit u = false ∧ u ∉ (rasWorld id).ras.retired := by
  decide +kernel

theorem witness_errors :
    let w := rasWorld id
    (coreOf w 3).launch ≠ none ∧ (∀ site ∈ [0, 8], (countRow site 3 5 (fld w rRAS_CE_CFG 16 16) w).1 = true) ∧
      (countRow 3 7 5 (fld w rRAS_CE_CFG 32 16) w).1 = true ∧ 0x20 ∉ retiredPages w ∧ isMain 0x100040 = true := by
  decide +kernel

theorem witness_spare :
    let w := rasWorld (fun r => { r with testing := [(2, 5)] })
    mget w.ras.testing 2 = some 5 ∧ 2 < 16 := by decide +kernel

theorem witness_reload : ∀ hot ∈ [true, false],
    let r : Reload := ⟨modelKey 0 9, 0, hot, 0x80, false⟩
    let w0 := rasWorld (fun x => { x with reloads := [r] })
    let w := { w0 with mem := { jobMem [0] with models := [(modelKey 0 9, witModel .hot)] } }
    w.ras.reloads = r :: [] ∧ modelOf w r.model = some (witModel .hot) ∧ r.moved = false ∧ r.hot = hot ∧
      (witModel .hot).st = .hot ∧ freshPage (witModel .hot) w ≠ none := by decide +kernel

/-- The translations of the page that a reload has replaced are confirmed invalid. -/
theorem witness_reloaded :
    let q : InvReq := ⟨[], .reloaded 0x800000 1 0 0x80⟩
    let w0 := rasWorld id
    let w := { w0 with mem := { w0.mem with inval := [q] } }
    w.mem.inval = q :: [] ∧ q.cont = .reloaded 0x800000 1 0 0x80 ∧ 0x80 < 2 ^ 64 := by decide +kernel

theorem witness_log :
    let w := { rasWorld id with log := [(5, ⟨1, 2, 3, 4⟩)] }
    mget w.log (261 % 256) = some ⟨1, 2, 3, 4⟩ := by decide +kernel

theorem witness_fatal :
    let w0 := rasWorld id
    let w := { w0 with regs := (fldSet w0 rRAS_STATUS 0 1 1).regs }
    fld w rRAS_STATUS 0 1 = 1 ∧ 0 = holder w := by decide +kernel

/-- Frame time is at tick 100; a snapshot is armed for it, or none is. -/
theorem witness_snapshot : ∀ arm ∈ [0, 1],
    let w0 := confWorld [(rFTB_RATE, 60 * 2 ^ 32 + 1), (rFTB_CFG, 1000 * 2 ^ 48 + 2), (rFTB_STATUS, 1),
      (rDBG_SNAP_AT_HI, arm * 2 ^ 63), (rDBG_SNAP_AT_LO, 100), (rDBG_SNAP_STATUS, arm)]
    let w := { w0 with ftb := { w0.ftb with acc := 100 * ftbUnit w0 } }
    configured w = true ∧ ftbState w ≠ 0 ∧ fld w rDBG_SNAP_STATUS 0 1 = arm ∧ fld w rDBG_SNAP_AT_HI 63 1 = arm ∧
      reachedKey w (snapKey w) = true := by decide +kernel

theorem witness_clove : ∀ st ∈ [0, 1, 2],
    let x := { blankClove with st := st, armDest := 0x100000 }
    let w0 := confWorld [(rDBG_CLOVE_SEL, 63)]
    let w := { w0 with dbg := { w0.dbg with clove := [(63, x)] } }
    configured w = true ∧ cloveSel w = 63 ∧ cloveOf w 63 = x ∧ x.st = st ∧ isMain x.armDest = true ∧ x.armDest ≠ 0 ∧
      w.harts.hart = [] ∧ w.mem.later = [] := by decide +kernel

theorem witness_starchart : ∀ frozen ∈ [none, some ([], [])],
    let r : StarRun := ⟨1, frozen.isSome, 77, frozen⟩
    let w0 := confWorld [(rDBG_STAR_DEST, 0x100000), (rDBG_STAR_LEN, 4096)]
    let w := { w0 with dbg := { w0.dbg with star := some r } }
    configured w0 = true ∧ w0.dbg.star = none ∧ w.dbg.star = some r ∧ isMain (rg w rDBG_STAR_DEST) = true ∧
      w.harts.hart = [] ∧ w.mem.later = [] := by decide +kernel

theorem witness_management : ∀ n ∈ [0, 1, 2, 3, 4, 5],
    let w := pinWorld [] (fun p => { p with awake := true, spdm := n })
    w.pins.awake = true ∧ w.pins.spdm = n ∧ 9 % 256 ≠ 0 ∧ 9 % 256 ≠ 255 := by decide +kernel

theorem witness_return :
    let w := pinWorld [(rRAS_LIFECYCLE, 1)] (fun p => { p with awake := true, spdm := 5 })
    w.pins.awake = true ∧ w.pins.spdm = 5 ∧ fld w rRAS_LIFECYCLE 0 2 = 1 := by decide +kernel

/-! ### Witnesses: harts, inbound accesses, min_run, and the machine -/

/-- Harts 4 to 7 have power; hart 4 is as given. -/
def hartWorld (x : Hart) : World :=
  let w := confWorld [(rPWR_DOM 129, 2)]
  { w with now := 10 ^ 6, harts := { w.harts with hart := [(4, x)] }, pwr := { w.pwr with pcieDown := none } }

/-- Hart 4 holds line 0x4000 (address 0x100000) M, and a reservation on it, or on another line. -/
def lineHart (granule : Nat) : Hart :=
  { Hart.reset with mLines := [(0x4000, zeros 64)], resv := some ⟨granule, 999990, false⟩ }

theorem witness_hart_line : ∀ g ∈ [0x4000, 0x4001], ∀ n ∈ [4, 8], ∀ kind ∈ [0, 1],
    let w := hartWorld (lineHart g)
    (hartRuns w 4 = true ∧ (hartOf w 4).sb = [] ∧ (hartOf w 4).cb = []) ∧
      ((n = 4 ∨ n = 8) ∧ 0x100038 % n = 0 ∧ memType 0x100038 0 = 0 ∧ hartFault w 4 0x100038 n 0 kind true = none ∧
        poisoned w 0x100038 n = false) ∧
      (mget (hartOf w 4).mLines (0x100038 / 64) = some (zeros 64) ∧ (zeros 64).length = 64) ∧
      waitsBehind w 4 (0x100038 / 64) = false ∧ (hartOf w 4).sb.length < 32 ∧ heldByOther w 4 (0x100038 / 64) = false ∧
      (hartOf w 4).resv = some ⟨g, 999990, false⟩ ∧ decide (g = 0x100038 / 64) = (g == 0x4000) ∧
      memType (0x100038 / 64 * 64) 0 = 0 ∧ hartFault w 4 (0x100038 / 64 * 64) 1 0 1 true = none ∧ w.mem.later = [] := by decide +kernel

/-- A PBMT value of 3 is a page fault, for a load, a store and a fetch (R271). -/
theorem witness_hart_faults : ∀ x ∈ [(0, 13), (1, 15), (2, 12)],
    let w := hartWorld Hart.reset
    hartRuns w 4 = true ∧ hartSize 0x100038 8 = true ∧ hartFault w 4 0x100038 8 3 x.1 true = some x.2 := by decide +kernel

theorem witness_drain :
    let e : StoreEnt := ⟨0x100038, 8, 7, false, 0⟩
    let w := hartWorld { lineHart 0x4001 with sb := [e] }
    (hartOf w 4).sb = e :: [] ∧ e.io = false ∧ (hartOf w 4).cb.any (cbOverlaps e.addr e.size) = false ∧
      heldByOther w 4 (e.addr / 64) = false ∧
      (mget (hartOf w 4).mLines (e.addr / 64) = some (zeros 64) ∧ (zeros 64).length = 64) := by decide +kernel

theorem witness_combining :
    let e : CombEnt := ⟨0x4001, 3, zeros 64, 0, 0⟩
    let w := hartWorld { Hart.reset with cb := [e] }
    (hartOf w 4).cb.find? (·.block = 0x4001) = some e ∧ 256 ≤ 3 * (w.now - e.last) ∧ heldByOther w 4 0x4001 = false ∧
      isMain (0x4001 / 2 * 128) = true ∧ e.data.length = 64 ∧ e.mask < 2 ^ 64 := by decide +kernel

theorem witness_hart_waits :
    let w := hartWorld (lineHart 0x4000)
    hartRuns w 4 = true ∧ (hartOf w 4).resv ≠ none ∧ irqPending w 4 = false ∧ ioOut w 4 = false ∧ w.mem.later = [] ∧
      (hartOf w 4).sb = [] ∧ (hartOf w 4).cb = [] ∧ (hartOf w 4).run = .running ∧ domState w (128 + 4 / 4) = 2 ∧
      (hartOf w 4).trap = none ∧ hartRuns (hartWorld Hart.reset) 4 = true ∧
      (hartOf (hartWorld Hart.reset) 4).resv = none := by decide +kernel

theorem witness_wrs_and_stop :
    let w := hartWorld { Hart.reset with run := .wrs (some 0) }
    let v := hartWorld { lineHart 0x4000 with run := .stopping }
    (hartOf w 4).run = .wrs (some 0) ∧ 0 + 1000 ≤ w.now ∧ mgetD w.harts.mtimecmp 4 0 ≤ mtime w ∧
      (hartOf v 4).run = .stopping ∧ (hartOf v 4).sb = [] ∧ (hartOf v 4).cb = [] ∧ ioOut v 4 = false ∧ v.mem.later = [] ∧
      ∀ x ∈ (hartOf v 4).mLines, x.2.length = 64 := by decide +kernel

/-- The Sstc comparator's time has come while the hart waits, and its interrupt is enabled (R280, R286). -/
theorem witness_timer :
    let w0 := hartWorld { Hart.reset with run := .wrs none }
    let w := { w0 with harts := { w0.harts with
      stimecmp := [(4, 0)], csrs := [(4, { HartCsrs.reset with mie := 2 ^ 5 })] } }
    (hartOf w 4).run = .wrs none ∧ mget w.harts.stimecmp 4 = some 0 ∧ 0 ≤ mtime w ∧ bit (csrsOf w 4).mie 5 = true := by
  decide +kernel

/-- A write of two bytes that hart 4's reservation has held for 64 cycles (R279). -/
theorem witness_held_write :
    let r : Resv := ⟨0x4000, 10 ^ 6 - 22, false⟩
    let x : LaterWrite := ⟨0, 0x100038, [1, 2], false⟩
    let w0 := hartWorld { Hart.reset with resv := some r }
    let w := { w0 with mem := { w0.mem with later := [x] } }
    (hartOf w 4).resv = some r ∧ r.granule = x.pa / 64 ∧ 64 ≤ 3 * (w.now - r.since) ∧ w.mem.later = [x] ∧
      (w.harts.hart.map (·.1)).Nodup ∧ heldByOther w 4 (x.pa / 64) = false := by decide +kernel

theorem witness_inbound :
    let w0 := hartWorld Hart.reset
    let w := { w0 with harts := { w0.harts with hart := [] } }
    w.harts.hart = [] ∧ w.mem.later = [] ∧ pcieReaches w 0x100000 [1, 2, 3].length = true ∧ pcieReaches w 0x100000 4096 = true ∧
      poisoned w 0x100000 4096 = false := by decide +kernel

theorem witness_unsupported :
    let w := netWorld [] [(7, witConn)]
    connHears w 7 = some witConn ∧ 7 ≠ twinConn ∧ nodeAddr w witConn.peer = some 1 := by decide +kernel

/-- A launch of queue 1 runs since time 0; one of queue 1023, of priority 2, waits. -/
theorem witness_min_run :
    let l := { witRun with work := 8192, started := 0 }
    let w0 := confWorld ([(rSCHED_SAVE 0, 4), (rFE_QCFG 1023, 2 * 2 ^ 20 + 6 * 2 ^ 24 + 2 ^ 32)] ++ partRegs)
    let w := { w0 with
      now := 10 ^ 6, mem := imageMem
      fe := { queueFe { oneEntry nopEntry with slot := some 0 } [(workKey0, readyWork)] with launches := [(0, l)] } }
    feHeld w = false ∧ mget w.fe.launches 0 = some l ∧ l.stop = none ∧ stepOfWork w l.work = none ∧ 0 ∉ w.sched.preempt ∧
      (savedOf w 0).length < saveSlots w 0 ∧ l.started + 1000 * fld w (rSCHED_PART_POL 0) 20 20 ≤ w.now ∧
      ∃ c ∈ cands w 0, queuePrio w (l.work / 8192) < queuePrio w c.q := by decide +kernel

theorem witness_memories : MemoriesCanonical World.reset ∧ MemoriesCanonical { World.reset with mem := netMem } := by
  refine ⟨⟨?_, ?_⟩, ?_, ?_⟩ <;> decide +kernel

theorem witness_idle : State.reset.pending = [] ∧ State.reset.w.pins.tripAt = none := by decide +kernel

/-- R263's identity registers, and a root that names a reserved mode. -/
theorem test_hart_identity :
    hartCsr World.reset 7 0xF11 = some 0xA3D ∧ hartCsr World.reset 7 0xF12 = some 0x8000000000000E01 ∧
      hartCsr World.reset 7 0xF14 = some 7 ∧ rootAfter false 5 (2 ^ 60) = 5 ∧
      rootAfter true 5 (8 * 2 ^ 60 + 0xFFFF * 2 ^ 44) = 8 * 2 ^ 60 + 0x3FFF * 2 ^ 44 := by decide +kernel

/-! ### Well-formedness: for each check, commands it refuses -/

theorem test_wf_refuses_cores_and_lanes :
    [Instr.registerWrite 2 0 0 0, .registerWrite 0 0 0 (2 ^ 64), .iadd ⟨256, 0, 1, 1⟩, .iadd ⟨0, 4, 1, 1⟩, .coreStopped 256,
      .quarterGate 0 4 0, .groupPlace 16 0, .messageDelivery 4096].all (fun i => !i.wf) = true := by decide +kernel

theorem test_wf_refuses_rings_queues_and_slots :
    [Instr.ringEntryAcknowledged 128, .ringEnable 64 0, .entryFetch 1024 1, .slotMap 0 32, .queueEnable 1024,
      .contextDestroyComplete (2 ^ 20), .preload 16 0].all (fun i => !i.wf) = true := by decide +kernel

theorem test_wf_refuses_harts_and_addresses :
    [Instr.hartLoad 32 0 8 0 true false, .hartLoad 0 (2 ^ 52) 8 0 true false, .hartLoad 0 0 3 0 true false,
      .hartLoad 0 0 8 4 true false, .cboZero 0 0 4 true, .fence 32 0 0, .pcieInboundAccess (2 ^ 52) 1 0 false [],
      .machineTimer 32].all (fun i => !i.wf) = true := by decide +kernel

theorem test_wf_refuses_network_commands :
    [Instr.linkUp 20, .laneFailure 0 9, .arriveResend 16 0, .arriveResend 0 64, .roceAck (2 ^ 24) 0 false, .roceAck 0 (2 ^ 24) false,
      .ackTimeout 16385, .hello 0 0 (2 ^ 20) 0 0 0 0 0 true true, .hello 0 0 0 (2 ^ 48) 0 0 0 0 true true, .heartbeat (2 ^ 64), .digestReceived 0 64 0 (List.replicate 96 0), .digestReceived 0 0 0 []].all (fun i => !i.wf) =
      true := by decide +kernel

theorem test_wf_refuses_finov_power_and_pins :
    [Instr.finovRd 4 [], .finovData 0 [0], .chipCap (List.replicate 241 0), .fwdS 0 32 [], .domainStartupComplete 144,
      .pllRelockComplete 4, .thermalRead 12 0, .housekeepingUp 16, .elsfpLightLoss 4, .setEndpointId 256,
      .fatalReset 2].all (fun i => !i.wf) = true := by decide +kernel

theorem test_wf_accepts :
    [Instr.iadd ⟨255, 3, 1, 1⟩, .hartLoad 31 (2 ^ 52 - 8) 8 3 false false, .roceAck (2 ^ 24 - 1) (2 ^ 24 - 1) true, .finovRd 3 (List.replicate 240 0), .laneFailure 19 8,
      .ringEntryAcknowledged 127, .domainOn 1 143].all Instr.wf = true := by decide +kernel

/-- The table gives no row bits (see Decode). -/
theorem test_no_word_decodes : decodeTableWord 32 0 = none := by decide +kernel

/-! ### The spec's worked examples -/

/-- FP32 to E4M3 (chapter 03, the example's six rows). -/
theorem test_e4m3_conversions :
    let c (x : Nat) (sat ftz : Bool) := let v := readElem ftz .fp32 x
      let r := convFloat ftz .e4m3 .rne sat 0 v.1
      (r.1, v.2 ||| r.2)
    c 0x43960000 false false = (0x79, 0) ∧ c 0x43E80000 false false = (0x7E, 0) ∧
      c 0x43FA0000 false false = (0x7F, flagOverflow) ∧ c 0x43FA0000 true false = (0x7E, flagOverflow) ∧
      c 0x00080000 false true = (0x00, flagFlush) ∧ c 0xFF800000 true false = (0xFE, flagNanDropped) := by decide +kernel

/-- FP32 0x3F80C000 to BF16 under stochastic rounding (the example of R62). -/
theorem test_bf16_stochastic : [0x9F1234, 0xC00000, 0xD07A11].map (fun r =>
    (convFloat false .bf16 .sr false r (decodeElem .fp32 0x3F80C000)).1) = [0x3F81, 0x3F80, 0x3F80] := by decide +kernel

/-- A reduction of three BF16 products truncates, then rounds once (chapter 04). -/
theorem test_dot_truncates :
    let o (x : Nat) : DotOperand := ⟨decodeElem .bf16 x, some (1, 1)⟩
    dotFloat false 0 [(o 0x3FC0, o 0x3F80), (o 0x3380, o 0x3F80), (o 0x3580, o 0x3500)] = (0x3FC00000, 0) := by
  decide +kernel

/-- The integer path wraps (chapter 04). -/
theorem test_dot_integer_wraps :
    dotInt 0x7FFF0000 (List.replicate 16 (127, 127)) = (0x8002F010, flagIntWrap) := by decide +kernel

/-- Micro-op 2 of AdamW (R218), and the bias corrections of its first step (chapter 09). -/
theorem test_adamw :
    nth adamw 1 0 = 0x45311000 ∧ (bpow false 0x3F600000 1).1 = 0x3F600000 ∧ (biasOf false 0x3F600000 1 false).1 = 0x41000000 ∧
      (biasOf false 0x3F700000 1 false).1 = 0x41800000 := by decide +kernel

/-- The CAP of R430's example: channels 0, 1, 4 and 6, accepted at an address width of 57 and refused at 52. -/
theorem test_chip_cap_example : ∀ x ∈ [(57, 0), (52, 4)],
    capReason ([0, 0, 0, 0, 2, 2, 0x53, 0, BitVec.ofNat 8 x.1, 0] ++ [16, 64, 16, 64, 16, 64, 16, 64, 16, 64, 16, 64, 16, 64] ++
      zeros 8) = x.2 := by decide +kernel

/-- A key of R358's kind: (1,000, 1,124, 65,535) comes before (1,001, 0, 0) at 1,125 lines a frame (chapter 15). -/
theorem test_deadline_order :
    let w := confWorld [(rFTB_CFG, 1125 * 2 ^ 48 + 2)]
    keyOfLin w (1000 * (1125 * 65536) + 1124 * 65536 + 65535) < keyOfLin w (1001 * (1125 * 65536)) ∧
      linOfKey w (keyOfLin w (1001 * (1125 * 65536))) = 1001 * (1125 * 65536) := by decide +kernel

end Sys2Proof.Tests
end

/-! ### Context commands: what each shared step leaves as it was -/

namespace Sys2Proof.Machine

/-- A command whose meaning is a function of the block completes with what that function answers. -/
theorem completes_of_run {c : Instr} {s : State} {f : World → World} {E : World → Prop} (hc : exec c s = run f s)
    (hE : E (f s.w)) : Completes c s E := ⟨_, hc, rfl, hE⟩

/-- A command of FE_CTX_CMD that may run does so on the selected context. -/
theorem ctxCmd_selected {w : World} {n : Nat} (h : ctxSelected w n) (f : Nat → World → World) : ctxCmd f w = f n w := by
  obtain ⟨hconf, hrun, hsel, h0, hdev⟩ := h
  simp [ctxCmd, hconf, hrun, hsel, h0, devCtx, hdev]

/-- A command of FE_CTX_CMD completes with its effect on the selected context. -/
theorem completes_ctxCmd {c : Instr} {s : State} {n : Nat} {f : Nat → World → World} {E : World → Prop}
    (hc : exec c s = run (fun w => ctxCmd f w) s) (hsel : ctxSelected s.w n) (hE : E (f n s.w)) : Completes c s E :=
  completes_of_run hc (by rw [ctxCmd_selected hsel]; exact hE)

theorem argsZero_of_argsAre {w : World} (h : argsAre w 0 0 0) : argsZero w = true := by
  obtain ⟨h0, h1, h2⟩ := h
  simp [argsZero, h0, h1, h2]

/-! ### The result register -/

/-- Contexts depend on the front end's table alone. -/
theorem ctxOf_congr {w w' : World} (h : w'.fe.ctxs = w.fe.ctxs) (n : Nat) : ctxOf w' n = ctxOf w n := by simp [ctxOf, h]

/-- A field of a register depends on the register alone. -/
theorem fld_congr {w w' : World} {off : Nat} (h : rg w' off = rg w off) (lo n : Nat) : fld w' off lo n = fld w off lo n := by
  simp [fld, h]

@[simp] theorem ctxResult_fe (r : Nat) (w : World) : (ctxResult r w).fe = w.fe := rfl

@[simp] theorem result_ctxResult (r : Nat) (w : World) : fld (ctxResult r w) rFE_CTX_RESULT 0 8 = r % 2 ^ 8 :=
  fld_fldSet_same _ _ _ _ _ (by omega)

theorem rg_ctxResult_ne (r : Nat) (w : World) {o : Nat} (h : o ≠ rFE_CTX_RESULT) : rg (ctxResult r w) o = rg w o :=
  rg_rgSet_ne _ _ h

/-- A command that only answers changes nothing else. -/
theorem onlyResult_ctxResult {r : Nat} (hr : r < 2 ^ 8) (w : World) : onlyResult w (ctxResult r w) r :=
  ⟨by rw [result_ctxResult, Nat.mod_eq_of_lt hr], fun _ h => rg_ctxResult_ne r w h, rfl, rfl, rfl, rfl, rfl⟩

@[simp] theorem busy_ctxBusy (r : CtxRun) (w : World) : fld (ctxBusy r w) rFE_CTX_RESULT 63 1 = 1 :=
  fld_fldSet_same _ _ _ _ _ (by omega)

@[simp] theorem result_ctxBusy (r : CtxRun) (w : World) :
    fld (ctxBusy r w) rFE_CTX_RESULT 0 8 = fld w rFE_CTX_RESULT 0 8 :=
  fld_fldSet_other _ _ _ _ _ _ _ (by omega) (by omega)

/-! ### Stopping work: what becomes of contexts and queues (R321, R333, R334) -/

/-- A context with flags raised. -/
def raised (fl : Flags) (c : Ctx) : Ctx := { c with flags := c.flags ||| fl }

theorem raised_raised (a b : Flags) (c : Ctx) : raised b (raised a c) = raised (a ||| b) c := by
  simp [raised, BitVec.or_assoc]

/-- The change `g` of context `n`, up to flags that stopped launches have raised on this and other contexts (R55). -/
def CtxChange (n : Nat) (g : Ctx → Ctx) (w w' : World) : Prop :=
  ∀ m, ∃ fl, ctxOf w' m = (ctxOf w m).map (fun y => raised fl (if m = n then g y else y))

/-- What stopping work leaves: registers, memory, the queues, which works there are, and contexts but for their flags. -/
structure StopKept (w w' : World) : Prop where
  regs : w'.regs = w.regs
  mem : w'.mem = w.mem
  queues : w'.fe.queues = w.fe.queues
  works : w'.fe.works.map (fun p => (p.1, p.2.ctx)) = w.fe.works.map (fun p => (p.1, p.2.ctx))
  ctxs : ∀ n, CtxChange n id w w'

theorem ctxChange_id_of_eq {w w' : World} (h : w'.fe.ctxs = w.fe.ctxs) (n : Nat) : CtxChange n id w w' := fun m =>
  ⟨0, by rw [ctxOf_congr h]; cases ctxOf w m <;> simp [raised]⟩

theorem CtxChange.trans_id {n m : Nat} {g : Ctx → Ctx} {a b c : World} (h1 : CtxChange n g a b) (h2 : CtxChange m id b c) :
    CtxChange n g a c := fun k => by
  obtain ⟨f1, e1⟩ := h1 k
  obtain ⟨f2, e2⟩ := h2 k
  refine ⟨f1 ||| f2, ?_⟩
  rw [e2, e1]
  cases ctxOf a k <;> simp [raised_raised]

theorem StopKept.refl (w : World) : StopKept w w := ⟨rfl, rfl, rfl, rfl, ctxChange_id_of_eq rfl⟩

theorem StopKept.trans {a b c : World} (h1 : StopKept a b) (h2 : StopKept b c) : StopKept a c := by
  obtain ⟨r1, m1, q1, k1, c1⟩ := h1
  obtain ⟨r2, m2, q2, k2, c2⟩ := h2
  exact ⟨r2.trans r1, m2.trans m1, q2.trans q1, k2.trans k1, fun n => (c1 n).trans_id (c2 n)⟩

theorem map_mupd_of_eq {α β : Type} (g : Nat × α → β) (f : α → α) (hf : ∀ k x, g (k, f x) = g (k, x)) (m : Map α) (k : Nat) :
    (mupd m k f).map g = m.map g := by
  induction m with
  | nil => rfl
  | cons p t ih =>
    obtain ⟨a, b⟩ := p
    simp only [mupd]
    split
    · simp [hf]
    · simp [ih]

theorem updWork_stopKept (k : Nat) {f : Work → Work} (hf : ∀ x, (f x).ctx = x.ctx) (w : World) : StopKept w (updWork k f w) :=
  ⟨rfl, rfl, rfl, map_mupd_of_eq _ f (fun j x => by simp [hf]) _ _, ctxChange_id_of_eq rfl⟩

theorem finWork_stopKept (k st : Nat) (w : World) : StopKept w (finWork k st w) :=
  updWork_stopKept k (fun x => by split <;> rfl) w

theorem updLaunch_stopKept (p : Nat) (f : Launch → Launch) (w : World) : StopKept w (updLaunch p f w) :=
  ⟨rfl, rfl, rfl, rfl, ctxChange_id_of_eq rfl⟩

theorem sched_stopKept (w : World) (x : Sched) : StopKept w { w with sched := x } := ⟨rfl, rfl, rfl, rfl, ctxChange_id_of_eq rfl⟩

theorem setCtx_ctxChange (n : Nat) (f : Ctx → Ctx) (w : World) : CtxChange n f w (setCtx w n f) := fun m => by
  refine ⟨0, ?_⟩
  by_cases h : m = n
  · subst h; cases e : ctxOf w m <;> simp [e, raised]
  · rw [ctxOf_setCtx_ne w f h]; cases ctxOf w m <;> simp [h, raised]

theorem orCtxFlags_stopKept (c : Nat) (fl : Flags) (w : World) : StopKept w (orCtxFlags c fl w) := by
  refine ⟨rfl, rfl, rfl, rfl, fun n m => ⟨if m = c then fl else 0, ?_⟩⟩
  by_cases h : m = c
  · subst h; cases e : ctxOf w m <;> simp [e, orCtxFlags, raised]
  · rw [orCtxFlags, ctxOf_setCtx_ne w _ h]; cases ctxOf w m <;> simp [h, raised]

/-- An entry read from a map stands in it. -/
theorem mem_of_mget {α : Type} {m : Map α} {k : Nat} {v : α} (h : mget m k = some v) : (k, v) ∈ m := by
  induction m with
  | nil => cases h
  | cons x t ih =>
    obtain ⟨a, b⟩ := x
    simp only [mget] at h
    split at h
    · rename_i hk; cases h; subst hk; exact List.mem_cons_self
    · exact List.mem_cons_of_mem _ (ih h)

/-- Repeating a step that keeps this keeps it. -/
theorem forAll_stopKept {α : Type} {f : α → World → World} (h : ∀ x w, StopKept w (f x w)) (l : List α) (w : World) :
    StopKept w (forAll l f w) :=
  forAll_keeps (P := StopKept w) (fun x s hs => hs.trans (h x s)) l w (.refl w)

theorem stopWork_stopKept (st k : Nat) (w : World) : StopKept w (stopWork st k w) := by
  unfold stopWork
  split
  · exact .refl w
  · rename_i x _
    split
    · exact .refl w
    · dsimp only
      generalize mergeStop x.stop st = st'
      have hmark : StopKept w (if (x.kind = 4 && !(isCause st')) = true then w
          else updWork k (fun x => { x with stop := some st' }) w) := by
        split
        · exact .refl w
        · exact updWork_stopKept k (f := fun x => { x with stop := some st' }) (fun _ => rfl) w
      refine hmark.trans ?_
      generalize (if (x.kind = 4 && !(isCause st')) = true then w else _) = u
      split
      · exact updLaunch_stopKept _ _ u
      · split
        · have hflags := forAll_stopKept (fun (s : Saved) w => orCtxFlags_stopKept s.launch.ctx (coresFlags s.cores) w)
            (u.sched.saved.flatMap (fun p => p.2.filter (fun s => s.launch.work = k))) u
          exact (hflags.trans (sched_stopKept _ _)).trans (finWork_stopKept k st' _)
        · split
          · exact finWork_stopKept k st' u
          · exact .refl u

/-- LIVE to LOST with a cause; of any other state nothing changes. -/
def lostBy (cause : Nat) (c : Ctx) : Ctx := if c.st = .live then { c with st := .lost, cause := cause } else c

/-- What losing or destroying a context leaves: memory, which works there are, and every register but
the count of losses; of contexts the change `g` of one. -/
structure CtxEnd (n : Nat) (g : Ctx → Ctx) (w w' : World) : Prop where
  regs : ∀ o, o ≠ rFE_CTX_LOSSES → rg w' o = rg w o
  mem : w'.mem = w.mem
  works : w'.fe.works.map (fun p => (p.1, p.2.ctx)) = w.fe.works.map (fun p => (p.1, p.2.ctx))
  ctxs : CtxChange n g w w'

theorem StopKept.ctxEnd {n : Nat} {g : Ctx → Ctx} {a b c : World} (h1 : CtxEnd n g a b) (h2 : StopKept b c) :
    CtxEnd n g a c := by
  obtain ⟨r1, m1, k1, c1⟩ := h1
  obtain ⟨r2, m2, _, k2, c2⟩ := h2
  exact ⟨fun o ho => (rg_congr r2 o).trans (r1 o ho), m2.trans m1, k2.trans k1, c1.trans_id (c2 n)⟩

theorem loseCtx_ctxEnd (n cause : Nat) (w : World) : CtxEnd n (lostBy cause) w (loseCtx n cause w) := by
  unfold loseCtx
  split
  · rename_i hlive
    refine StopKept.ctxEnd ?_ (forAll_stopKept (stopWork_stopKept stCtxLost) _ _)
    have hchange : CtxChange n (lostBy cause) w (setCtx w n (fun x => { x with st := .lost, cause := cause })) := by
      intro m
      obtain ⟨fl, e⟩ := setCtx_ctxChange n (fun x => { x with st := .lost, cause := cause }) w m
      refine ⟨fl, e.trans ?_⟩
      by_cases h : m = n
      · subst h
        cases hc : ctxOf w m with
        | none => rfl
        | some c =>
          have : c.st = .live := by simpa [ctxLive, hc] using hlive
          simp [lostBy, this]
      · simp [h]
    split
    · exact ⟨fun o ho => rg_bump_ne _ _ ho, rfl, rfl, hchange⟩
    · exact ⟨fun o ho => rg_bump_ne _ _ ho, rfl, rfl, hchange⟩
  · rename_i hlive
    refine ⟨fun _ _ => rfl, rfl, rfl, fun m => ⟨0, ?_⟩⟩
    cases hc : ctxOf w m with
    | none => rfl
    | some c =>
      by_cases h : m = n
      · subst h
        have : c.st ≠ .live := by simpa [ctxLive, hc] using hlive
        simp [raised, lostBy, this]
      · simp [h, raised]

/-- A queue that is being destroyed, if it is enabled at all. -/
def Dying (w : World) (q : Nat) : Prop := ∀ x, queueOf w q = some x → x.destroying = true

/-- The first write of destroy marks the queue and stops its work; any other changes nothing (R333). -/
theorem queueDestroy_cases (q : Nat) (w : World) :
    (queueDestroy q w = w ∧ Dying w q) ∨
      StopKept (updQueue q (fun x => { x with destroying := true }) w) (queueDestroy q w) := by
  unfold queueDestroy
  cases hq : queueOf w q with
  | none => exact .inl ⟨rfl, fun x hx => by rw [hq] at hx; cases hx⟩
  | some x =>
    dsimp only
    split
    · rename_i hd
      exact .inl ⟨rfl, fun y hy => by rw [hq] at hy; cases hy; exact hd⟩
    · exact .inr (forAll_stopKept (stopWork_stopKept _) _ _)

theorem queueDestroy_ctxEnd {n : Nat} {g : Ctx → Ctx} {a w : World} (q : Nat) (h : CtxEnd n g a w) :
    CtxEnd n g a (queueDestroy q w) := by
  rcases queueDestroy_cases q w with ⟨e, _⟩ | hs
  · rwa [e]
  · exact StopKept.ctxEnd (b := updQueue q (fun x => { x with destroying := true }) w) ⟨h.regs, h.mem, h.works, h.ctxs⟩ hs

theorem queueDestroy_dying (q : Nat) (w : World) : Dying (queueDestroy q w) q := by
  rcases queueDestroy_cases q w with ⟨e, hd⟩ | hs
  · rwa [e]
  · intro x hx
    rw [queueOf, hs.queues, updQueue, mget_mupd_same] at hx
    obtain ⟨y, _, rfl⟩ := Option.map_eq_some_iff.1 hx
    rfl

/-- A queue that is being destroyed stays so while others are. -/
theorem queueDestroy_keeps_dying {q : Nat} (r : Nat) {w : World} (h : Dying w q) : Dying (queueDestroy r w) q := by
  by_cases hr : q = r
  · subst hr; exact queueDestroy_dying q w
  rcases queueDestroy_cases r w with ⟨e, _⟩ | hs
  · rwa [e]
  · intro x hx
    rw [queueOf, hs.queues, updQueue, mget_mupd_ne _ _ hr] at hx
    exact h x hx

/-- Every queue of a list is being destroyed once each has been told to. -/
theorem forAll_queueDestroy_dying {q : Nat} {l : List Nat} (w : World) (h : q ∈ l) : Dying (forAll l queueDestroy w) q := by
  induction l generalizing w with
  | nil => cases h
  | cons r t ih =>
    have hcons : forAll (r :: t) queueDestroy w = forAll t queueDestroy (queueDestroy r w) := rfl
    rw [hcons]
    rcases List.mem_cons.1 h with rfl | ht
    · exact forAll_keeps (P := fun v => Dying v q) (fun r _ hv => queueDestroy_keeps_dying r hv) t _ (queueDestroy_dying q w)
    · exact ih _ ht

/-- A context under destruction. -/
def destroyed (c : Ctx) : Ctx := { c with st := .destroying }

/-- The first two steps of R337. -/
theorem beginDestroy_ctxEnd (n : Nat) (w : World) : CtxEnd n destroyed w (beginDestroy n w) :=
  forAll_keeps (P := CtxEnd n destroyed w) (fun q _ h => queueDestroy_ctxEnd q h) _ _
    ⟨fun _ _ => rfl, rfl, rfl, setCtx_ctxChange n destroyed w⟩

/-- The change of context `n` itself. -/
theorem CtxChange.self {n : Nat} {g : Ctx → Ctx} {w w' : World} {c : Ctx} (h : CtxChange n g w w') (hc : ctxOf w n = some c) :
    ∃ fl, ctxOf w' n = some (raised fl (g c)) := by
  obtain ⟨fl, e⟩ := h n
  exact ⟨fl, by simp [e, hc]⟩

theorem CtxChange.others {n : Nat} {g : Ctx → Ctx} {w w' : World} (h : CtxChange n g w w') : OtherCtxsButFlags n w w' :=
  fun m hm => by
    obtain ⟨fl, e⟩ := h m
    exact ⟨fl, by rw [e]; simp only [hm, if_false]; rfl⟩

/-! ### KILL and DESTROY (R335, R336) -/

/-- The works of a context are there or not, whatever else becomes of them. -/
theorem anyWork_congr {w w' : World} (h : w'.fe.works.map (fun p => (p.1, p.2.ctx)) = w.fe.works.map (fun p => (p.1, p.2.ctx)))
    (n : Nat) : w'.fe.works.any (fun p => p.2.ctx = n) = w.fe.works.any (fun p => p.2.ctx = n) := by
  have e := congrArg (List.any · (fun p : Nat × Nat => p.2 = n)) h
  simpa [List.any_map, Function.comp_def] using e

/-- A KILL has ended where no work of its context is left; otherwise it runs on. -/
theorem killCheck_ctxBusy (n : Nat) (w : World) :
    killCheck (ctxBusy (.kill n) w) = if w.fe.works.any (fun p => p.2.ctx = n) then ctxBusy (.kill n) w
      else fldSet { (ctxBusy (.kill n) w) with fe := { (ctxBusy (.kill n) w).fe with ctxRun := none } } rFE_CTX_RESULT 63 1 0 := rfl

theorem killCheck_ctxBusy_spec (n : Nat) (w : World) :
    let w' := killCheck (ctxBusy (.kill n) w)
    w'.fe.ctxs = w.fe.ctxs ∧ w'.mem = w.mem ∧ fld w' rFE_CTX_RESULT 0 8 = fld w rFE_CTX_RESULT 0 8 ∧
      fld w' rFE_CTX_RESULT 63 1 = if w.fe.works.any (fun p => p.2.ctx = n) then 1 else 0 := by
  rw [killCheck_ctxBusy]
  split
  · exact ⟨rfl, rfl, result_ctxBusy _ _, busy_ctxBusy _ _⟩
  · refine ⟨rfl, rfl, ?_, fld_fldSet_same _ _ _ _ _ (by omega)⟩
    rw [fld_fldSet_other _ _ _ _ _ _ _ (by omega) (by omega)]
    exact result_ctxBusy (.kill n) w

theorem ctxKill_live {s : State} {n : Nat} {c : Ctx} (hsel : ctxSelected s.w n) (hargs : argsAre s.w 0 0 0)
    (hc : ctxOf s.w n = some c) (hlive : c.st = .live) :
    Completes .ctxKill s (fun w' =>
      (∃ fl, ctxOf w' n = some { c with st := .lost, cause := 6, flags := c.flags ||| fl }) ∧
      resultIs w' 0 (if s.w.fe.works.any (fun p => p.2.ctx = n) then 1 else 0) ∧ OtherCtxsButFlags n s.w w' ∧
      w'.mem = s.w.mem) := by
  refine completes_ctxCmd (f := ctxKill) rfl hsel ?_
  have hstep : ctxKill n s.w = killCheck (ctxBusy (.kill n) (loseCtx n 6 (ctxResult resOK s.w))) := by
    simp [ctxKill, argsZero_of_argsAre hargs, hc, hlive]
  obtain ⟨hregs, hmem, hworks, hchange⟩ := loseCtx_ctxEnd n 6 (ctxResult resOK s.w)
  generalize loseCtx n 6 (ctxResult resOK s.w) = u at *
  obtain ⟨kctxs, kmem, kres, kbusy⟩ := killCheck_ctxBusy_spec n u
  rw [hstep]
  generalize killCheck (ctxBusy (.kill n) u) = v at *
  have hv := hchange.trans_id (ctxChange_id_of_eq kctxs n)
  obtain ⟨fl, e⟩ := hv.self (c := c) hc
  refine ⟨⟨fl, by simpa [lostBy, hlive, raised] using e⟩, ⟨?_, ?_⟩, hv.others, kmem.trans hmem⟩
  · rw [kres, fld_congr (hregs _ (by decide)), result_ctxResult]; rfl
  · rw [kbusy, anyWork_congr hworks]; rfl

theorem ctxKill_lost {s : State} {n : Nat} {c : Ctx} (hsel : ctxSelected s.w n) (hargs : argsAre s.w 0 0 0)
    (hc : ctxOf s.w n = some c) (hlost : c.st = .lost) : Completes .ctxKill s (fun w' => onlyResult s.w w' 0) := by
  refine completes_ctxCmd (f := ctxKill) rfl hsel ?_
  have hstep : ctxKill n s.w = ctxResult resOK s.w := by simp [ctxKill, argsZero_of_argsAre hargs, hc, hlost]
  rw [hstep]
  exact onlyResult_ctxResult (by decide) _

/-- A context that KILL may not end: FREE or DESTROYING. -/
theorem ctxKill_wrongState {s : State} {n : Nat} (hsel : ctxSelected s.w n) (hargs : argsAre s.w 0 0 0)
    (hst : ∀ c, ctxOf s.w n = some c → c.st = .destroying) : Completes .ctxKill s (fun w' => onlyResult s.w w' 7) := by
  refine completes_ctxCmd (f := ctxKill) rfl hsel ?_
  have hstep : ctxKill n s.w = ctxResult resWrongState s.w := by
    cases hc : ctxOf s.w n with
    | none => simp [ctxKill, argsZero_of_argsAre hargs, hc]
    | some c => simp [ctxKill, argsZero_of_argsAre hargs, hc, hst c hc]
  rw [hstep]
  exact onlyResult_ctxResult (by decide) _

/-- A context that DESTROY may not end: FREE, DESTROYING, or LIVE with an enabled queue. -/
theorem ctxDestroy_wrongState {s : State} {n : Nat} (hsel : ctxSelected s.w n) (hargs : argsAre s.w 0 0 0)
    (hst : ∀ c, ctxOf s.w n = some c → c.st = .destroying ∨ (c.st = .live ∧ ctxQueues s.w n ≠ [])) :
    Completes .ctxDestroy s (fun w' => onlyResult s.w w' 7) := by
  refine completes_ctxCmd (f := ctxDestroy) rfl hsel ?_
  have hstep : ctxDestroy n s.w = ctxResult resWrongState s.w := by
    cases hc : ctxOf s.w n with
    | none => simp [ctxDestroy, argsZero_of_argsAre hargs, hc]
    | some c =>
      rcases hst c hc with h | ⟨h, hq⟩
      · simp [ctxDestroy, argsZero_of_argsAre hargs, hc, h]
      · simp [ctxDestroy, argsZero_of_argsAre hargs, hc, h, hq]
  rw [hstep]
  exact onlyResult_ctxResult (by decide) _

/-- Which queues a context has does not depend on the result register. -/
theorem ctxQueues_ctxResult (r n : Nat) (w : World) : ctxQueues (ctxResult r w) n = ctxQueues w n := by
  have hq (q : Nat) : queueCtx (ctxResult r w) q = queueCtx w q :=
    fld_fldSet_ne _ _ _ _ _ _ (by simp only [rFE_QCFG, rFE_CTX_RESULT]; omega)
  simp [ctxQueues, hq]

theorem ctxDestroy_begins {s : State} {n : Nat} {c : Ctx} (hsel : ctxSelected s.w n) (hargs : argsAre s.w 0 0 0)
    (hc : ctxOf s.w n = some c) (hst : c.st = .lost ∨ (c.st = .live ∧ ctxQueues s.w n = [])) :
    Completes .ctxDestroy s (fun w' =>
      (∃ fl, ctxOf w' n = some { c with st := .destroying, flags := c.flags ||| fl }) ∧ resultIs w' 0 1 ∧
      (∀ q x, q ∈ ctxQueues s.w n → queueOf w' q = some x → x.destroying = true) ∧ OtherCtxsButFlags n s.w w' ∧
      w'.mem = s.w.mem) := by
  refine completes_ctxCmd (f := ctxDestroy) rfl hsel ?_
  have hstep : ctxDestroy n s.w = ctxBusy (.destroy n) (beginDestroy n (ctxResult resOK s.w)) := by
    rcases hst with h | ⟨h, hq⟩
    · simp [ctxDestroy, argsZero_of_argsAre hargs, hc, h]
    · simp [ctxDestroy, argsZero_of_argsAre hargs, hc, h, hq]
  have hdying (q : Nat) (hq : q ∈ ctxQueues s.w n) : Dying (beginDestroy n (ctxResult resOK s.w)) q := by
    refine forAll_queueDestroy_dying _ ?_
    rwa [ctxQueues_ctxResult]
  obtain ⟨hregs, hmem, _, hchange⟩ := beginDestroy_ctxEnd n (ctxResult resOK s.w)
  rw [hstep]
  generalize beginDestroy n (ctxResult resOK s.w) = u at *
  obtain ⟨fl, e⟩ := hchange.self (c := c) hc
  refine ⟨⟨fl, e⟩, ⟨?_, busy_ctxBusy _ _⟩, fun q x hq hx => hdying q hq x hx, hchange.others, hmem⟩
  rw [result_ctxBusy, fld_congr (hregs _ (by decide)), result_ctxResult]; rfl

/-! ### FE_CTX_FLAGS_CLEAR (R323) -/

theorem feCtxFlagsClear_clears {s : State} {n v : Nat} {c : Ctx} (hconf : configured s.w = true)
    (hsel : fld s.w rFE_CTX_SEL 0 20 = n) (hc : ctxOf s.w n = some c) (hst : c.st ≠ .destroying) :
    Completes (.feCtxFlagsClear v) s (fun w' =>
      ctxOf w' n = some { c with flags := c.flags &&& ~~~(BitVec.ofNat 16 (v % 128)) } ∧ OtherCtxsKept n s.w w' ∧
      w'.regs = s.w.regs ∧ w'.mem = s.w.mem) := by
  refine completes_of_run (f := flagsClear v) rfl ?_
  have hok : (ctxLive s.w n || ctxLost s.w n) = true := by
    cases h : c.st with
    | live => simp [ctxLive, hc, h]
    | lost => simp [ctxLost, hc, h]
    | destroying => exact absurd h hst
  have hstep : flagsClear v s.w =
      setCtx s.w n (fun c => { c with flags := c.flags &&& ~~~(BitVec.ofNat 16 (bits v 0 7)) }) := by
    simp [flagsClear, hconf, hsel, hok]
  rw [hstep]
  refine ⟨?_, fun m hm => ctxOf_setCtx_ne _ _ hm, rfl, rfl⟩
  rw [ctxOf_setCtx_same, hc]
  simp [bits]

/-! ### Owner reset (R339) -/

/-- A change of contexts that can be made again, and that leaves flags to others. -/
structure Settles (g : Ctx → Ctx) : Prop where
  again : ∀ c, g (g c) = g c
  flags : ∀ fl c, g (raised fl c) = raised fl (g c)

theorem lostBy_settles (cause : Nat) : Settles (lostBy cause) where
  again c := by unfold lostBy; split <;> simp_all
  flags fl c := by unfold lostBy raised; split <;> rfl

theorem destroyed_settles : Settles destroyed := ⟨fun _ => rfl, fun _ _ => rfl⟩

/-- What the owner reset makes of a host's context. -/
theorem destroyed_lostBy (cause : Nat) (c : Ctx) :
    destroyed (lostBy cause c) = { c with st := .destroying, cause := if c.st = .live then cause else c.cause } := by
  unfold lostBy
  split <;> rfl

/-- One change made of every context of a list, each by a step that changes no other. -/
theorem forAll_ctxChange {g : Ctx → Ctx} (hg : Settles g) {f : Nat → World → World} (hf : ∀ n w, CtxChange n g w (f n w))
    (m : Nat) : ∀ (l : List Nat) (w : World),
      ∃ fl, ctxOf (forAll l f w) m = (ctxOf w m).map (fun y => raised fl (if m ∈ l then g y else y))
  | [], w => ⟨0, by cases e : ctxOf w m <;> simp [forAll, e, raised]⟩
  | n :: t, w => by
    obtain ⟨f1, e1⟩ := hf n w m
    obtain ⟨f2, e2⟩ := forAll_ctxChange hg hf m t (f n w)
    refine ⟨f1 ||| f2, ?_⟩
    have hcons : forAll (n :: t) f w = forAll t f (f n w) := rfl
    rw [hcons, e2, e1]
    cases ctxOf w m with
    | none => rfl
    | some y =>
      by_cases hn : m = n
      · by_cases ht : m ∈ t
        · simp [hn, hn ▸ ht, raised_raised, hg.flags, hg.again]
        · simp [hn, hn ▸ ht, raised_raised]
      · by_cases ht : m ∈ t <;> simp [hn, ht, raised_raised, hg.flags]

/-- Of one host context the owner reset begins the destruction, unless it has begun. -/
def resetDestroy (n : Nat) (w : World) : World := match ctxOf w n with
  | some c => if c.st = .destroying then w else beginDestroy n w
  | none => w

theorem resetDestroy_ctxEnd (n : Nat) (w : World) : CtxEnd n destroyed w (resetDestroy n w) := by
  unfold resetDestroy
  cases hc : ctxOf w n with
  | none =>
    refine ⟨fun _ _ => rfl, rfl, rfl, fun m => ⟨0, ?_⟩⟩
    by_cases h : m = n
    · subst h; simp [hc]
    · cases ctxOf w m <;> simp [h, raised]
  | some c =>
    dsimp only
    split
    · rename_i hst
      refine ⟨fun _ _ => rfl, rfl, rfl, fun m => ⟨0, ?_⟩⟩
      by_cases h : m = n
      · subst h; simp [hc, raised, destroyed, ← hst]
      · cases ctxOf w m <;> simp [h, raised]
    · exact beginDestroy_ctxEnd n w

/-- Registers but the count of losses, and memory, through such steps for every context of a list. -/
theorem forAll_ctxEnd_frame {g : Ctx → Ctx} {f : Nat → World → World} (hf : ∀ n w, CtxEnd n g w (f n w)) (l : List Nat)
    (w : World) : (∀ o, o ≠ rFE_CTX_LOSSES → rg (forAll l f w) o = rg w o) ∧ (forAll l f w).mem = w.mem :=
  forAll_keeps (P := fun v => (∀ o, o ≠ rFE_CTX_LOSSES → rg v o = rg w o) ∧ v.mem = w.mem)
    (fun n v hv => by
      obtain ⟨hr, hm⟩ := hv
      exact ⟨fun o ho => ((hf n v).regs o ho).trans (hr o ho), (hf n v).mem.trans hm⟩) l w ⟨fun _ _ => rfl, rfl⟩

theorem rg_bumpSat_ne (w : World) {off o : Nat} (lo : Nat) (h : o ≠ off) : rg (bumpSat w off lo) o = rg w o := by
  unfold bumpSat
  dsimp only
  split
  · rfl
  · exact rg_rgSet_ne _ _ h

/-- Disabling a ring that is enabled changes the interrupt unit and the ring's own registers. -/
theorem ringDisable_frame {r : Nat} (v : Nat) {w : World} (hon : ringOn w r = true) :
    (ringDisable r v w).fe = w.fe ∧ (ringDisable r v w).mem = w.mem ∧ ringOn (ringDisable r v w) r = false ∧
      ∀ o, o ≠ ringDrop r → o ≠ ringCfg r → rg (ringDisable r v w) o = rg w o := by
  unfold ringDisable
  simp only [hon, if_true]
  obtain ⟨hfe, hmem, hrg⟩ := foldl_keeps (α := Waiting)
    (P := fun u => u.fe = w.fe ∧ u.mem = w.mem ∧ ∀ o, o ≠ ringDrop r → rg u o = rg w o)
    (f := fun w _ => bumpSat w (ringDrop r) 0)
    (fun u _ ⟨ufe, umem, urg⟩ => ⟨by rw [bumpSat_fe]; exact ufe, by rw [bumpSat_mem]; exact umem,
      fun o ho => (rg_bumpSat_ne u 0 ho).trans (urg o ho)⟩)
    (w.irq.waiting.filter (·.ring = r)) w ⟨rfl, rfl, fun _ _ => rfl⟩
  generalize (w.irq.waiting.filter (·.ring = r)).foldl (fun w _ => bumpSat w (ringDrop r) 0) w = u at *
  refine ⟨hfe, hmem, ?_, fun o hd hc => ?_⟩
  · rw [ringOn, fld_fldSet_same _ _ _ _ _ (by omega)]; rfl
  · rw [← hrg o hd]
    exact rg_rgSet_ne _ _ hc

theorem iter_succ {σ : Type} (k : Nat) (f : Nat → σ → σ) (s : σ) : iter (k + 1) f s = f k (iter k f s) := by
  simp [iter, List.range_succ]

/-- The host rings up to `k` are disabled, and nothing but the interrupt unit and the rings' registers has changed. -/
theorem hostRings_disabled (k : Nat) (w : World) :
    let w' := iter k (fun r w => if ringOn w (r + 64) then ringDisable (r + 64) 0 w else w) w
    w'.fe = w.fe ∧ w'.mem = w.mem ∧ ∀ r, r < k → ringOn w' (r + 64) = false := by
  induction k with
  | zero => exact ⟨rfl, rfl, fun r h => absurd h (Nat.not_lt_zero r)⟩
  | succ k ih =>
    obtain ⟨hfe, hmem, hoff⟩ := ih
    dsimp only
    rw [iter_succ]
    generalize iter k (fun r w => if ringOn w (r + 64) then ringDisable (r + 64) 0 w else w) w = u at *
    by_cases hon : ringOn u (k + 64) = true
    · rw [if_pos hon]
      obtain ⟨gfe, gmem, goff, grg⟩ := ringDisable_frame 0 hon
      refine ⟨gfe.trans hfe, gmem.trans hmem, fun r hr => ?_⟩
      by_cases h : r = k
      · rwa [h]
      · have hne : ringCfg (r + 64) ≠ ringDrop (k + 64) ∧ ringCfg (r + 64) ≠ ringCfg (k + 64) := by
          simp [ringCfg, ringDrop, isHostRing, rFE_HN_CFG, rFE_HN_DROP]; omega
        rw [ringOn, fld_congr (grg _ hne.1 hne.2)]
        exact hoff r (by omega)
    · rw [if_neg hon]
      refine ⟨hfe, hmem, fun r hr => ?_⟩
      by_cases h : r = k
      · rw [h]; exact Bool.eq_false_iff.2 hon
      · exact hoff r (by omega)

/-- The key of an entry of a map without double keys is in a choice of its entries when the entry is chosen. -/
theorem mem_keys_filter_iff {α : Type} {m : Map α} (hn : (m.map (·.1)).Nodup) {k : Nat} {v : α} (h : mget m k = some v)
    (p : Nat × α → Bool) : k ∈ (m.filter p).map (·.1) ↔ p (k, v) = true := by
  induction m with
  | nil => cases h
  | cons x t ih =>
    obtain ⟨a, b⟩ := x
    simp only [List.map_cons, List.nodup_cons] at hn
    by_cases hk : k = a
    · subst hk
      have hb : b = v := by simpa [mget] using h
      subst hb
      have ht : k ∉ (t.filter p).map (·.1) := fun hm => hn.1 ((List.filter_sublist.map _).subset hm)
      by_cases hp : p (k, b) = true
      · simp [hp]
      · simp [hp]; simpa using ht
    · have h' : mget t k = some v := by simpa [mget, hk] using h
      have := ih hn.2 h'
      by_cases hp : p (a, b) = true
      · simp only [List.filter_cons, hp, if_true, List.map_cons, List.mem_cons, hk, false_or]; exact this
      · simp only [List.filter_cons, hp, Bool.false_eq_true, if_false]; exact this

theorem functionLevelReset_ends {s : State} (hnodup : (s.w.fe.ctxs.map (·.1)).Nodup) :
    Completes .functionLevelReset s (fun w' =>
      (∀ r, r < 64 → ringOn w' (r + 64) = false) ∧
      (∀ n c, ctxOf s.w n = some c → ∃ fl, ctxOf w' n = some { (if c.cc then c
        else { c with st := .destroying, cause := if c.st = .live then 7 else c.cause }) with flags := c.flags ||| fl }) ∧
      w'.mem = s.w.mem) := by
  refine completes_of_run (f := functionReset) rfl ?_
  obtain ⟨rfe, rmem, roff⟩ := hostRings_disabled 64 s.w
  unfold functionReset
  dsimp only at *
  generalize iter 64 (fun r w => if ringOn w (r + 64) then ringDisable (r + 64) 0 w else w) s.w = u at *
  rw [rfe]
  have hkey (n : Nat) (c : Ctx) (hc : ctxOf s.w n = some c) :=
    mem_keys_filter_iff hnodup hc (fun c => !c.2.cc)
  generalize (s.w.fe.ctxs.filter (fun c => !c.2.cc)).map (·.1) = hosts at *
  obtain ⟨lrg, lmem⟩ := forAll_ctxEnd_frame (loseCtx_ctxEnd · 7) hosts u
  have lctx (m : Nat) := forAll_ctxChange (lostBy_settles 7) (fun n w => (loseCtx_ctxEnd n 7 w).ctxs) m hosts u
  generalize forAll hosts (fun n w => loseCtx n 7 w) u = v at *
  obtain ⟨drg, dmem⟩ := forAll_ctxEnd_frame resetDestroy_ctxEnd hosts v
  have dctx (m : Nat) := forAll_ctxChange destroyed_settles (fun n w => (resetDestroy_ctxEnd n w).ctxs) m hosts v
  refine ⟨fun r hr => ?_, fun n c hc => ?_, dmem.trans (lmem.trans rmem)⟩
  · have hne : ringCfg (r + 64) ≠ rFE_CTX_LOSSES := by
      simp [ringCfg, isHostRing, rFE_HN_CFG, rFE_CTX_LOSSES]; omega
    rw [← roff r hr]
    exact congrArg (fun x => decide (x = 1)) (fld_congr ((drg _ hne).trans (lrg _ hne)) 0 1)
  · obtain ⟨f1, e1⟩ := lctx n
    obtain ⟨f2, e2⟩ := dctx n
    refine ⟨f1 ||| f2, e2.trans ?_⟩
    rw [e1, ctxOf_congr (w := s.w) (by rw [rfe]), hc]
    by_cases hcc : c.cc = true
    · have hout : n ∉ hosts := by simp [hkey n c hc, hcc]
      simp only [hout, if_false, Option.map_some, raised_raised, if_pos hcc]
      rfl
    · have hin : n ∈ hosts := by simp [hkey n c hc, hcc]
      simp only [hin, if_true, Option.map_some, destroyed_settles.flags, raised_raised, if_neg hcc, destroyed_lostBy]
      rfl

/-! ### Subscriptions (R330, R331) -/

/-- Among as many handles as there are, one is free while fewer are taken. -/
theorem freeHandle {m : Map Sub} {k : Nat} (h : m.length < k) :
    ∃ i, (List.range k).find? (fun i => (mget m i).isNone) = some i ∧ i < k ∧ mget m i = none := by
  cases hf : (List.range k).find? (fun i => (mget m i).isNone) with
  | some i =>
    have hi := List.find?_some hf
    exact ⟨i, rfl, List.mem_range.1 (List.mem_of_find?_eq_some hf), Option.isNone_iff_eq_none.1 hi⟩
  | none =>
    exfalso
    rw [List.find?_eq_none] at hf
    have hsub : List.range k ⊆ m.map (·.1) := fun i hi => by
      have hi' := hf i hi
      cases hg : mget m i with
      | none => simp [hg] at hi'
      | some v => exact List.mem_map.2 ⟨(i, v), mem_of_mget hg, rfl⟩
    have := (List.nodup_range (n := k)).length_le_of_subset hsub
    simp at this
    omega

theorem subscribe_refuses {s : State} {n r : Nat} (hsel : ctxSelected s.w n) (hr : r < 2 ^ 8)
    (hstep : ctxSubscribe n s.w = ctxResult r s.w) : Completes .subscribe s (fun w' => onlyResult s.w w' r) :=
  completes_ctxCmd (f := ctxSubscribe) rfl hsel (by rw [hstep]; exact onlyResult_ctxResult hr _)

theorem subscribe_takes {s : State} {n q : Nat} (hsel : ctxSelected s.w n) (hq : bits (ctxArg s.w 1) 0 10 = q)
    (hmask : ctxArg s.w 1 &&& subMask = ctxArg s.w 1) (hen : (queueOf s.w q).isSome = true) (hlive : ctxLive s.w n = true)
    (hroom : s.w.fe.subs.length < 4096) (hopen : serialGe (queueDone s.w q) (ctxArg s.w 0) = false) :
    Completes .subscribe s (fun w' =>
      let h := fld w' rFE_CTX_RESULT 16 12
      fld w' rFE_CTX_RESULT 0 8 = 0 ∧ mget s.w.fe.subs h = none ∧
      (∃ u, mget w'.fe.subs h = some u ∧ u.ctx = n ∧ u.q = q ∧ u.seq = ctxArg s.w 0 ∧ u.cookie = ctxArg s.w 2) ∧
      (∀ h', h' ≠ h → mget w'.fe.subs h' = mget s.w.fe.subs h') ∧ w'.mem = s.w.mem) := by
  refine completes_ctxCmd (f := ctxSubscribe) rfl hsel ?_
  obtain ⟨h, hfind, hlt, hfree⟩ := freeHandle hroom
  have hen' : (queueOf s.w q).isNone = false := by simpa using hen
  have hfull : ¬ 4096 ≤ s.w.fe.subs.length := by omega
  unfold ctxSubscribe
  simp only [hq, hmask, hen', hlive, hfull, hopen, hfind, ne_eq, not_true_eq_false, decide_false, Bool.or_self,
    Bool.false_eq_true, Bool.not_true, if_false, Option.getD_some]
  generalize hu : Sub.mk n q _ _ _ _ = u
  generalize hw : fldSet { s.w with fe := { s.w.fe with subs := mset s.w.fe.subs h u } } rFE_CTX_RESULT 16 12 h = w1
  have hh : fld (ctxResult resOK w1) rFE_CTX_RESULT 16 12 = h := by
    subst hw
    rw [ctxResult, fld_fldSet_other _ _ _ _ _ _ _ (by omega) (by omega), fld_fldSet_same _ _ _ _ _ (by omega)]
    exact Nat.mod_eq_of_lt hlt
  have hsubs : (ctxResult resOK w1).fe.subs = mset s.w.fe.subs h u := by subst hw; rfl
  simp only [hh, hsubs]
  refine ⟨result_ctxResult _ _, hfree, ⟨u, mget_mset_same _ _ _, ?_⟩, fun h' hne => mget_mset_ne _ _ hne, by subst hw; rfl⟩
  subst hu
  exact ⟨rfl, rfl, rfl, rfl⟩

theorem unsubscribe_ends {s : State} {n h : Nat} {u : Sub} (hsel : ctxSelected s.w n) (hargs : argsAre s.w h 0 0)
    (hlt : h < 4096) (hu : mget s.w.fe.subs h = some u) (hctx : u.ctx = n) (hst : ctxLive s.w n = true ∨ ctxLost s.w n = true) :
    Completes .unsubscribe s (fun w' =>
      mget w'.fe.subs h = none ∧ fld w' rFE_CTX_RESULT 0 8 = 0 ∧
      (∀ h', h' ≠ h → mget w'.fe.subs h' = mget s.w.fe.subs h') ∧ w'.mem = s.w.mem) := by
  refine completes_ctxCmd (f := ctxUnsubscribe) rfl hsel ?_
  obtain ⟨a0, a1, a2⟩ := hargs
  have hstep : ctxUnsubscribe n s.w = ctxResult resOK { s.w with fe := { s.w.fe with subs := mdel s.w.fe.subs h } } := by
    have hok : (ctxLive s.w n || ctxLost s.w n) = true := by simpa using hst
    simp [ctxUnsubscribe, a0, a1, a2, hu, hctx, hok, Nat.not_le.2 hlt]
  rw [hstep]
  exact ⟨mget_mdel_same _ _, result_ctxResult _ _, fun h' hne => mget_mdel_ne _ hne, rfl⟩

end Sys2Proof.Machine

/-! ### Accesses at the home: what they leave of the front end, of objects and of bytes (R237, R269, R279) -/

namespace Sys2Proof.Machine

/-- A property that a request for a line keeps, whatever the line: it rests neither on counters nor on which lines are
present at their homes, and a recall keeps it. -/
structure HomeStable (P : World → Prop) : Prop where
  count : ∀ {w : World} (off k : Nat), off ≠ rFE_CTX_RESULT → P w → P (bump w off k)
  home : ∀ {w : World} (ls : Map Bool) (fs : List Fill) (b : Nat) (sb : Bool), P w →
    P { w with mem := { w.mem with lines := ls, fills := fs, invBusy := b, sysBusy := sb } }
  recalled : ∀ {w : World} (line : Nat), P w → P (recallCopies line w)
  readBack : ∀ {w : World} (line : Nat), P w → P (recallRead line w)

section
variable {P : World → Prop} {w : World} (hP : HomeStable P)
include hP

theorem countBehind_stable (ln : Nat) (wr : Bool) (h : P w) : P (countBehind ln wr w) := by
  unfold countBehind
  dsimp only
  split <;> refine hP.count _ _ ?_ h <;> split <;>
    simp only [rDBG_HBM_WR, rDBG_HBM_RD, rDBG_HOST_WR, rDBG_HOST_RD, rFE_CTX_RESULT] <;> omega

theorem countHome_stable (pa n : Nat) (wr : Bool) (h : P w) : P (countHome pa n wr w) := by
  unfold countHome
  split
  · refine hP.count _ _ ?_ h
    split <;> simp only [rDBG_SC_WR, rDBG_SC_RD, rFE_CTX_RESULT] <;> omega
  · split
    · exact hP.count _ _ (by split <;> decide) h
    · exact h

theorem installLine_stable (ln : Nat) (d : Bool) (h : P w) : P (installLine ln d w) := hP.home _ _ _ _ h

theorem installFill_stable (f : Fill) (h : P w) : P (installFill f w) :=
  countBehind_stable hP _ _ (installLine_stable hP f.line f.dirty
    (hP.home w.mem.lines (w.mem.fills.filter (fun x => x.line ≠ f.line)) w.mem.invBusy w.mem.sysBusy h))

theorem recallEvict_stable (ln : Nat) (h : P w) : P (recallEvict ln w) := forAll_keeps (P := P) (fun _ _ hs => hP.recalled _ hs) _ _ h

theorem makeRoom_stable (ln v : Nat) (fill : Bool) (h : P w) : P (makeRoom ln v fill w) := by
  unfold makeRoom
  dsimp only
  split
  · exact h
  · have hfill : P (if (setLines w ln).isEmpty = true then
        (match setFills w ln with | f :: _ => installFill f w | [] => w) else w) := by
      split
      · split
        · exact installFill_stable hP _ h
        · exact h
      · exact h
    generalize (if (setLines w ln).isEmpty = true then _ else w) = w1 at hfill ⊢
    generalize (if (List.filter _ (setLines w1 ln)).contains v = true then some v else _) = g
    cases g with
    | none => exact hfill
    | some g =>
      have hgone := hP.home (mdel (recallEvict g w1).mem.lines g) (recallEvict g w1).mem.fills (recallEvict g w1).mem.invBusy
        (recallEvict g w1).mem.sysBusy (recallEvict_stable hP g hfill)
      dsimp only
      split
      · refine countBehind_stable hP _ _ ?_
        split
        · exact hP.count _ _ (by decide) hgone
        · exact hgone
      · exact hgone

theorem lineRequest_stable (u : LineUser) (c : Nat) (use : LineUse) (ln v : Nat) (h : P w) :
    P (lineRequest u c use ln v w) := by
  unfold lineRequest
  dsimp only
  split
  · exact h
  · have hcount : P (if inHbm (128 * ln) = true then
        bump w (if (mget w.mem.lines ln).isSome = true then rMEM_SC_HIT else rMEM_SC_MISS) 1 else w) := by
      split
      · exact hP.count _ _ (by split <;> decide) h
      · exact h
    generalize (if inHbm (128 * ln) = true then _ else w) = w1 at hcount ⊢
    split
    · split
      · exact installLine_stable hP _ _ hcount
      · exact hcount
    · split
      · exact hP.home _ _ _ _ hcount
      · split
        · exact installLine_stable hP _ _ (makeRoom_stable hP _ _ _ hcount)
        · exact hP.home _ _ _ _ (makeRoom_stable hP _ _ _ hcount)

theorem touchLine_stable (k : Nat) (use : LineUse) (pa : Nat) (h : P w) : P (touchLine k use pa w) := by
  refine lineRequest_stable hP _ _ _ _ _ ?_
  unfold awaitHome
  split
  · exact hP.home _ _ _ _ h
  · split
    · exact hP.home _ _ _ _ h
    · exact h

/-- What a device read of main memory keeps, once the writes it is behind have landed. -/
theorem served_stable (k pa n : Nat) (h : P w) :
    P (forAll (linesOf pa n) (touchLine k .read) (forAll (granules pa n) recallRead w)) :=
  forAll_keeps (P := P) (fun _ _ hs => touchLine_stable hP _ _ _ hs) _ _
    (forAll_keeps (P := P) (fun _ _ hs => hP.readBack _ hs) _ _ h)

end

/-- A property that a recall of hart copies keeps: it rests neither on harts nor on the count of recalls, and a line that
is written back keeps it. -/
structure RecallStable (P : World → Prop) : Prop where
  count : ∀ {w : World} (k : Nat), P w → P (bump w rCC_RECALL k)
  harts : ∀ {w : World} (x : Harts), P w → P { w with harts := x }
  back : ∀ {w : World} (x line : Nat) (s : Bool), P w → P (writeBack x line s w)

section
variable {P : World → Prop} {w : World} (hP : RecallStable P)
include hP

theorem recallRead_stable (line : Nat) (h : P w) : P (recallRead line w) := by
  unfold recallRead
  split
  · exact hP.count _ (hP.back _ _ _ h)
  · exact h

theorem recallCopies_stable (line : Nat) (h : P w) : P (recallCopies line w) := by
  have hback : P (match ownerOf w line with | some x => writeBack x line false w | none => w) := by
    split
    · exact hP.back _ _ _ h
    · exact h
  have hdrop := forAll_keeps (P := P) (f := fun h w =>
    updHart h (fun x => { x with sLines := x.sLines.filter (· ≠ line) }) (leaveL1 h line w))
    (fun _ v hs => hP.harts (w := v) _ hs) (holdersOf w line) _ hback
  unfold recallCopies
  dsimp only
  split
  · exact hdrop
  · exact hP.count _ hdrop

theorem recallWrite_stable (line : Nat) (h : P w) : P (recallWrite line w) :=
  hP.harts (w := recallCopies line w) _ (recallCopies_stable hP line h)

theorem recallRange_stable (pa n : Nat) (h : P w) : P (recallRange pa n w) :=
  forAll_keeps (P := P) (fun _ _ hs => recallWrite_stable hP _ hs) _ _ h

end

/-- Repeating an operation on the elements of a list keeps what each of these runs keeps. -/
theorem forAll_keeps_mem {α σ : Type} {P : σ → Prop} {f : α → σ → σ} {l : List α} (h : ∀ x ∈ l, ∀ s, P s → P (f x s))
    {s : σ} (hs : P s) : P (forAll l f s) := by
  induction l generalizing s with
  | nil => exact hs
  | cons x t ih => exact ih (fun y hy => h y (List.mem_cons_of_mem _ hy)) (h x List.mem_cons_self s hs)

/-- What giving back the bytes of a held granule keeps, a write that reservations hold off in part keeps. -/
theorem holdBack_keeps {P : World → Prop} {k pa n : Nat} {old w : World}
    (hP : ∀ g ∈ heldGranules old pa n, ∀ (v : World) (l : List LaterWrite), P v → P { v with mem := { v.mem with
      bytes := listSet v.mem.bytes (64 * g) (listAt old.mem.bytes (64 * g) 64), later := l } })
    (h : P w) : P (holdBack k pa n old w) := forAll_keeps_mem (P := P) (fun g hg v hv => hP g hg v _ hv) h

/-- A new table stands at a place that has been cleared (R247). -/
def placeTable (key a n : Nat) (w : World) : World :=
  let u := holdBack byWalk a n w (zeroRange a n (recallRange a n w))
  { u with mem := { u.mem with tables := mset u.mem.tables key a } }

/-- Creating a table names one that is there, or frame 0 where there is no room, or one that is placed first. -/
theorem makeTable_cases (ctx va level : Nat) (w : World) :
    (∃ a, (makeTable ctx va level w).2 = nameTable ctx va level a w) ∨
      ∃ a, tablePlace w = some a ∧
        (makeTable ctx va level w).2 = nameTable ctx va level a (placeTable (tableKey ctx level va) a (tableBytes level) w) := by
  unfold makeTable
  cases mget w.mem.tables (tableKey ctx level va) with
  | some a => exact .inl ⟨a, rfl⟩
  | none =>
    cases tablePlace w with
    | none => exact .inl ⟨0, rfl⟩
    | some a => exact .inr ⟨a, rfl, rfl⟩

/-- What every single table keeps, creating the tables above a leaf keeps. -/
theorem makeTables_keeps {P : World → Prop} {ctx va : Nat} {w : World} (hP : ∀ l w, P w → P (makeTable ctx va l w).2)
    (level : Nat) (h : P w) : P (makeTables ctx level va w).2 :=
  foldl_keeps (P := fun a : Bool × World => P a.2)
    (f := fun a l => (a.1 && (makeTable ctx va l a.2).1, (makeTable ctx va l a.2).2)) (fun a l hs => hP l a.2 hs) _ (true, w) h

/-! #### The front end and the objects -/

/-- The front end, the result register and the objects are as in `w0`. -/
def Front (w0 w : World) : Prop :=
  w.fe = w0.fe ∧ rg w rFE_CTX_RESULT = rg w0 rFE_CTX_RESULT ∧ w.mem.objs = w0.mem.objs ∧ w.mem.nextObj = w0.mem.nextObj

section
variable {w0 w : World}

theorem Front.refl (w : World) : Front w w := ⟨rfl, rfl, rfl, rfl⟩

theorem Front.trans {a b c : World} (h1 : Front a b) (h2 : Front b c) : Front a c := by
  obtain ⟨f1, r1, o1, n1⟩ := h1
  obtain ⟨f2, r2, o2, n2⟩ := h2
  exact ⟨f2.trans f1, r2.trans r1, o2.trans o1, n2.trans n1⟩

theorem rgSet_front {off : Nat} (v : Nat) (hoff : off ≠ rFE_CTX_RESULT) (h : Front w0 w) : Front w0 (rgSet w off v) :=
  ⟨h.1, (rg_rgSet_ne _ _ hoff.symm).trans h.2.1, h.2.2⟩

theorem bump_front {off : Nat} (k : Nat) (hoff : off ≠ rFE_CTX_RESULT) (h : Front w0 w) : Front w0 (bump w off k) :=
  rgSet_front _ hoff h

theorem writeBack_front (x line : Nat) (s : Bool) (h : Front w0 w) : Front w0 (writeBack x line s w) := by
  unfold writeBack
  split
  · exact h
  · cases s <;> exact h

theorem front_recallStable (w0 : World) : RecallStable (Front w0) where
  count _ h := bump_front _ (by decide) h
  harts _ h := h
  back := writeBack_front

theorem front_stable (w0 : World) : HomeStable (Front w0) where
  count _ _ hoff h := bump_front _ hoff h
  home _ _ _ _ h := h
  recalled line h := recallCopies_stable (front_recallStable w0) line h
  readBack line h := recallRead_stable (front_recallStable w0) line h

theorem recallWrite_front (line : Nat) (h : Front w0 w) : Front w0 (recallWrite line w) :=
  recallWrite_stable (front_recallStable w0) line h

theorem writeHome_front (k pa : Nat) (bs : List Byte) (h : Front w0 w) : Front w0 (writeHome k pa bs w) :=
  countHome_stable (front_stable w0) _ _ _
    (forAll_keeps (P := Front w0) (f := fun l => touchLine k (lineUse pa bs.length l) l)
      (fun _ _ hs => touchLine_stable (front_stable w0) _ _ _ hs) _ _
      (forAll_keeps (P := Front w0) (fun _ _ hs => recallWrite_front _ hs) _ _ h))

theorem landLater_front (p : Nat → Bool) (h : Front w0 w) : Front w0 (landLater p w) := by
  unfold landLater
  dsimp only
  split
  · exact h
  · refine forAll_keeps (P := Front w0) (fun _ _ hs => ?_) _ _ ?_
    · split <;> exact writeHome_front _ _ _ hs
    · exact h

theorem writeMain_front (k pa : Nat) (bs : List Byte) (h : Front w0 w) : Front w0 (writeMain k pa bs w) := by
  unfold writeMain
  dsimp only
  have ha : Front w0 (awaitLater pa bs.length w) := landLater_front _ h
  split
  · refine forAll_keeps (P := Front w0) (fun g s hs => ?_) _ _ ha
    split
    · exact hs
    · exact writeHome_front _ _ _ hs
  · exact writeHome_front _ _ _ ha

/-- A device read of main memory. -/
theorem devRead_front {pa : Nat} (hpa : isMain pa = true) (k n : Nat) (h : Front w0 w) : Front w0 (devRead k pa n w).2 := by
  unfold devRead
  rw [if_pos hpa]
  exact countHome_stable (front_stable w0) _ _ _ (served_stable (front_stable w0) _ _ _ (landLater_front _ h))

/-- A flit sent is counted at its link. -/
theorem flitsDue_front (l : Nat) (h : Front w0 w) : Front w0 (flitsDue l w) := by
  refine forAll_keeps (P := Front w0) (fun _ s hs => ?_) _ _ h
  have htx : rD2D_FLITS_TX l ≠ rFE_CTX_RESULT ∧ rDBG_D2D_TX l ≠ rFE_CTX_RESULT := by
    simp only [rD2D_FLITS_TX, rDBG_D2D_TX, rFE_CTX_RESULT]; omega
  exact bump_front (w := bump (updFlits _ s) _ _) _ htx.2 (bump_front (w := updFlits _ s) _ htx.1 hs)

theorem pumpOut_front (l ch : Nat) (h : Front w0 w) : Front w0 (pumpOut l ch w) := by
  refine forAll_keeps (P := Front w0) (fun _ s hs => ?_) _ _ h
  split
  · split
    · exact flitsDue_front (w := updFlits _ (updFlits _ s)) _ hs
    · exact hs
  · exact hs

theorem chipRequest_front (u : ChipUser) (op line : Nat) (data : List Byte) (h : Front w0 w) :
    Front w0 (chipRequest u op line data w) := by
  unfold chipRequest finovSendFrom finovPost
  dsimp only
  split
  · exact h
  · exact pumpOut_front _ _ h

theorem chipWrite_front (u : ChipUser) (pa : Nat) (bs : List Byte) (h : Front w0 w) : Front w0 (chipWrite u pa bs w) := by
  unfold chipWrite
  split
  · exact h
  · refine forAll_keeps (P := Front w0) (fun _ s hs => ?_) _ _ h
    unfold chipWriteLine
    dsimp only
    split <;> exact chipRequest_front _ _ _ _ hs

/-- A device write anywhere. -/
theorem devWrite_front (k pa : Nat) (bs : List Byte) (h : Front w0 w) : Front w0 (devWrite k pa bs w) := by
  unfold devWrite
  dsimp only
  split
  · exact h
  · split
    · exact writeMain_front _ _ _ h
    · split
      · exact h
      · split
        · exact chipWrite_front _ _ _ h
        · exact h

/-! #### Page tables -/

theorem placeTable_front (key a n : Nat) (h : Front w0 w) : Front w0 (placeTable key a n w) :=
  holdBack_keeps (P := Front w0) (w := zeroRange a n (recallRange a n w)) (fun _ _ _ _ hv => hv)
    (recallRange_stable (front_recallStable w0) _ _ h)

theorem writeTable_front (a : Nat) (bs : List Byte) (h : Front w0 w) : Front w0 (writeTable a bs w) := by
  unfold writeTable
  split
  · exact h
  · exact recallWrite_front _ h

theorem setPte_front (key word : Nat) (h : Front w0 w) : Front w0 (setPte key word w) := by
  unfold setPte
  dsimp only
  split
  · exact writeTable_front _ _ h
  · exact h

theorem nameTable_front (ctx va level addr : Nat) (h : Front w0 w) : Front w0 (nameTable ctx va level addr w) := by
  unfold nameTable
  split
  · exact h
  · exact setPte_front _ _ h

theorem makeTable_front (ctx va level : Nat) (h : Front w0 w) : Front w0 (makeTable ctx va level w).2 := by
  rcases makeTable_cases ctx va level w with ⟨a, e⟩ | ⟨a, _, e⟩ <;> rw [e]
  · exact nameTable_front _ _ _ _ h
  · exact nameTable_front _ _ _ _ (placeTable_front _ _ _ h)

theorem makeTables_front (ctx level va : Nat) (h : Front w0 w) : Front w0 (makeTables ctx level va w).2 :=
  makeTables_keeps (fun l _ hs => makeTable_front ctx va l hs) level h

theorem setLeaf_front (ctx level va word : Nat) (h : Front w0 w) : Front w0 (setLeaf ctx level va word w) :=
  setPte_front _ _ (makeTables_front _ _ _ h)

end

/-! #### Table entries -/

/-- A recall and a held write change no table entry. -/
theorem pte_recallStable (m : Map W64) : RecallStable (fun w => w.mem.pte = m) where
  count _ h := h
  harts _ h := h
  back x line s h := by
    unfold writeBack
    split
    · exact h
    · cases s <;> exact h

theorem writeTable_pte (a : Nat) (bs : List Byte) (w : World) : (writeTable a bs w).mem.pte = w.mem.pte := by
  unfold writeTable
  split
  · rfl
  · exact recallWrite_stable (pte_recallStable w.mem.pte) _ rfl

theorem setPte_pte (key word : Nat) (w : World) :
    (setPte key word w).mem.pte = if word = 0 then mdel w.mem.pte key else mset w.mem.pte key (BitVec.ofNat 64 word) := by
  unfold setPte
  dsimp only
  split
  · exact writeTable_pte _ _ _
  · rfl

theorem placeTable_pte (key a n : Nat) (w : World) : (placeTable key a n w).mem.pte = w.mem.pte :=
  holdBack_keeps (P := fun v => v.mem.pte = w.mem.pte) (w := zeroRange a n (recallRange a n w)) (fun _ _ _ _ hv => hv)
    (recallRange_stable (pte_recallStable w.mem.pte) _ _ rfl)

/-- The root table of a context is named by no entry. -/
theorem makeRoot_pte (ctx va : Nat) (w : World) : (makeTable ctx va 4 w).2.mem.pte = w.mem.pte := by
  rcases makeTable_cases ctx va 4 w with ⟨a, e⟩ | ⟨a, _, e⟩ <;> rw [e]
  · rfl
  · exact placeTable_pte _ _ _ w

/-- The entry of a key in the table map. -/
def EntryIs (key : Nat) (e : Option W64) (w : World) : Prop := mget w.mem.pte key = e

section
variable {key : Nat} {e : Option W64} {w : World}

theorem setPte_entry_ne {k : Nat} (word : Nat) (hk : key ≠ k) (h : EntryIs key e w) : EntryIs key e (setPte k word w) := by
  unfold EntryIs
  rw [setPte_pte]
  split
  · rw [mget_mdel_ne _ hk]; exact h
  · rw [mget_mset_ne _ _ hk]; exact h

theorem setPte_entry_same {word : Nat} (hw : word ≠ 0) : EntryIs key (some (BitVec.ofNat 64 word)) (setPte key word w) := by
  unfold EntryIs
  rw [setPte_pte, if_neg hw, mget_mset_same]

theorem nameTable_entry {ctx va level addr : Nat} (hk : key ≠ pteKey ctx (level + 1) va) (h : EntryIs key e w) :
    EntryIs key e (nameTable ctx va level addr w) := by
  unfold nameTable
  split
  · exact h
  · exact setPte_entry_ne _ hk h

/-- Creating a table writes the entry above it alone. -/
theorem makeTable_entry {ctx va level : Nat} (hk : key ≠ pteKey ctx (level + 1) va) (h : EntryIs key e w) :
    EntryIs key e (makeTable ctx va level w).2 := by
  rcases makeTable_cases ctx va level w with ⟨a, eq⟩ | ⟨a, _, eq⟩ <;> rw [eq]
  · exact nameTable_entry hk h
  · exact nameTable_entry hk ((congrArg (mget · key) (placeTable_pte _ _ _ w)).trans h)

end

/-- The key of an entry tells its context and level. -/
theorem pteKey_div {va : Nat} (ctx level : Nat) (hva : va < 2 ^ 57) : pteKey ctx level va / 2 ^ 41 = ctx * 8 + level := by
  have hlow : va >>> levelShift level < 2 ^ 41 := by
    have hs : 16 ≤ levelShift level := by unfold levelShift; split <;> omega
    rw [Nat.shiftRight_eq_div_pow]
    have := Nat.div_le_div_left (Nat.pow_le_pow_right (by omega : 0 < 2) hs) (Nat.two_pow_pos 16) (a := va)
    omega
  unfold pteKey
  generalize va >>> levelShift level = x at *
  omega

/-- A leaf of 64 KiB stays as it is while tables are created. -/
theorem makeTables_leaf {ctx va : Nat} {key : Nat} {e : Option W64} {w : World} (hva : va < 2 ^ 57)
    (hk : key / 2 ^ 41 = ctx * 8) (h : EntryIs key e w) : EntryIs key e (makeTables ctx 0 va w).2 :=
  makeTables_keeps (P := EntryIs key e) (fun l _ hs => makeTable_entry (fun hc => by
    have := pteKey_div ctx (l + 1) hva
    rw [← hc, hk] at this
    omega) hs) 0 h

/-! #### Bytes (R247, R269) -/

/-- No hart holds a line modified. -/
def NoneModified (w : World) : Prop := ∀ p ∈ w.harts.hart, ∀ g, mget p.2.mLines g = none

theorem memoryAlone_noneModified {w : World} (h : memoryAlone w) : NoneModified w := fun p hp g => by
  obtain ⟨hown, _⟩ := h
  have hg := hown g
  rw [ownerOf, Option.map_eq_none_iff, List.find?_eq_none] at hg
  simpa using hg p hp

section
variable {w : World}

theorem ownerOf_noneModified (h : NoneModified w) (g : Nat) : ownerOf w g = none := by
  rw [ownerOf, Option.map_eq_none_iff, List.find?_eq_none]
  intro p hp
  simp [h p hp g]

theorem hartOf_noneModified (h : NoneModified w) (x g : Nat) : mget (hartOf w x).mLines g = none := by
  unfold hartOf mgetD
  cases hx : mget w.harts.hart x with
  | none => rfl
  | some y => exact h (x, y) (mem_of_mget hx) g

theorem mem_mset {α : Type} {m : Map α} {k : Nat} {v : α} {p : Nat × α} (h : p ∈ mset m k v) : p = (k, v) ∨ p ∈ m := by
  induction m with
  | nil => simpa [mset] using h
  | cons x t ih =>
    obtain ⟨a, b⟩ := x
    simp only [mset] at h
    split at h
    · exact List.mem_cons.1 h
    · split at h
      · rcases List.mem_cons.1 h with e | ht
        · exact .inl e
        · exact .inr (List.mem_cons_of_mem _ ht)
      · rcases List.mem_cons.1 h with e | ht
        · exact .inr (e ▸ List.mem_cons_self)
        · exact (ih ht).imp id (List.mem_cons_of_mem _)

/-- Dropping an S copy. -/
theorem dropShared_noneModified (x line : Nat) (h : NoneModified w) :
    NoneModified (updHart x (fun y => { y with sLines := y.sLines.filter (· ≠ line) }) (leaveL1 x line w)) := fun p hp g => by
  rcases mem_mset hp with rfl | hp
  · exact hartOf_noneModified (w := leaveL1 x line w) h x g
  · exact h p hp g

/-- Where no hart holds a line modified a recall changes no memory. -/
theorem recallCopies_alone (line : Nat) (h : NoneModified w) :
    NoneModified (recallCopies line w) ∧ (recallCopies line w).mem = w.mem := by
  have hdrop := forAll_keeps (P := fun v => NoneModified v ∧ v.mem = w.mem) (f := fun h w =>
    updHart h (fun x => { x with sLines := x.sLines.filter (· ≠ line) }) (leaveL1 h line w))
    (fun x v ⟨hv, hm⟩ => ⟨dropShared_noneModified x line hv, hm⟩) (holdersOf w line) w ⟨h, rfl⟩
  unfold recallCopies
  rw [ownerOf_noneModified h]
  dsimp only
  split <;> exact hdrop

theorem loseResv_mLines (g : Nat) (x : Hart) : (loseResv g x).mLines = x.mLines := by
  unfold loseResv
  split
  · split <;> rfl
  · rfl

theorem recallWrite_alone (line : Nat) (h : NoneModified w) :
    NoneModified (recallWrite line w) ∧ (recallWrite line w).mem = w.mem := by
  obtain ⟨hn, hm⟩ := recallCopies_alone line h
  refine ⟨fun p hp g => ?_, hm⟩
  obtain ⟨q, hq, rfl⟩ := List.mem_map.1 hp
  exact (congrArg (mget · g) (loseResv_mLines line q.2)).trans (hn q hq g)

theorem recallRead_alone (line : Nat) (h : NoneModified w) : recallRead line w = w := by
  simp [recallRead, ownerOf_noneModified h]

end

/-- No hart holds a line modified, no write is held, and the bytes of memory are `b`. -/
def Still (b : Map Byte) (w : World) : Prop := NoneModified w ∧ w.mem.bytes = b ∧ w.mem.later = []

theorem still_stable (b : Map Byte) : HomeStable (Still b) where
  count _ _ _ h := h
  home _ _ _ _ h := h
  recalled line h := by
    obtain ⟨hn, hb, hl⟩ := h
    obtain ⟨hn', hm⟩ := recallCopies_alone line hn
    exact ⟨hn', by rw [hm, hb], by rw [hm, hl]⟩
  readBack line h := by rwa [recallRead_alone line h.1]

/-- A read of memory that only the device uses answers its bytes and changes none. -/
theorem devRead_alone {w : World} {pa : Nat} (k n : Nat) (hpa : isMain pa = true) (h : memoryAlone w) :
    (devRead k pa n w).1 = listAt w.mem.bytes pa n ∧ (devRead k pa n w).2.mem.bytes = w.mem.bytes := by
  have hn := memoryAlone_noneModified h
  obtain ⟨_, hlater⟩ := h
  have hland : awaitLater pa n w = w := by simp [awaitLater, landLater, hlater]
  have hserved := served_stable (still_stable w.mem.bytes) k pa n ⟨hn, rfl, hlater⟩
  have hhost : inPcie pa = false := by
    simp only [isMain, inHbm, inHost, Bool.or_eq_true, Bool.and_eq_true, decide_eq_true_eq] at hpa
    simp only [inPcie, Bool.and_eq_false_iff, decide_eq_false_iff_not]
    omega
  unfold devRead
  rw [if_pos hpa]
  dsimp only
  rw [hland]
  generalize forAll (linesOf pa n) (touchLine k .read) (forAll (granules pa n) recallRead w) = u at hserved ⊢
  obtain ⟨_, hbytes, _⟩ := countHome_stable (still_stable w.mem.bytes) pa n false hserved
  obtain ⟨_, ub, ul⟩ := hserved
  exact ⟨by simp [behindHeld, ul, peek, hhost, ub], hbytes⟩

/-- Choosing the entries of a map by their keys. -/
theorem mget_filter_key {α : Type} (q : Nat → Bool) (m : Map α) (k : Nat) :
    mget (m.filter (fun p => q p.1)) k = if q k then mget m k else none := by
  induction m with
  | nil => simp [mget]
  | cons x t ih =>
    obtain ⟨a, b⟩ := x
    by_cases hk : k = a
    · subst hk
      by_cases hq : q k = true
      · simp [hq, mget]
      · simp [hq, ih]
    · by_cases hq : q a = true
      · simp [hq, mget, hk, ih]
      · simp [hq, mget, hk, ih]

/-- Byte `a` is `b` and lies outside the tables, and outside the carve-out of `room` bytes that they come from; no hart holds
a line modified. -/
def Away (a : Nat) (b : Byte) (room : Nat) (w : World) : Prop :=
  NoneModified w ∧ byteAt w.mem.bytes a = b ∧ w.mem.tableRoom = room ∧ ∀ t ∈ w.mem.tables, a < t.2 ∨ t.2 + 4096 ≤ a

section
variable {a room : Nat} {b : Byte} {w : World}

theorem recallWrite_away (line : Nat) (h : Away a b room w) : Away a b room (recallWrite line w) := by
  obtain ⟨hn, hrest⟩ := h
  obtain ⟨hn', hm⟩ := recallWrite_alone line hn
  exact ⟨hn', by rwa [hm]⟩

theorem length_natLe (n : Nat) : ∀ v, (natLe v n).length = n := by
  induction n with
  | zero => intro v; rfl
  | succ n ih => intro v; simp [natLe, ih]

theorem writeTable_away {x : Nat} {bs : List Byte} (hx : a < x ∨ x + bs.length ≤ a) (h : Away a b room w) :
    Away a b room (writeTable x bs w) := by
  unfold writeTable
  split
  · exact h
  · obtain ⟨hn, hb, hr, ht⟩ := recallWrite_away (x / 64) h
    refine ⟨hn, ?_, hr, ht⟩
    rw [byteAt_putBytes, if_neg (by omega), hb]

/-- An entry lies in one of the tables. -/
theorem entryAddr_in_table {key x : Nat} (h : entryAddr w key = some x) :
    ∃ t ∈ w.mem.tables, t.2 ≤ x ∧ x + 8 ≤ t.2 + 4096 := by
  unfold entryAddr at h
  obtain ⟨t, ht, rfl⟩ := Option.map_eq_some_iff.1 h
  refine ⟨_, mem_of_mget ht, by simp, ?_⟩
  have hbits : 2 ^ indexBits (key / 2 ^ 41 % 8) ≤ 2 ^ 9 :=
    Nat.pow_le_pow_right (by omega) (by unfold indexBits; split <;> omega)
  have := Nat.mod_lt key (Nat.two_pow_pos (indexBits (key / 2 ^ 41 % 8)))
  dsimp only
  omega

theorem setPte_away (key word : Nat) (h : Away a b room w) : Away a b room (setPte key word w) := by
  unfold setPte
  dsimp only
  split
  · rename_i x hx
    obtain ⟨t, ht, hlo, hhi⟩ := entryAddr_in_table hx
    obtain ⟨_, _, _, htab⟩ := id h
    refine writeTable_away ?_ h
    rw [length_natLe]
    have := htab t ht
    omega
  · exact h

theorem nameTable_away (ctx va level addr : Nat) (h : Away a b room w) : Away a b room (nameTable ctx va level addr w) := by
  unfold nameTable
  split
  · exact h
  · exact setPte_away _ _ h

/-- A new table stands at a multiple of 4 KiB within the carve-out. -/
theorem tablePlace_spec {x : Nat} (h : tablePlace w = some x) : ∃ i, x = 4096 * i ∧ x + 4096 ≤ w.mem.tableRoom := by
  unfold tablePlace at h
  obtain ⟨i, _, hi⟩ := List.exists_of_findSome?_eq_some h
  simp only [Option.ite_none_right_eq_some, Bool.and_eq_true, decide_eq_true_eq, Option.some.injEq] at hi
  obtain ⟨⟨hroom, _⟩, rfl⟩ := hi
  exact ⟨i, rfl, hroom⟩

theorem length_listAt (m : Map Byte) (y k : Nat) : (listAt m y k).length = k := by
  induction k generalizing y with
  | zero => rfl
  | succ k ih => simp [listAt, ih]

theorem placeTable_away {key x n : Nat} (hn : n ≤ 4096) (hroom : room ≤ a) (hx : tablePlace w = some x)
    (h : Away a b room w) : Away a b room (placeTable key x n w) := by
  obtain ⟨i, rfl, hfit⟩ := tablePlace_spec hx
  obtain ⟨_, _, hr, _⟩ := id h
  have hout : 4096 * i + 4096 ≤ a := by omega
  have hclear : Away a b room (zeroRange (4096 * i) n (recallRange (4096 * i) n w)) := by
    obtain ⟨un, ub, ur, ut⟩ := forAll_keeps (P := Away a b room) (f := recallWrite) (fun _ _ hs => recallWrite_away _ hs) _ w h
    refine ⟨un, ?_, ur, ut⟩
    have hmiss : inRange (4096 * i) n a = false := by simp [inRange]; omega
    have := mget_filter_key (fun k => !(inRange (4096 * i) n k)) (recallRange (4096 * i) n w).mem.bytes a
    simp only [hmiss, Bool.not_false, if_true] at this
    exact (congrArg (·.getD 0) this).trans ub
  have hback := holdBack_keeps (P := Away a b room) (k := byWalk) (pa := 4096 * i) (n := n) (old := w)
    (fun g hg v l ⟨vn, vb, vr, vt⟩ => by
      refine ⟨vn, ?_, vr, vt⟩
      simp only [heldGranules, List.mem_filter, Bool.and_eq_true, inRange, decide_eq_true_eq] at hg
      obtain ⟨_, ⟨_, hlt⟩, _⟩ := hg
      rw [byteAt_listSet, if_neg, vb]
      rw [length_listAt]
      omega) hclear
  obtain ⟨vn, vb, vr, vt⟩ := hback
  refine ⟨vn, vb, vr, fun t ht => ?_⟩
  rcases mem_mset ht with rfl | ht
  · exact .inr hout
  · exact vt t ht

theorem makeTable_away (ctx va level : Nat) (hroom : room ≤ a) (h : Away a b room w) :
    Away a b room (makeTable ctx va level w).2 := by
  have hsize : tableBytes level ≤ 4096 := by unfold tableBytes; split <;> omega
  rcases makeTable_cases ctx va level w with ⟨x, e⟩ | ⟨x, hx, e⟩ <;> rw [e]
  · exact nameTable_away _ _ _ _ h
  · exact nameTable_away _ _ _ _ (placeTable_away hsize hroom hx h)

theorem makeTables_away (ctx level va : Nat) (hroom : room ≤ a) (h : Away a b room w) :
    Away a b room (makeTables ctx level va w).2 :=
  makeTables_keeps (fun l _ hs => makeTable_away ctx va l hroom hs) level h

theorem setLeaf_away (ctx level va word : Nat) (hroom : room ≤ a) (h : Away a b room w) :
    Away a b room (setLeaf ctx level va word w) := setPte_away _ _ (makeTables_away _ _ _ hroom h)

end

/-- A byte that page-table work stays away from keeps its value. -/
theorem pageKept_of_away {w w' : World} {a : Nat}
    (h : w.mem.tableRoom ≤ a → Away a (byteAt w.mem.bytes a) w.mem.tableRoom w →
      Away a (byteAt w.mem.bytes a) w.mem.tableRoom w') : PageKept w w' a := fun halone hroom htab => by
  obtain ⟨_, hb, _⟩ := h hroom ⟨memoryAlone_noneModified halone, rfl, rfl, htab⟩
  exact hb

end Sys2Proof.Machine

/-! ### CREATE and MAP_IO (R335, R342, R252) -/

namespace Sys2Proof.Machine

theorem makeRoot_table {ctx va : Nat} {w : World} (h : tablePlace w ≠ none) :
    (mget (makeTable ctx va 4 w).2.mem.tables (tableKey ctx 4 va)).isSome = true := by
  unfold makeTable
  cases ht : mget w.mem.tables (tableKey ctx 4 va) with
  | some a => simp [nameTable, ht]
  | none =>
    cases hp : tablePlace w with
    | none => exact absurd hp h
    | some a => simp [nameTable]

theorem ctxCreate_creates {s : State} {cc : Bool} {n p : Nat} (hsel : ctxSelected s.w n) (hargs : argsAre s.w p 0 0)
    (hp : p < 16) (hlly : llynState s.w = 2) (hfree : ctxOf s.w n = none) (hroom : s.w.fe.ctxs.length < 4096)
    (hpart : partDefined s.w p = true) (hplace : tablePlace s.w ≠ none) :
    Completes (.ctxCreate cc) s (fun w' =>
      ctxOf w' n = some { part := p, cc := cc, st := .live, cause := 0, flags := 0, stamp := 0 } ∧
      fld w' rFE_CTX_RESULT 0 8 = 0 ∧
      residencyOf w' n = (if placesTaken s.w p < residentMax s.w p then .resident else .swapped) ∧
      OtherCtxsKept n s.w w' ∧ (mget w'.mem.tables (tableKey n 4 0)).isSome = true ∧ w'.mem.pte = s.w.mem.pte ∧
      w'.mem.objs = s.w.mem.objs ∧ ∀ a, PageKept s.w w' a) := by
  refine completes_ctxCmd (f := ctxCreate cc) rfl hsel ?_
  obtain ⟨a0, a1, a2⟩ := hargs
  have hbits : bits p 0 4 = p := by simp [bits]; omega
  have hfull : ¬ 4096 ≤ s.w.fe.ctxs.length := by omega
  have hplace' : (tablePlace s.w).isNone = false := by simpa [Option.isNone_eq_false_iff, Option.isSome_iff_ne_none] using hplace
  obtain ⟨hfe, _, hobjs, _⟩ := makeTable_front (w0 := s.w) n 0 4 (.refl s.w)
  have hpte := makeRoot_pte n 0 s.w
  have htable := makeRoot_table (ctx := n) (va := 0) hplace
  have haway (a : Nat) : PageKept s.w (makeTable n 0 4 s.w).2 a := pageKept_of_away (fun hr h => makeTable_away n 0 4 hr h)
  unfold ctxCreate
  simp only [a0, a1, a2, hbits, hlly, hfree, hfull, hpart, hplace', ne_eq, not_true_eq_false, decide_false, Bool.or_self,
    Bool.false_eq_true, if_false, Option.isSome_none, Bool.not_true, show ¬ (2 = 4) by decide]
  generalize (makeTable n 0 4 s.w).2 = u at *
  refine ⟨?_, ?_, ?_, fun m hm => ?_, htable, hpte, hobjs, haway⟩
  · exact mget_mset_same _ _ _
  · exact result_ctxResult _ _
  · exact mgetD_mset_same _ _ _ _
  · exact (mget_mset_ne _ _ hm).trans (by rw [hfe]; rfl)

/-! #### The leaves of a window -/

/-- The world after a list of pages has got its leaves, each page's word by `word`. -/
def withLeaves (n : Nat) (word : Nat → Nat) (vas : List Nat) (w : World) : World :=
  forAll vas (fun a w => setLeaf n 0 a (word a) w) w

/-- Each page's leaf is the word given, where the pages are distinct in their keys. -/
theorem withLeaves_entry {n : Nat} {word : Nat → Nat} {vas : List Nat} (hva : ∀ a ∈ vas, a < 2 ^ 57)
    (hkeys : ∀ a ∈ vas, ∀ b ∈ vas, pteKey n 0 a = pteKey n 0 b → a = b) {a : Nat} (ha : a ∈ vas) (hw : word a ≠ 0) (w : World) :
    EntryIs (pteKey n 0 a) (some (BitVec.ofNat 64 (word a))) (withLeaves n word vas w) := by
  have keep : ∀ (l : List Nat), l ⊆ vas → ∀ v, EntryIs (pteKey n 0 a) (some (BitVec.ofNat 64 (word a))) v →
      EntryIs (pteKey n 0 a) (some (BitVec.ofNat 64 (word a))) (withLeaves n word l v) := fun l hl v hv =>
    forAll_keeps_mem (P := EntryIs (pteKey n 0 a) (some (BitVec.ofNat 64 (word a)))) (fun b hb u hu => by
      by_cases hab : b = a
      · subst hab; exact setPte_entry_same hw
      · exact setPte_entry_ne _ (fun hc => hab (hkeys a ha b (hl hb) hc).symm)
          (makeTables_leaf (hva b (hl hb)) (pteKey_div n 0 (hva a ha)) hu)) hv
  suffices ∀ (l : List Nat), l ⊆ vas → a ∈ l → ∀ v,
      EntryIs (pteKey n 0 a) (some (BitVec.ofNat 64 (word a))) (withLeaves n word l v) from this vas (fun _ h => h) ha w
  intro l
  induction l with
  | nil => intro _ h; cases h
  | cons b t ih =>
    intro hl hmem v
    have ht : t ⊆ vas := fun x hx => hl (List.mem_cons_of_mem _ hx)
    rcases List.mem_cons.1 hmem with rfl | hin
    · exact keep t ht _ (setPte_entry_same hw)
    · exact ih ht hin _

theorem mem_pagesOf {va len a : Nat} : a ∈ pagesOf false va len ↔ ∃ i, i < len / 65536 ∧ a = va + 65536 * i := by
  simp only [pagesOf, Bool.false_eq_true, if_false, List.mem_map, List.mem_range]
  constructor
  · rintro ⟨i, hi, rfl⟩; exact ⟨i, hi, rfl⟩
  · rintro ⟨i, hi, rfl⟩; exact ⟨i, hi, rfl⟩

/-- Pages of 64 KiB of a range that starts at a page differ in their keys. -/
theorem pteKey_page_inj {n va i j : Nat} (hva : va % 65536 = 0)
    (h : pteKey n 0 (va + 65536 * i) = pteKey n 0 (va + 65536 * j)) : i = j := by
  simp only [pteKey, levelShift, Nat.shiftRight_eq_div_pow] at h
  omega

/-- An IO leaf reads back whole where its frame is a physical address. -/
theorem ioLeaf_lt {pa : Nat} (h : pa < 2 ^ 52) : leafWord 1 2 false 0 false pa < 2 ^ 64 := by
  simp [leafWord, b2n]; omega

theorem ioLeaf_pos (pa : Nat) : leafWord 1 2 false 0 false pa ≠ 0 := by
  unfold leafWord
  omega

/-- The tables for a list of pages: whether there was room for all, and the world with them. -/
def withTables (n : Nat) (vas : List Nat) (w : World) : Bool × World :=
  vas.foldl (fun (a : Bool × World) v => (a.1 && (makeTables n 0 v a.2).1, (makeTables n 0 v a.2).2)) (true, w)

/-- The object of an IO window. -/
def ioObj (w : World) (n va len : Nat) : Obj :=
  { ctx := n, part := ctxPart w n, va := va, len := len, kind := .io, host := false, page2m := false, attr := 2
    wp := false, drain := none, freeing := false, kept := [] }

/-- The world with the leaves of an IO window at `pa`. -/
def withWindow (n va pa len : Nat) (w : World) : World :=
  withLeaves n (fun a => leafWord 1 2 false 0 false (pa + a - va)) (pagesOf false va len)
    (withTables n (pagesOf false va len) w).2

/-- What creating tables and writing leaves both keep, mapping a window keeps. -/
theorem withWindow_keeps {P : World → Prop} {n va pa len : Nat} {w : World}
    (htab : ∀ v u, P u → P (makeTables n 0 v u).2) (hleaf : ∀ v x u, P u → P (setLeaf n 0 v x u)) (h : P w) :
    P (withWindow n va pa len w) :=
  forAll_keeps (P := P) (fun v u hu => hleaf v _ u hu) _ _
    (foldl_keeps (P := fun a : Bool × World => P a.2)
      (f := fun a v => (a.1 && (makeTables n 0 v a.2).1, (makeTables n 0 v a.2).2)) (fun a v ha => htab v a.2 ha) _ (true, w) h)

theorem ctxMapIo_eq {w : World} {n va pa len : Nat} (hargs : argsAre w va pa len)
    (hrange : rangeBad 65536 va len = false) (hpa : pa % 65536 = 0)
    (hwin : inPcie pa = true ∧ inPcie (pa + len - 1) = true ∨ inChip pa = true ∧ inChip (pa + len - 1) = true)
    (hover : overlaps w n va len = false) (hlive : ctxLive w n = true) (hroom : objRoom w = true)
    (hfit : ioTablesFit w n va len = true) :
    ctxMapIo n w = invalidate ((pagesOf false va len).map (pteKey n 0)) .mapIo (ctxBusy (.mapIo n) (ctxResult resOK
      (newObj (ioObj (withWindow n va pa len w) n va len) (withWindow n va pa len w)))) := by
  obtain ⟨a0, a1, a2⟩ := hargs
  have hwindow : ((inPcie pa && inPcie (pa + len - 1)) || (inChip pa && inChip (pa + len - 1))) = true := by simpa using hwin
  have hfit' : (withTables n (pagesOf false va len) w).1 = true := hfit
  have hbad : (rangeBad 65536 va len || decide (pa % 65536 ≠ 0) ||
      !((inPcie pa && inPcie (pa + len - 1)) || (inChip pa && inChip (pa + len - 1))) || overlaps w n va len) = false := by
    simp [hrange, hpa, hwindow, hover]
  have hfull : (!(objRoom w) || !((withTables n (pagesOf false va len) w).1)) = false := by simp [hroom, hfit']
  unfold ctxMapIo
  simp only [a0, a1, a2, hlive]
  rw [if_neg (by rw [hbad]; decide), if_neg (by decide)]
  exact if_neg (fun h => absurd (hfull.symm.trans h) (by decide))

theorem mapIo_maps {s : State} {n va pa len : Nat} (hsel : ctxSelected s.w n) (hargs : argsAre s.w va pa len)
    (hrange : rangeBad 65536 va len = false) (hpa : pa % 65536 = 0)
    (hwin : inPcie pa = true ∧ inPcie (pa + len - 1) = true ∨ inChip pa = true ∧ inChip (pa + len - 1) = true)
    (hover : overlaps s.w n va len = false) (hlive : ctxLive s.w n = true) (hroom : objRoom s.w = true)
    (hfit : ioTablesFit s.w n va len = true) :
    Completes .mapIo s (fun w' =>
      (∀ i, i < len / 65536 → pteOf w' n 0 (va + 65536 * i) = leafWord 1 2 false 0 false (pa + 65536 * i)) ∧
      (∃ o, objOf w' s.w.mem.nextObj = some o ∧ o.kind = .io ∧ o.ctx = n ∧ o.va = va ∧ o.len = len) ∧
      resultIs w' 0 1 ∧ (∃ r ∈ w'.mem.inval, r.cont = .mapIo) ∧ ∀ a, PageKept s.w w' a) := by
  refine completes_ctxCmd (f := ctxMapIo) rfl hsel ?_
  rw [ctxMapIo_eq hargs hrange hpa hwin hover hlive hroom hfit]
  have hframe : pa + len - 1 < 2 ^ 51 := by
    rcases hwin with ⟨_, h⟩ | ⟨_, h⟩
    · simp only [inPcie, Bool.and_eq_true, decide_eq_true_eq] at h; omega
    · simp only [inChip, Bool.and_eq_true, decide_eq_true_eq] at h; omega
  simp only [rangeBad, Bool.or_eq_false_iff, decide_eq_false_iff_not, ne_eq, Decidable.not_not] at hrange
  obtain ⟨⟨⟨hva, hlen⟩, hpos⟩, htop⟩ := hrange
  have hleaf (i : Nat) (hi : i < len / 65536) : EntryIs (pteKey n 0 (va + 65536 * i))
      (some (BitVec.ofNat 64 (leafWord 1 2 false 0 false (pa + 65536 * i)))) (withWindow n va pa len s.w) := by
    have hmem : va + 65536 * i ∈ pagesOf false va len := mem_pagesOf.2 ⟨i, hi, rfl⟩
    have h := withLeaves_entry (n := n) (word := fun a => leafWord 1 2 false 0 false (pa + a - va))
      (fun a ha => by obtain ⟨j, hj, rfl⟩ := mem_pagesOf.1 ha; omega)
      (fun a ha b hb hk => by
        obtain ⟨j, _, rfl⟩ := mem_pagesOf.1 ha
        obtain ⟨k, _, rfl⟩ := mem_pagesOf.1 hb
        rw [pteKey_page_inj hva hk])
      hmem (ioLeaf_pos _) (withTables n (pagesOf false va len) s.w).2
    have he : pa + (va + 65536 * i) - va = pa + 65536 * i := by omega
    simp only [he] at h
    exact h
  obtain ⟨_, _, _, hnext⟩ := withWindow_keeps (P := Front s.w) (va := va) (pa := pa) (len := len)
    (fun v _ hu => makeTables_front n 0 v hu) (fun v x _ hu => setLeaf_front n 0 v x hu) (.refl s.w)
  have haway (a : Nat) : PageKept s.w (withWindow n va pa len s.w) a := pageKept_of_away (fun hr h =>
    withWindow_keeps (P := Away a (byteAt s.w.mem.bytes a) s.w.mem.tableRoom)
      (fun v _ hu => makeTables_away n 0 v hr hu) (fun v x _ hu => setLeaf_away n 0 v x hr hu) h)
  generalize withWindow n va pa len s.w = u at *
  refine ⟨fun i hi => ?_, ⟨ioObj u n va len, ?_, rfl, rfl, rfl, rfl⟩, ⟨?_, ?_⟩, ?_, haway⟩
  · have hlt : leafWord 1 2 false 0 false (pa + 65536 * i) < 2 ^ 64 := ioLeaf_lt (by omega)
    have hget : mget u.mem.pte (pteKey n 0 (va + 65536 * i)) = _ := hleaf i hi
    show (mgetD u.mem.pte (pteKey n 0 (va + 65536 * i)) 0).toNat = _
    rw [mgetD, hget, Option.getD_some, BitVec.toNat_ofNat, Nat.mod_eq_of_lt hlt]
  · show mget (mset u.mem.objs u.mem.nextObj _) s.w.mem.nextObj = _
    rw [hnext, mget_mset_same]
  · exact (result_ctxBusy _ _).trans (result_ctxResult _ _)
  · exact busy_ctxBusy _ _
  · exact ⟨_, List.mem_append_right _ List.mem_cons_self, rfl⟩

end Sys2Proof.Machine

/-! ### MEMCMD (R254, R324, R342) -/

namespace Sys2Proof.Machine

/-- Contexts and subscriptions are as in `w0`, and so is the result; the command under way may have ended. -/
def CtxKept (w0 w : World) : Prop :=
  w.fe.ctxs = w0.fe.ctxs ∧ w.fe.subs = w0.fe.subs ∧ fld w rFE_CTX_RESULT 0 8 = fld w0 rFE_CTX_RESULT 0 8 ∧
    ((w.fe.ctxRun = w0.fe.ctxRun ∧ fld w rFE_CTX_RESULT 63 1 = fld w0 rFE_CTX_RESULT 63 1) ∨
      (w.fe.ctxRun = none ∧ fld w rFE_CTX_RESULT 63 1 = 0))

section
variable {w0 w : World}

theorem CtxKept.refl (w : World) : CtxKept w w := ⟨rfl, rfl, rfl, .inl ⟨rfl, rfl⟩⟩

/-- It rests on these parts of the front end and on the result register alone. -/
theorem CtxKept.congr {u : World} (h : CtxKept w0 w) (hctxs : u.fe.ctxs = w.fe.ctxs) (hsubs : u.fe.subs = w.fe.subs)
    (hrun : u.fe.ctxRun = w.fe.ctxRun) (hres : rg u rFE_CTX_RESULT = rg w rFE_CTX_RESULT) : CtxKept w0 u := by
  obtain ⟨hc, hs, hr, hor⟩ := h
  refine ⟨hctxs.trans hc, hsubs.trans hs, (fld_congr hres 0 8).trans hr, ?_⟩
  rwa [hrun, fld_congr hres]

/-- What leaves the front end alone keeps all of it. -/
theorem CtxKept.front {u : World} (h : CtxKept w0 w) (hf : Front w u) : CtxKept w0 u := by
  obtain ⟨hfe, hres, _⟩ := hf
  exact h.congr (by rw [hfe]) (by rw [hfe]) (by rw [hfe]) hres

/-- Registers do not rest on the front end. -/
theorem rg_withFe (w : World) (f : Fe) (o : Nat) : rg { w with fe := f } o = rg w o := rfl

/-- What FE_CTX_RESULT shows once the memory command of FE_CTX_CMD is done: its status, and busy no more. -/
theorem fld_memDone (st : Nat) (w : World) (lo n : Nat) : fld (memDone none st w) rFE_CTX_RESULT lo n =
    fld (fldSet (fldSet w rFE_CTX_RESULT 40 8 st) rFE_CTX_RESULT 63 1 0) rFE_CTX_RESULT lo n :=
  fld_congr (rg_withFe (fldSet (fldSet w rFE_CTX_RESULT 40 8 st) rFE_CTX_RESULT 63 1 0) _ _) lo n

theorem result_memDone (st : Nat) (w : World) : fld (memDone none st w) rFE_CTX_RESULT 0 8 = fld w rFE_CTX_RESULT 0 8 := by
  rw [fld_memDone, fld_fldSet_other _ _ _ _ _ _ _ (by omega) (by omega), fld_fldSet_other _ _ _ _ _ _ _ (by omega) (by omega)]

theorem status_memDone (st : Nat) (w : World) : fld (memDone none st w) rFE_CTX_RESULT 40 8 = st % 2 ^ 8 := by
  rw [fld_memDone, fld_fldSet_other _ _ _ _ _ _ _ (by omega) (by omega), fld_fldSet_same _ _ _ _ _ (by omega)]

theorem busy_memDone (st : Nat) (w : World) : fld (memDone none st w) rFE_CTX_RESULT 63 1 = 0 :=
  (fld_memDone st w 63 1).trans (fld_fldSet_same _ _ _ _ _ (by omega))

@[simp] theorem memDone_mem (k : Option Nat) (st : Nat) (w : World) : (memDone k st w).mem = w.mem := by cases k <;> rfl

/-- The end of a memory command, of an entry or of FE_CTX_CMD. -/
theorem memDone_kept (k : Option Nat) (st : Nat) (h : CtxKept w0 w) : CtxKept w0 (memDone k st w) := by
  cases k with
  | some k => exact h.congr rfl rfl rfl rfl
  | none =>
    obtain ⟨hc, hs, hr, _⟩ := h
    exact ⟨hc, hs, (result_memDone st w).trans hr, .inr ⟨rfl, busy_memDone st w⟩⟩

theorem updObj_kept (id : Nat) (f : Obj → Obj) (h : CtxKept w0 w) : CtxKept w0 (updObj id f w) := h.congr rfl rfl rfl rfl

theorem drainObj_kept (id : Nat) (h : CtxKept w0 w) : CtxKept w0 (drainObj id w) := by
  unfold drainObj
  split
  · exact h
  · exact updObj_kept _ _ (forAll_keeps (P := CtxKept w0) (fun _ _ hs => updObj_kept _ _ hs) _ _ h)

/-! #### Models (R257, R258) -/

theorem invalidate_front (keys : List Nat) (cont : InvCont) (h : Front w0 w) : Front w0 (invalidate keys cont w) := h

theorem writeModelLeaves_front (k lo n : Nat) (o : Obj) (h : Front w0 w) : Front w0 (writeModelLeaves k lo n o w).2 := by
  unfold writeModelLeaves
  split
  · exact h
  · dsimp only
    generalize (if o.page2m = true then 32 else 1) = step
    refine foldl_keeps (P := fun a : List Nat × World => Front w0 a.2) (fun a i hs => ?_) _ _ h
    split
    · exact setLeaf_front _ _ _ _ hs
    · exact hs

theorem switchLeaves_front (k lo n : Nat) (cont : InvCont) (h : Front w0 w) : Front w0 (switchLeaves k lo n cont w) := by
  unfold switchLeaves
  refine invalidate_front _ _ (foldl_keeps (P := fun a : List Nat × World => Front w0 a.2) (fun a p hs => ?_) _ _ h)
  exact writeModelLeaves_front k lo n p.2 hs

theorem evict_front (k : Nat) (h : Front w0 w) : Front w0 (evict k w) := by
  unfold evict
  dsimp only
  split
  · exact switchLeaves_front _ _ _ _ (w := updModel _ _ w) h
  · exact h

theorem memHot_ne (p : Nat) : rMEM_HOT p ≠ rFE_CTX_RESULT := by simp only [rMEM_HOT, rFE_CTX_RESULT]; omega

theorem setPool_front (host : Bool) (part : Nat) (p : Pool) (h : Front w0 w) : Front w0 (setPool host part p w) := by
  unfold setPool
  split <;> exact h

theorem load_front (k : Nat) (m : Model) (h : Front w0 w) : Front w0 (load k m w) := by
  unfold load
  dsimp only
  split
  · exact h
  · exact rgSet_front _ (memHot_ne _) (setPool_front _ _ _ h)

theorem promote_front (k : Nat) (h : Front w0 w) : Front w0 (promote k w) := by
  unfold promote
  split
  · exact h
  · split
    · exact h
    · split
      · exact bump_front (w := updModel _ _ w) _ (by decide) h
      · exact load_front _ _ h
      · exact forAll_keeps (P := Front w0) (fun _ _ hs => evict_front _ hs) _ _ h

theorem askHot_front (k : Nat) (h : Front w0 w) : Front w0 (askHot k w) := by
  unfold askHot
  split
  · exact h
  · split
    · split
      · exact h
      · exact promote_front _ h
    · exact h
    · exact h

/-! #### The commands -/

/-- A job, where it does not wait, keeps contexts and result. -/
def JobKeeps (job : MemJob → World → Option World) : Prop :=
  ∀ (j : MemJob) (w0 w w' : World), CtxKept w0 w → job j w = some w' → CtxKept w0 w'

theorem jobDone_kept {j : MemJob} {st : Nat} {w' : World} (h : CtxKept w0 w) (he : jobDone j st w = some w') : CtxKept w0 w' := by
  cases he
  exact memDone_kept _ _ h

theorem mapTake_kept {r r' : MapRun} {u : World} (h : CtxKept w0 w) (he : mapTake r w = some (r', u)) : CtxKept w0 u := by
  unfold mapTake at he
  dsimp only at he
  split at he
  · cases he
  · split at he
    · cases he
    · cases he
      exact h.front (setPool_front _ _ _ (.refl w))

theorem mapJob_kept : JobKeeps mapJob := fun j w0 w w' h he => by
  unfold mapJob at he
  dsimp only at he
  split at he
  · exact jobDone_kept h he
  · split at he
    · rename_i htake
      cases he
      exact (mapTake_kept h htake).congr rfl rfl rfl rfl
    · split at he
      · exact jobDone_kept h he
      · cases he
        exact h.congr rfl rfl rfl rfl

theorem unmapJob_kept : JobKeeps unmapJob := fun j w0 w w' h he => by
  unfold unmapJob at he
  split at he
  · exact jobDone_kept h he
  · split at he
    · split at he
      · exact jobDone_kept (drainObj_kept _ h) he
      · exact jobDone_kept h he
    · exact jobDone_kept h he

theorem aliasJob_kept : JobKeeps aliasJob := fun j w0 w w' h he => by
  unfold aliasJob at he
  cases hsrc : objFirst w j.ctx j.src with
  | none =>
    simp only [hsrc] at he
    split at he
    · exact jobDone_kept h he
    · split at he <;> exact jobDone_kept h he
  | some p =>
    obtain ⟨id, o⟩ := p
    simp only [hsrc] at he
    split at he
    · exact jobDone_kept h he
    · split at he
      · exact jobDone_kept h he
      · split at he
        · cases he
        · cases he
          exact (forAll_keeps (P := CtxKept w0) (f := fun (p : Nat × Option Nat) w => setLeaf j.ctx 0 p.1 (p.2.getD 0) w)
            (fun p v hv => hv.front (setLeaf_front _ _ _ _ (.refl v))) _ _ h).congr rfl rfl rfl rfl

theorem mapModel_kept : JobKeeps mapModel := fun j w0 w w' h he => by
  unfold mapModel at he
  split at he
  · cases he
  · cases he
    exact (h.front (writeModelLeaves_front _ _ _ _ (.refl w))).congr rfl rfl rfl rfl

theorem modelRegJob_kept : JobKeeps modelRegJob := fun j w0 w w' h he => by
  unfold modelRegJob at he
  dsimp only at he
  cases hm : modelOf w j.key with
  | some m =>
    simp only [hm] at he
    split at he
    · exact jobDone_kept h he
    · split at he
      · exact jobDone_kept h he
      · split at he
        · exact jobDone_kept h he
        · split at he
          · cases he
          · exact mapModel_kept j w0 w w' h he
  | none =>
    cases hsrc : objFirst w j.ctx j.src with
    | none =>
      simp only [hm, hsrc] at he
      split at he
      · exact jobDone_kept h he
      · split at he
        · exact jobDone_kept h he
        · split at he
          · cases he
          · exact jobDone_kept h he
    | some p =>
      simp only [hm, hsrc] at he
      split at he
      · exact jobDone_kept h he
      · split at he
        · exact jobDone_kept h he
        · split at he
          · cases he
          · refine mapModel_kept j w0 _ w' ?_ he
            exact h.congr rfl rfl rfl rfl

theorem modelDeregJob_kept : JobKeeps modelDeregJob := fun j w0 w w' h he => by
  unfold modelDeregJob at he
  split at he
  · exact jobDone_kept h he
  · split at he
    · split at he
      · exact jobDone_kept (drainObj_kept _ h) he
      · exact jobDone_kept h he
    · exact jobDone_kept h he

/-- A command on a registered model keeps what its effect keeps. -/
theorem modelJob_kept {f : Nat → World → Option World} {j : MemJob} {w' : World}
    (hf : ∀ u, f j.key w = some u → CtxKept w0 u) (h : CtxKept w0 w) (he : modelJob f j w = some w') : CtxKept w0 w' := by
  unfold modelJob at he
  split at he
  · exact jobDone_kept h he
  · exact hf w' he

theorem updModel_kept (k : Nat) (f : Model → Model) (h : CtxKept w0 w) : CtxKept w0 (updModel k f w) := h.congr rfl rfl rfl rfl

theorem modelPinJob_kept : JobKeeps modelPinJob := fun j w0 w w' h he => by
  refine modelJob_kept (fun u hu => ?_) h he
  exact jobDone_kept (updModel_kept _ _ h) hu

theorem modelUnpinJob_kept : JobKeeps modelUnpinJob := fun j w0 w w' h he => by
  refine modelJob_kept (fun u hu => ?_) h he
  exact jobDone_kept (updModel_kept _ _ h) hu

theorem modelHotJob_kept : JobKeeps modelHotJob := fun j w0 w w' h he => by
  refine modelJob_kept (fun u hu => ?_) h he
  split at hu
  · split at hu
    · exact jobDone_kept h hu
    · cases hu
      exact (updModel_kept _ _ h).front (askHot_front _ (.refl _))
  · cases hu

theorem memOp_kept (op : Nat) : JobKeeps (memOp op) := by
  unfold memOp
  split
  · exact mapJob_kept
  · exact unmapJob_kept
  · exact aliasJob_kept
  · exact modelRegJob_kept
  · exact modelDeregJob_kept
  · exact modelPinJob_kept
  · exact modelUnpinJob_kept
  · exact modelHotJob_kept

/-- A memory command of FE_CTX_CMD, whatever its bytes, changes no context but by its stamp. -/
theorem memDirect_kept (ctx part stamp : Nat) (cmd : List Byte) (h : CtxKept w0 w) : CtxKept w0 (memDirect ctx part stamp cmd w) := by
  unfold memDirect
  dsimp only
  split
  · exact memDone_kept _ _ h
  · cases he : memOp (le cmd 1 1) { work := none, ctx := ctx, part := part, stamp := stamp, nowait := true, cmd := cmd } w with
    | none => exact memDone_kept none stTimeout h
    | some u => exact memOp_kept _ _ w0 w u h he

end

theorem memcmd_stamps {s : State} {n pa : Nat} {c : Ctx} (hsel : ctxSelected s.w n) (hargs : argsAre s.w pa 0 0)
    (halign : pa % 64 = 0) (hmain : isMain pa = true) (hc : ctxOf s.w n = some c) (hlive : c.st = .live) :
    Completes .memcmd s (fun w' =>
      ctxOf w' n = some { c with stamp := c.stamp + 1 } ∧ fld w' rFE_CTX_RESULT 0 8 = 0 ∧
      (memoryAlone s.w → byteAt s.w.mem.bytes pa ≠ 1 →
        fld w' rFE_CTX_RESULT 40 8 = 9 ∧ fld w' rFE_CTX_RESULT 63 1 = 0 ∧ w'.fe.ctxRun = none ∧
        w'.mem.bytes = s.w.mem.bytes ∧ w'.mem.objs = s.w.mem.objs)) := by
  refine completes_ctxCmd (f := ctxMemcmd) rfl hsel ?_
  obtain ⟨a0, a1, a2⟩ := hargs
  let u := ctxBusy (.memcmd n) (ctxResult resOK (setCtx s.w n (fun c => { c with stamp := c.stamp + 1 })))
  have hstep : ctxMemcmd n s.w =
      memDirect n c.part (c.stamp + 1) (devRead byControl pa 64 u).1 (devRead byControl pa 64 u).2 := by
    simp [ctxMemcmd, a0, a1, a2, halign, hmain, hc, hlive, u]
  rw [hstep]
  have hctx : ctxOf u n = some { c with stamp := c.stamp + 1 } := by
    show ctxOf (setCtx s.w n (fun c => { c with stamp := c.stamp + 1 })) n = _
    rw [ctxOf_setCtx_same, hc]
    rfl
  have hres : fld u rFE_CTX_RESULT 0 8 = 0 := (result_ctxBusy _ _).trans (result_ctxResult _ _)
  have hread : Front u (devRead byControl pa 64 u).2 := devRead_front hmain _ _ (.refl u)
  obtain ⟨kctxs, _, kres, _⟩ :=
    memDirect_kept n c.part (c.stamp + 1) (devRead byControl pa 64 u).1 ((CtxKept.refl u).front hread)
  refine ⟨(ctxOf_congr kctxs n).trans hctx, kres.trans hres, fun halone hversion => ?_⟩
  obtain ⟨hbytes, hmem⟩ := devRead_alone (w := u) byControl 64 hmain halone
  obtain ⟨_, _, hobjs, _⟩ := hread
  have hle : le (devRead byControl pa 64 u).1 0 1 = (byteAt s.w.mem.bytes pa).toNat := by
    rw [hbytes]; simp [le, listAt, leNat]; rfl
  generalize devRead byControl pa 64 u = r at *
  have hbad : jobBad { work := none, ctx := n, part := c.part, stamp := c.stamp + 1, nowait := true, cmd := r.1 } = true := by
    have : (byteAt s.w.mem.bytes pa).toNat ≠ 1 := fun h => hversion (BitVec.eq_of_toNat_eq h)
    simp [jobBad, hle, this]
  have hdone : memDirect n c.part (c.stamp + 1) r.1 r.2 = memDone none stVersion r.2 := by simp [memDirect, hbad]
  rw [hdone]
  exact ⟨status_memDone _ _, busy_memDone _ _, rfl, hmem, hobjs⟩

end Sys2Proof.Machine

/-! ### The end of a context (R337) -/

namespace Sys2Proof.Machine

/-- Each object by its number and its context. -/
def objOwners (w : World) : List (Nat × Nat) := w.mem.objs.map (fun p => (p.1, p.2.ctx))

/-- Contexts and result are kept; objects may have ended, and none is new or has another context. -/
def ObjEnds (w0 w : World) : Prop := CtxKept w0 w ∧ (objOwners w).Sublist (objOwners w0)

section
variable {w0 w : World}

theorem CtxKept.trans {u : World} (h1 : CtxKept w0 w) (h2 : CtxKept w u) : CtxKept w0 u := by
  obtain ⟨c1, s1, r1, h1⟩ := h1
  obtain ⟨c2, s2, r2, h2⟩ := h2
  refine ⟨c2.trans c1, s2.trans s1, r2.trans r1, ?_⟩
  rcases h2 with ⟨hr2, hb2⟩ | hdone
  · rwa [hr2, hb2]
  · exact .inr hdone

theorem ObjEnds.refl (w : World) : ObjEnds w w := ⟨.refl w, .refl _⟩

theorem ObjEnds.front {u : World} (h : ObjEnds w0 w) (hf : Front w u) : ObjEnds w0 u := by
  obtain ⟨hk, hs⟩ := h
  refine ⟨hk.front hf, ?_⟩
  obtain ⟨_, _, hobjs, _⟩ := hf
  rwa [objOwners, hobjs]

/-! #### Frames, Cassia slots and models -/

theorem freePages_front (host : Bool) (part : Nat) (big : Bool) (fs : List Nat) (h : Front w0 w) :
    Front w0 (freePages host part big fs w) := setPool_front _ _ _ h

theorem casFree_front (key : Nat) (h : Front w0 w) : Front w0 (casFree key w) := by
  unfold casFree
  split
  · exact h
  · dsimp only
    exact forAll_keeps (P := Front w0) (fun x s hs => freePages_front _ _ _ _ hs) _ _ h

theorem dropHot_front (k : Nat) (h : Front w0 w) : Front w0 (dropHot k w) := by
  unfold dropHot
  split
  · exact h
  · exact freePages_front _ _ _ _ (rgSet_front _ (memHot_ne _) h)

theorem promoteWaiting_front (part : Nat) (h : Front w0 w) : Front w0 (promoteWaiting part w) := by
  unfold promoteWaiting
  split
  · exact h
  · exact forAll_keeps (P := Front w0) (fun k s hs => promote_front k hs) _ _ h

theorem memDone_ends (k : Option Nat) (st : Nat) (h : ObjEnds w0 w) : ObjEnds w0 (memDone k st w) := by
  obtain ⟨hk, hs⟩ := h
  exact ⟨memDone_kept k st hk, by rwa [objOwners, memDone_mem]⟩

/-- A model without a mapping ends: its frames are free, and the commands that wait for it are done. -/
theorem endModel_ends (k : Nat) (h : ObjEnds w0 w) : ObjEnds w0 (endModel k w) := by
  unfold endModel
  split
  · split
    · exact h
    · rename_i m _
      have hdrop : ObjEnds w0 { dropHot k w with mem := { (dropHot k w).mem with models := mdel (dropHot k w).mem.models k } } :=
        h.front (dropHot_front k (.refl w))
      have hdone := forAll_keeps (P := ObjEnds w0) (f := fun x w => memDone x (freeVal w % 10) (freeUsed w))
        (fun x s hs => memDone_ends x _ (hs.front (u := freeUsed s) (.refl s))) m.waiters _ hdrop
      dsimp only
      split
      · exact hdone.front (promoteWaiting_front _ (.refl _))
      · exact hdone
  · exact h

/-! #### One object ends (R326) -/

theorem unmapObj_front (id : Nat) (h : Front w0 w) : Front w0 (unmapObj id w).2 := by
  unfold unmapObj
  split
  · exact h
  · exact forAll_keeps (P := Front w0) (fun k s hs => setPte_front k 0 hs) _ _ h

/-- No object has this number. -/
def ObjGone (id : Nat) (w : World) : Prop := ∀ p ∈ objOwners w, p.1 ≠ id

theorem ObjGone.ends {id : Nat} (hg : ObjGone id w0) (h : ObjEnds w0 w) : ObjGone id w := fun p hp => hg p (h.2.subset hp)

theorem ne_of_mget_none {α : Type} {m : Map α} {k : Nat} (h : mget m k = none) : ∀ p ∈ m, p.1 ≠ k := by
  induction m with
  | nil => simp
  | cons x t ih =>
    obtain ⟨a, b⟩ := x
    by_cases hk : k = a
    · simp [mget, hk] at h
    · simp only [mget, if_neg hk] at h
      intro p hp
      rcases List.mem_cons.mp hp with rfl | hp
      · exact fun e => hk e.symm
      · exact ih h p hp

theorem objGone_of_objOf {id : Nat} (h : objOf w id = none) : ObjGone id w := by
  intro p hp
  obtain ⟨q, hq, rfl⟩ := List.mem_map.mp hp
  exact ne_of_mget_none h q hq

/-- The objects with these numbers leave. -/
def dropObjs (gone : List Nat) (w : World) : World :=
  { w with mem := { w.mem with objs := w.mem.objs.filter (fun p => !(gone.contains p.1)) } }

theorem dropObjs_ends (gone : List Nat) (h : ObjEnds w0 w) : ObjEnds w0 (dropObjs gone w) := by
  obtain ⟨hk, hs⟩ := h
  exact ⟨hk.congr rfl rfl rfl rfl, (List.Sublist.map _ List.filter_sublist).trans hs⟩

theorem dropObjs_gone {gone : List Nat} {id : Nat} (h : id ∈ gone) (w : World) : ObjGone id (dropObjs gone w) := by
  intro p hp
  obtain ⟨q, hq, rfl⟩ := List.mem_map.mp hp
  have hq := (List.mem_filter.mp hq).2
  rintro rfl
  simp [h] at hq

/-- The freeing of one object ends it, and with it no more than others. -/
theorem finishFree_ends (id : Nat) (pages : List (Nat × Bool × Bool)) (slots : List Nat) (h : ObjEnds w0 w) :
    ObjEnds w0 (finishFree id pages slots w) ∧ ObjGone id (finishFree id pages slots w) := by
  unfold finishFree
  cases ho : objOf w id with
  | none => exact ⟨h, objGone_of_objOf ho⟩
  | some o =>
    dsimp only
    have hpages : Front w (forAll pages (fun p w => freePages p.2.2 o.part p.2.1 [p.1] w) w) :=
      forAll_keeps (P := Front w) (fun p s hs => freePages_front _ _ _ _ hs) _ _ (.refl w)
    generalize forAll pages (fun p w => freePages p.2.2 o.part p.2.1 [p.1] w) w = v at hpages
    have hslots := forAll_keeps (P := Front w) (f := casFree) (fun k s hs => casFree_front k hs) slots
      { v with sched := { v.sched with moved := v.sched.moved.map (fun m =>
        (m.1, m.2.filter (fun x => !((objKeys o).contains x.key)))) } } hpages
    generalize forAll slots casFree { v with sched := { v.sched with moved := v.sched.moved.map (fun m =>
        (m.1, m.2.filter (fun x => !((objKeys o).contains x.key)))) } } = v at hslots
    generalize hg : id :: (aliasesOf v id).map (·.1) = gone
    have hcount : Front w (bump v rFE_OBJ_FREED gone.length) := bump_front _ (by decide) hslots
    have hends := dropObjs_ends gone (h.front hcount)
    have hgone := dropObjs_gone (gone := gone) (id := id) (by rw [← hg]; exact List.mem_cons_self) (bump v rFE_OBJ_FREED gone.length)
    split
    · exact ⟨endModel_ends _ hends, hgone.ends (endModel_ends _ (.refl _))⟩
    · exact ⟨hends, hgone⟩

theorem endObject_ends (id : Nat) (h : ObjEnds w0 w) : ObjEnds w0 (endObject id w) ∧ ObjGone id (endObject id w) := by
  unfold endObject
  have hun := unmapObj_front id (.refl w)
  generalize unmapObj id w = r at hun
  exact finishFree_ends id _ _ (h.front (bump_front (w := tlbDrop r.1.1 r.2) _ (by decide) hun))

/-! #### A warm copy that another context maps is held by its model -/

theorem objOwners_updObj (f : Obj → Obj) (hf : ∀ o, (f o).ctx = o.ctx) (id : Nat) (w : World) :
    objOwners (updObj id f w) = objOwners w :=
  map_mupd_of_eq (fun p : Nat × Obj => (p.1, p.2.ctx)) f (fun k x => by simp [hf]) _ _

theorem updObj_ends (id : Nat) {f : Obj → Obj} (hf : ∀ o, (f o).ctx = o.ctx) (h : ObjEnds w0 w) :
    ObjEnds w0 (updObj id f w) := by
  obtain ⟨hk, hs⟩ := h
  exact ⟨updObj_kept id f hk, by rwa [objOwners_updObj f hf]⟩

theorem drainObj_ends (id : Nat) (h : ObjEnds w0 w) : ObjEnds w0 (drainObj id w) := by
  unfold drainObj
  split
  · exact h
  · refine updObj_ends id (fun o => ?_) (forAll_keeps (P := ObjEnds w0) (fun a s hs => updObj_ends a (fun o => ?_) hs) _ _ h)
    all_goals split <;> rfl

/-- An orphaned object ends what depends on it, and then leaves its context for one of its own number. -/
theorem orphan_cases (id : Nat) (w : World) : (orphan id w = w ∧ ObjGone id w) ∨
    ∃ u, ObjEnds w u ∧ orphan id w = updObj id (fun o => { o with ctx := 2 ^ 20 + id }) u := by
  unfold orphan
  cases ho : objOf w id with
  | none => exact .inl ⟨rfl, objGone_of_objOf ho⟩
  | some o =>
    refine .inr ⟨_, ?_, rfl⟩
    have hal := forAll_keeps (P := ObjEnds w) (f := endObject) (fun a s hs => (endObject_ends a hs).1)
      ((aliasesOf w id).map (·.1)) w (.refl w)
    generalize forAll ((aliasesOf w id).map (·.1)) endObject w = v at hal
    have hdr := drainObj_ends id hal
    refine ObjEnds.front (w := forAll _ _ (drainObj id v)) ?_ (.refl _)
    exact hdr.front (forAll_keeps (P := Front (drainObj id v)) (fun va s hs => setPte_front _ _ (setPte_front _ _ hs)) _ _ (.refl _))

/-! #### Every object of the context ends -/

/-- Numbers of objects are distinct, and those of context `n` are in `l`. -/
def OnlyOf (n : Nat) (l : List Nat) (w : World) : Prop :=
  ((objOwners w).map (·.1)).Nodup ∧ ∀ p ∈ objOwners w, p.2 = n → p.1 ∈ l

theorem OnlyOf.ends {n : Nat} {l : List Nat} (ho : OnlyOf n l w0) (h : ObjEnds w0 w) : OnlyOf n l w := by
  obtain ⟨hn, hl⟩ := ho
  obtain ⟨_, hs⟩ := h
  exact ⟨hn.sublist (hs.map _), fun p hp => hl p (hs.subset hp)⟩

theorem OnlyOf.gone {n id : Nat} {l : List Nat} (ho : OnlyOf n (id :: l) w) (hg : ObjGone id w) : OnlyOf n l w := by
  obtain ⟨hn, hl⟩ := ho
  refine ⟨hn, fun p hp hctx => ?_⟩
  rcases List.mem_cons.mp (hl p hp hctx) with e | hm
  · exact absurd e (hg p hp)
  · exact hm

/-- Of objects with distinct numbers, the changed one alone has that number. -/
theorem mem_mupd {α : Type} {m : Map α} {k : Nat} {f : α → α} (hn : (m.map (·.1)).Nodup) {p : Nat × α} (hp : p ∈ mupd m k f) :
    (p.1 = k ∧ ∃ x, p.2 = f x) ∨ (p.1 ≠ k ∧ p ∈ m) := by
  induction m with
  | nil => cases hp
  | cons x t ih =>
    obtain ⟨a, b⟩ := x
    obtain ⟨ha, ht⟩ := List.nodup_cons.mp hn
    by_cases hk : k = a
    · subst hk
      simp only [mupd, if_true] at hp
      rcases List.mem_cons.mp hp with rfl | hp
      · exact .inl ⟨rfl, b, rfl⟩
      · exact .inr ⟨fun e => ha (e ▸ List.mem_map_of_mem (f := (·.1)) hp), List.mem_cons_of_mem _ hp⟩
    · simp only [mupd, if_neg hk] at hp
      rcases List.mem_cons.mp hp with rfl | hp
      · exact .inr ⟨fun e => hk e.symm, List.mem_cons_self⟩
      · exact (ih ht hp).imp_right (fun ⟨hne, hm⟩ => ⟨hne, List.mem_cons_of_mem _ hm⟩)

theorem keys_objOwners (w : World) : (objOwners w).map (·.1) = w.mem.objs.map (·.1) := by simp [objOwners]

theorem keys_mupd {α : Type} (m : Map α) (k : Nat) (f : α → α) : (mupd m k f).map (·.1) = m.map (·.1) :=
  map_mupd_of_eq (·.1) f (fun _ _ => rfl) m k

/-- An object given to a context of its own number leaves the context. -/
theorem OnlyOf.orphaned {n id : Nat} {l : List Nat} (hlt : n < 2 ^ 20) (ho : OnlyOf n (id :: l) w) :
    OnlyOf n l (updObj id (fun o => { o with ctx := 2 ^ 20 + id }) w) := by
  obtain ⟨hn, hl⟩ := ho
  rw [keys_objOwners] at hn
  refine ⟨by rw [keys_objOwners]; exact (keys_mupd _ _ _).symm ▸ hn, fun p hp hctx => ?_⟩
  obtain ⟨q, hq, rfl⟩ := List.mem_map.mp hp
  rcases mem_mupd hn hq with ⟨_, x, hx⟩ | ⟨hne, hm⟩
  · rw [hx] at hctx
    dsimp only at hctx
    omega
  · exact (List.mem_cons.mp (hl _ (List.mem_map_of_mem hm) hctx)).resolve_left hne

/-- One object of the context ends, or becomes its model's. -/
def endOrOrphan (id : Nat) (w : World) : World :=
  if w.mem.models.any (fun m => m.2.warm = id) then orphan id w else endObject id w

theorem endOrOrphan_kept (id : Nat) (h : CtxKept w0 w) : CtxKept w0 (endOrOrphan id w) := by
  unfold endOrOrphan
  split
  · rcases orphan_cases id w with ⟨e, _⟩ | ⟨u, ⟨hu, _⟩, e⟩
    · rwa [e]
    · rw [e]; exact updObj_kept id _ (h.trans hu)
  · obtain ⟨⟨hk, _⟩, _⟩ := endObject_ends id (.refl w)
    exact h.trans hk

theorem endOrOrphan_only {n id : Nat} {l : List Nat} (hlt : n < 2 ^ 20) (ho : OnlyOf n (id :: l) w) :
    OnlyOf n l (endOrOrphan id w) := by
  unfold endOrOrphan
  split
  · rcases orphan_cases id w with ⟨e, hg⟩ | ⟨u, hu, e⟩
    · rw [e]; exact ho.gone hg
    · rw [e]; exact (ho.ends hu).orphaned hlt
  · obtain ⟨he, hg⟩ := endObject_ends id (.refl w)
    exact (ho.ends he).gone hg

theorem endEach_only {n : Nat} (hlt : n < 2 ^ 20) (l : List Nat) : ∀ {w : World}, OnlyOf n l w →
    OnlyOf n [] (forAll l endOrOrphan w) := by
  induction l with
  | nil => exact fun h => h
  | cons id l ih => exact fun h => ih (endOrOrphan_only hlt h)

/-- Step 5 (R337) ends every object of the context. -/
theorem endObjects_ends {n : Nat} (hlt : n < 2 ^ 20) (hn : ((objOwners w).map (·.1)).Nodup) :
    CtxKept w (endObjects n w) ∧ OnlyOf n [] (endObjects n w) := by
  unfold endObjects
  have hmaps := forAll_keeps (P := ObjEnds w) (f := endObject) (fun id s hs => (endObject_ends id hs).1)
    ((w.mem.objs.filter (fun o => o.2.ctx = n && isModel o.2)).map (·.1)) w (.refl w)
  dsimp only
  generalize forAll _ endObject w = v at hmaps
  obtain ⟨hk, hs⟩ := hmaps
  refine ⟨forAll_keeps (P := CtxKept w) (f := endOrOrphan) (fun id s h => endOrOrphan_kept id h) _ _ hk,
    endEach_only hlt _ ⟨hn.sublist (hs.map _), fun p hp hctx => ?_⟩⟩
  obtain ⟨q, hq, rfl⟩ := List.mem_map.mp hp
  have hrest : q ∈ v.mem.objs.filter (fun o => o.2.ctx = n) := List.mem_filter.mpr ⟨hq, decide_eq_true hctx⟩
  exact List.mem_map_of_mem (f := (·.1)) hrest

/-! #### Graphs, slots, waiting messages and tables -/

theorem endGraphsSlots_ends (n : Nat) (h : ObjEnds w0 w) : ObjEnds w0 (endGraphsSlots n w) := by
  unfold endGraphsSlots
  dsimp only
  generalize w.fe.graphs.map (fun g => (g.1, if g.2.ctx = n then { g.2 with destroyed := true } else g.2)) = graphs
  have hsweep : ObjEnds w0 (graphSweep { w with fe := { w.fe with graphs := graphs } }) := by
    obtain ⟨hk, hs⟩ := h
    exact ⟨hk.congr rfl rfl rfl rfl, hs⟩
  generalize graphSweep { w with fe := { w.fe with graphs := graphs } } = v at hsweep
  have hcas := forAll_keeps (P := Front v) (f := casFree) (fun k s hs => casFree_front k hs)
    ((v.cas.slots.filter (fun s => s.2.owner = n)).map (·.1)) v (.refl v)
  exact hsweep.front (Front.trans hcas (.refl _))

theorem ringDrop_ne (r : Nat) : ringDrop r ≠ rFE_CTX_RESULT := by
  unfold ringDrop
  split
  · simp only [rFE_HN_DROP, rFE_CTX_RESULT]; omega
  · simp only [rCC_NQ_DROP, rFE_CTX_RESULT]; omega

theorem bumpSat_front {off : Nat} (lo : Nat) (hoff : off ≠ rFE_CTX_RESULT) (h : Front w0 w) : Front w0 (bumpSat w off lo) := by
  unfold bumpSat
  dsimp only
  split
  · exact h
  · exact rgSet_front _ hoff h

theorem ringWrite_front (r a b : Nat) (h : Front w0 w) : Front w0 (ringWrite r a b w) := by
  unfold ringWrite ringStore
  dsimp only
  split
  · exact h
  · exact devWrite_front _ _ _ h

theorem flushWaiting_front (n : Nat) (h : Front w0 w) : Front w0 (flushWaiting n w) := by
  unfold flushWaiting
  refine forAll_keeps (P := Front w0) (fun m s hs => ?_) _ _ h
  have hs : Front w0 (updIrq (fun i => { i with waiting := i.waiting.erase m }) s) := hs
  dsimp only
  split
  · exact ringWrite_front _ _ _ hs
  · exact bumpSat_front _ (ringDrop_ne _) hs

/-- No table entry of the context is left. -/
theorem endTables_pte (n l va : Nat) (hl : l < 8) (hva : va < 2 ^ 57) (w : World) : pteOf (endTables n w) n l va = 0 := by
  have hkey : pteKey n l va / 2 ^ 44 = n := by
    have := pteKey_div n l hva
    omega
  have hnone : mget (endTables n w).mem.pte (pteKey n l va) = none := by
    refine (mget_filter_key (fun k => decide (k / 2 ^ 44 ≠ n)) w.mem.pte _).trans ?_
    rw [hkey]
    simp
  rw [pteOf, mgetD, hnone]
  rfl

/-! #### The whole of it -/

/-- Step 3 (R337): the subscriptions of the context end. -/
def dropSubs (n : Nat) (w : World) : World := { w with fe := { w.fe with subs := w.fe.subs.filter (fun s => s.2.ctx ≠ n) } }

theorem rg_endTables (n : Nat) (w : World) (o : Nat) : rg (endTables n w) o = rg w o := rfl

/-- Steps 3 to 7 of R337, before the result register tells of them. -/
def endCtx (n : Nat) (w : World) : World :=
  endTables n (flushWaiting n (endObjects n (endGraphsSlots n (dropSubs n w))))

theorem flushEnds_kept {n : Nat} (hlt : n < 2 ^ 20) (hn : (w.mem.objs.map (·.1)).Nodup) :
    CtxKept w (flushWaiting n (endObjects n (endGraphsSlots n w))) ∧
      ∀ p ∈ (flushWaiting n (endObjects n (endGraphsSlots n w))).mem.objs, p.2.ctx ≠ n := by
  obtain ⟨hk, hs⟩ := endGraphsSlots_ends n (.refl w)
  rw [← keys_objOwners] at hn
  obtain ⟨hk', _, honly⟩ := endObjects_ends hlt (hn.sublist (hs.map _))
  have hflush := flushWaiting_front n (.refl (endObjects n (endGraphsSlots n w)))
  refine ⟨(hk.trans hk').front hflush, fun p hp hctx => ?_⟩
  obtain ⟨_, _, hobjs, _⟩ := hflush
  rw [hobjs] at hp
  exact List.not_mem_nil (honly _ (List.mem_map_of_mem hp) hctx)

/-- The context is FREE, and nothing of it remains. -/
structure Freed (n : Nat) (w w' : World) : Prop where
  free : ctxOf w' n = none
  others : OtherCtxsKept n w w'
  objs : ∀ p ∈ w'.mem.objs, p.2.ctx ≠ n
  subs : ∀ p ∈ w'.fe.subs, p.2.ctx ≠ n
  pte : ∀ l va, l < 8 → va < 2 ^ 57 → pteOf w' n l va = 0
  run : w'.fe.ctxRun = w.fe.ctxRun ∨ (w'.fe.ctxRun = none ∧ fld w' rFE_CTX_RESULT 63 1 = 0)

theorem endCtx_frees {n : Nat} (hlt : n < 2 ^ 20) (hn : (w.mem.objs.map (·.1)).Nodup) : Freed n w (endCtx n w) := by
  unfold endCtx
  obtain ⟨⟨kctxs, ksubs, _, krun⟩, kobjs⟩ := flushEnds_kept (w := dropSubs n w) hlt hn
  generalize flushWaiting n (endObjects n (endGraphsSlots n (dropSubs n w))) = v at *
  have hctxs : (endTables n v).fe.ctxs = mdel w.fe.ctxs n := congrArg (mdel · n) kctxs
  refine ⟨?_, fun m hm => ?_, kobjs, fun p hp => ?_, fun l va hl hva => endTables_pte n l va hl hva v, ?_⟩
  · rw [ctxOf, hctxs, mget_mdel_same]
  · rw [ctxOf, hctxs, mget_mdel_ne _ hm, ctxOf]
  · have hp : p ∈ (dropSubs n w).fe.subs := ksubs ▸ hp
    simpa using (List.mem_filter.mp hp).2
  · rcases krun with ⟨hr, _⟩ | ⟨hr, hb⟩
    · exact .inl hr
    · exact .inr ⟨hr, (fld_congr (rg_endTables n v _) 63 1).trans hb⟩

/-- FE_CTX_RESULT tells of the end of the destroy that it runs. -/
def resultDestroyed (n : Nat) (w : World) : World :=
  if w.fe.ctxRun = some (.destroy n) then fldSet { w with fe := { w.fe with ctxRun := none } } rFE_CTX_RESULT 63 1 0 else w

end

theorem contextDestroyComplete_frees {s : State} {n : Nat} {c : Ctx} (hlt : n < 2 ^ 20) (hc : ctxOf s.w n = some c)
    (hst : c.st = .destroying) (hq : ctxQueues s.w n = []) (hinval : s.w.mem.inval = []) (hin : ∀ m ∈ s.w.irq.inbox, m.ctx ≠ n)
    (hmaps : ∀ m ∈ s.w.mem.maps, m.ctx ≠ n) (hn : (s.w.mem.objs.map (·.1)).Nodup) :
    Completes (.contextDestroyComplete n) s (fun w' =>
      ctxOf w' n = none ∧ (∀ p ∈ w'.mem.objs, p.2.ctx ≠ n) ∧ (∀ p ∈ w'.fe.subs, p.2.ctx ≠ n) ∧
      (∀ l va, l < 8 → va < 2 ^ 57 → pteOf w' n l va = 0) ∧
      (s.w.fe.ctxRun = some (.destroy n) → w'.fe.ctxRun = none ∧ fld w' rFE_CTX_RESULT 63 1 = 0) ∧
      OtherCtxsKept n s.w w') := by
  refine completes_of_run (f := destroyComplete n) rfl ?_
  have hinbox : s.w.irq.inbox.any (fun m => m.ctx = n) = false := by simpa using hin
  have hmap : s.w.mem.maps.any (fun m => m.ctx = n) = false := by simpa using hmaps
  have hstep : destroyComplete n s.w = resultDestroyed n (endCtx n s.w) := by
    simp [destroyComplete, hc, hst, hq, hinval, hinbox, hmap, resultDestroyed, endCtx, dropSubs]
  rw [hstep]
  have hend := endCtx_frees hlt hn
  generalize endCtx n s.w = v at hend
  obtain ⟨hnone, hother, hobjs, hsubs, hpte, hrun⟩ := hend
  unfold resultDestroyed
  split
  · exact ⟨hnone, hobjs, hsubs, hpte, fun _ => ⟨rfl, fld_fldSet_same _ _ _ _ _ (by omega)⟩, hother⟩
  · rename_i hne
    exact ⟨hnone, hobjs, hsubs, hpte, fun hd => (hrun.resolve_left fun e => hne (e.trans hd)), hother⟩

end Sys2Proof.Machine

/-! ### The context commands together -/

namespace Sys2Proof.Machine

/-- A queue that is not enabled. -/
theorem ctxSubscribe_notEnabled {w : World} {n : Nat} (hq : queueOf w (bits (ctxArg w 1) 0 10) = none) :
    ctxSubscribe n w = ctxResult resBadArg w := by
  simp [ctxSubscribe, hq]

/-- An entry that has completed. -/
theorem ctxSubscribe_alreadyDone {w : World} {n : Nat} (hmask : ctxArg w 1 &&& subMask = ctxArg w 1)
    (hen : (queueOf w (bits (ctxArg w 1) 0 10)).isSome = true) (hlive : ctxLive w n = true) (hroom : w.fe.subs.length < 4096)
    (hdone : serialGe (queueDone w (bits (ctxArg w 1) 0 10)) (ctxArg w 0) = true) :
    ctxSubscribe n w = ctxResult resAlreadyDone w := by
  obtain ⟨x, hx⟩ := Option.isSome_iff_exists.mp hen
  simp [ctxSubscribe, hmask, hx, hlive, hdone, Nat.not_le.mpr hroom]

/-- Settles O33: one lemma per command, from what creating tables, stopping work, memory commands and the freeing of
objects leave of contexts, registers and memory. -/
theorem contextCommandsActAndLeaveNothingBehind : Obligations.ContextCommandsActAndLeaveNothingBehind := by
  unfold Obligations.ContextCommandsActAndLeaveNothingBehind
  refine ⟨?create, ?kill, ?wrongState, ?destroy, ?subscribe, ?refusals, ?unsubscribe, ?mapIo, ?memcmd, ?flags, ?complete, ?reset⟩
  case create => exact fun s cc n p => ctxCreate_creates
  case kill => exact fun s n c => ctxKill_live
  case wrongState =>
    intro s n hsel hargs
    refine ⟨fun c hc hlost => ctxKill_lost hsel hargs hc hlost, fun hst => ⟨ctxKill_wrongState hsel hargs hst,
      ctxDestroy_wrongState hsel hargs fun c hc => .inl (hst c hc)⟩, fun c hc hlive hqueues => ?_⟩
    refine ctxDestroy_wrongState hsel hargs fun d hd => ?_
    obtain rfl : c = d := Option.some.inj (hc.symm.trans hd)
    exact .inr ⟨hlive, hqueues⟩
  case destroy => exact fun s n c => ctxDestroy_begins
  case subscribe => exact fun s n q => subscribe_takes
  case refusals =>
    rintro s n q hsel rfl hmask
    exact ⟨fun hq => subscribe_refuses hsel (by decide) (ctxSubscribe_notEnabled hq), fun hen hlive hroom hdone =>
      subscribe_refuses hsel (by decide) (ctxSubscribe_alreadyDone hmask hen hlive hroom hdone)⟩
  case unsubscribe => exact fun s n h u => unsubscribe_ends
  case mapIo => exact fun s n va pa len => mapIo_maps
  case memcmd => exact fun s n pa c => memcmd_stamps
  case flags => exact fun s n v c => feCtxFlagsClear_clears
  case complete => exact fun s n c => contextDestroyComplete_frees
  case reset => exact fun s => functionLevelReset_ends

end Sys2Proof.Machine

/-! ### Reading a save record back (R356, R474) -/

namespace Sys2Proof.Machine

section
variable {P : World → Prop} {w : World}

theorem awaitHome_stable (hP : HomeStable P) (pa : Nat) (h : P w) : P (awaitHome pa w) := by
  unfold awaitHome
  split
  · exact hP.home _ _ _ _ h
  · split
    · exact hP.home _ _ _ _ h
    · exact h

/-- The read of one line of a record. -/
def loadLine (l : Nat) (w : World) : World :=
  countHome l 128 false (lineRequest (.agent byLoad) 1 .read (l / 128) 0 (awaitHome l w))

/-- A record is read line by line, and answered with the lines poisoned once it has been read. -/
theorem loadRecord_eq (pa : Nat) (w : World) : loadRecord pa w =
    (badLines (forAll (linesOf pa recordSize) loadLine (recallReads pa recordSize w)) pa,
      forAll (linesOf pa recordSize) loadLine (recallReads pa recordSize w)) := by
  unfold loadRecord badLines loadLine
  rfl

theorem loadRecord_fst (pa : Nat) (w : World) : (loadRecord pa w).1 = badLines (loadRecord pa w).2 pa := by
  rw [loadRecord_eq]

/-- What requests for lines keep, reading a record back keeps. -/
theorem loadRecord_stable (hP : HomeStable P) (pa : Nat) (h : P w) : P (loadRecord pa w).2 := by
  rw [loadRecord_eq]
  exact forAll_keeps (P := P) (f := loadLine)
    (fun l _ hs => countHome_stable hP _ _ _ (lineRequest_stable hP _ _ _ _ _ (awaitHome_stable hP l hs))) _ _
    (forAll_keeps (P := P) (fun _ _ hs => hP.readBack _ hs) _ _ h)

/-! #### A memory with one poisoned line -/

/-- Line `m` alone is poisoned, and no write waits for a reservation. -/
def OnePoisoned (m : Nat) (w : World) : Prop := w.mem.poison = [m] ∧ w.mem.later = []

theorem onePoisoned_recallStable (m : Nat) : RecallStable (OnePoisoned m) where
  count _ h := h
  harts _ h := h
  back x line s h := by
    unfold writeBack
    split
    · exact h
    · cases s <;> exact h

theorem onePoisoned_stable (m : Nat) : HomeStable (OnePoisoned m) where
  count _ _ _ h := h
  home _ _ _ _ h := h
  recalled line h := recallCopies_stable (onePoisoned_recallStable m) line h
  readBack line h := recallRead_stable (onePoisoned_recallStable m) line h

theorem linesOf_oneByte (k : Nat) : linesOf (128 * k) 1 = [128 * k] := by
  have hk : 128 * k / 128 = k := by omega
  simp [linesOf, hk]

theorem poisoned_onePoisoned {m : Nat} (h : OnePoisoned m w) (k : Nat) : poisoned w (128 * k) 1 = decide (k = m) := by
  obtain ⟨hp, hl⟩ := h
  have hk : 128 * k / 128 = k := by omega
  simp [poisoned, linesOf_oneByte, hp, hl, hk]

theorem recordLine_poisoned {m : Nat} (h : OnePoisoned m w) (a j : Nat) :
    poisoned w (128 * a + 128 * j) 1 = decide (a + j = m) := by
  rw [← Nat.mul_add, poisoned_onePoisoned h]

/-- A record in which the poisoned line is line `j`. -/
theorem badLines_eq_singleton {a j : Nat} (h : OnePoisoned (a + j) w) (hj : j < 13824) : badLines w (128 * a) = [j] := by
  have hthat : (fun i => decide (a + i = a + j)) = (fun i => i == j) := by
    funext i
    rw [Bool.eq_iff_iff, decide_eq_true_eq, beq_iff_eq, Nat.add_left_cancel_iff]
  simp only [badLines, recordLine_poisoned h, recordSize, hthat]
  rw [List.filter_beq, List.count_range, if_pos hj]
  rfl

/-- A record after the poisoned line. -/
theorem badLines_eq_nil {m a : Nat} (h : OnePoisoned m w) (ha : m < a) : badLines w (128 * a) = [] := by
  simp only [badLines, recordLine_poisoned h, List.filter_eq_nil_iff, decide_eq_true_eq]
  omega

/-! #### A record that lies in the host tier, all of its lines present -/

/-- A line of the host tier that is present is read with no effect but on the home's byte counter. -/
theorem loadLine_present {k : Nat} (hlo : 0x1000000000000 ≤ 128 * k) (hhi : 128 * k < 0x1008000000000)
    (hline : (mget w.mem.lines k).isSome = true) (hbusy : w.mem.sysBusy = false) :
    loadLine (128 * k) w = bump w rDBG_SYSC_RD 128 := by
  have hk : 128 * k / 128 = k := by omega
  have hhbm : inHbm (128 * k) = false := by simp [inHbm]; omega
  have hhost : inHost (128 * k) = true := by simp [inHost, hlo, hhi]
  have hawait : awaitHome (128 * k) w = w := by
    simp only [awaitHome, hhbm, hhost, Bool.false_eq_true, if_false, if_true]
    rw [← hbusy]
  simp [loadLine, hk, hawait, lineRequest, isMain, hhbm, hhost, hline, countHome]

/-- Reading such lines counts their bytes. -/
theorem rg_loadLines_present (ls : List Nat) : ∀ {w : World}, w.mem.sysBusy = false →
    (∀ l ∈ ls, ∃ k, l = 128 * k ∧ 0x1000000000000 ≤ 128 * k ∧ 128 * k < 0x1008000000000 ∧
      (mget w.mem.lines k).isSome = true) →
    rg w rDBG_SYSC_RD + 128 * ls.length < 2 ^ 64 →
    rg (forAll ls loadLine w) rDBG_SYSC_RD = rg w rDBG_SYSC_RD + 128 * ls.length := by
  induction ls with
  | nil => intro w _ _ _; rfl
  | cons l t ih =>
    intro w hbusy hls hroom
    obtain ⟨k, rfl, hlo, hhi, hline⟩ := hls l List.mem_cons_self
    have hcons : forAll (128 * k :: t) loadLine w = forAll t loadLine (bump w rDBG_SYSC_RD 128) :=
      congrArg (forAll t loadLine) (loadLine_present hlo hhi hline hbusy)
    have hcount : rg (bump w rDBG_SYSC_RD 128) rDBG_SYSC_RD = rg w rDBG_SYSC_RD + 128 := by
      rw [rg_bump_same, Nat.mod_eq_of_lt]
      rw [List.length_cons] at hroom
      omega
    rw [hcons, ih (w := bump w rDBG_SYSC_RD 128) hbusy (fun x hx => hls x (List.mem_cons_of_mem _ hx)), hcount, List.length_cons]
    · omega
    · rw [hcount]
      rw [List.length_cons] at hroom
      omega

/-- The map of the lines of a record that begins at line `a`, none dirty. -/
def recordLines (a : Nat) : Map Bool := (List.range 13824).map (fun i => (a + i, false))

theorem recordLines_present {a i : Nat} (h : i < 13824) : (mget (recordLines a) (a + i)).isSome = true := by
  rw [Option.isSome_iff_ne_none]
  intro hnone
  exact ne_of_mget_none hnone (a + i, false) (List.mem_map_of_mem (f := fun i => (a + i, false)) (List.mem_range.2 h)) rfl

theorem linesOf_record (a : Nat) : linesOf (128 * a) recordSize = (List.range 13824).map (fun i => 128 * (i + a)) := by
  have hn : (128 * a + 1769472 - 1) / 128 + 1 - 128 * a / 128 = 13824 := by omega
  have ha : 128 * a / 128 = a := by omega
  rw [linesOf, recordSize, if_neg (by omega), hn, ha]

/-- Where no hart holds a line modified a read recalls nothing. -/
theorem recallReads_alone (hnone : NoneModified w) (pa n : Nat) : recallReads pa n w = w :=
  forAll_keeps (P := fun v => v = w) (fun line v hv => by rw [hv, recallRead_alone line hnone]) _ w rfl

/-- Reading back a record all of whose lines are present advances the system cache's byte counter by its size. -/
theorem rg_loadRecord_present {a : Nat} (hnone : NoneModified w) (hbusy : w.mem.sysBusy = false)
    (hlines : w.mem.lines = recordLines a) (hlo : 0x1000000000000 ≤ 128 * a) (hhi : 128 * a + recordSize ≤ 0x1008000000000)
    (hroom : rg w rDBG_SYSC_RD + recordSize < 2 ^ 64) :
    rg (loadRecord (128 * a) w).2 rDBG_SYSC_RD = rg w rDBG_SYSC_RD + recordSize := by
  rw [recordSize] at hhi hroom
  rw [loadRecord_eq, recallReads_alone hnone, linesOf_record, rg_loadLines_present _ hbusy]
  · rw [List.length_map, List.length_range, recordSize]
  · intro l hl
    obtain ⟨i, hi, rfl⟩ := List.mem_map.1 hl
    rw [List.mem_range] at hi
    refine ⟨i + a, rfl, by omega, by omega, ?_⟩
    rw [hlines, Nat.add_comm]
    exact recordLines_present hi
  · rw [List.length_map, List.length_range]
    omega

end

/-! ### RESTORE_COMPLETE on the cores (R357) -/

/-- One saved core is read back from its record. -/
def reloadCore (p slot : Nat) (x : (Nat × Core) × Nat) (w : World) : World :=
  updCore x.1.1 (fun now => markRestored (loadRecord (recordPa w p slot x.2) w).1 (restoredCore now x.1.2))
    (loadRecord (recordPa w p slot x.2) w).2

theorem rg_updCore (n : Nat) (f : Core → Core) (w : World) (o : Nat) : rg (updCore n f w) o = rg w o := rfl

/-- The core read back. -/
theorem reloadCore_core (p slot : Nat) (x : (Nat × Core) × Nat) (w : World) : coreOf (reloadCore p slot x w) x.1.1 =
    markRestored (loadRecord (recordPa w p slot x.2) w).1
      (restoredCore (coreOf (loadRecord (recordPa w p slot x.2) w).2 x.1.1) x.1.2) := by
  rw [reloadCore, coreOf_updCore_same]

theorem updCore_onePoisoned {m : Nat} {w : World} (n : Nat) (f : Core → Core) (h : OnePoisoned m w) :
    OnePoisoned m (updCore n f w) := h

theorem reloadCore_onePoisoned {m : Nat} {w : World} (p slot : Nat) (x : (Nat × Core) × Nat) (h : OnePoisoned m w) :
    OnePoisoned m (reloadCore p slot x w) := updCore_onePoisoned _ _ (loadRecord_stable (onePoisoned_stable m) _ h)

/-- A saved launch is no longer saved. -/
def dropSaved (p k : Nat) (w : World) : World :=
  setSched (fun x => { x with saved := mset x.saved p ((mgetD x.saved p []).filter (fun y => y.launch.work ≠ k)) }) w

theorem coreServes_dropSaved (p k : Nat) (w : World) (n : Nat) : coreServes (dropSaved p k w) n = coreServes w n := rfl

theorem sendBt_cores (t g b ph r : Nat) (w : World) : (sendBt t g b ph r w).cores = w.cores := by
  unfold sendBt sendUdp
  dsimp only
  split
  · split
    · rfl
    · split <;> rfl
  · rfl

theorem setNbg_cores (g : Nat) (x : Nbg) (w : World) : (setNbg g x w).cores = w.cores := rfl
theorem setPhase_cores (g b : Nat) (x : NbgPhase) (w : World) : (setPhase g b x w).cores = w.cores := rfl
theorem addRels_cores (p b : Nat) (l : List Nat) (w : World) : (addRels p b l w).cores = w.cores := rfl
theorem addSavedRels_cores (p k b : Nat) (l : List Nat) (w : World) : (addSavedRels p k b l w).cores = w.cores := rfl

theorem nbgComplete_cores (g b : Nat) (w : World) : (nbgComplete g b w).cores = w.cores := by
  have hsent := foldl_keeps (P := fun v => v.cores = w.cores) (f := fun v c => sendBt 2 g b (phaseOf w g b).phase c v)
    (fun v c hv => (sendBt_cores _ _ _ _ _ v).trans hv) (nbgChildren w g) w rfl
  unfold nbgComplete
  dsimp only
  rw [bump_cores, setNbg_cores, setPhase_cores]
  split
  · rw [addRels_cores, hsent]
  · rw [addSavedRels_cores, hsent]

theorem nbgRestored_cores (p k : Nat) (w : World) : (nbgRestored p k w).cores = w.cores := by
  refine foldl_keeps (P := fun v => v.cores = w.cores) (fun v g hv => ?_) _ w rfl
  split
  · refine foldl_keeps (P := fun u => u.cores = w.cores) (fun u b hu => ?_) _ v hv
    split
    · exact (nbgComplete_cores g b u).trans hu
    · exact hu
  · exact hv

theorem takeTurn_cores (p c : Nat) (w : World) : (takeTurn p c w).cores = w.cores := by
  unfold takeTurn
  dsimp only
  split <;> rfl

/-- The cores of a launch that runs on are those of its records, read one after the other. -/
theorem restoreComplete_cores {w : World} {p : Nat} {c : Cand} {v : Saved} (hfree : mget w.fe.launches p = none)
    (hc : choose w p = some c) (hsaved : c.saved = true)
    (hv : (savedOf w p).find? (fun v => v.launch.work = c.key) = some v) (hlost : v.lost = false)
    (hserve : ∀ n ∈ v.launch.cores, coreServes w n = true) :
    (restoreComplete p w).cores = (forAll v.cores.zipIdx (reloadCore p v.slot) (dropSaved p c.key w)).cores := by
  unfold restoreComplete
  simp only [hfree, hc, hsaved, Bool.true_and, hv, hlost, Option.isSome_none, Bool.false_eq_true, if_false, Bool.false_or]
  have hall : v.launch.cores.any (fun n => !(coreServes (dropSaved p c.key w) n)) = false := by
    rw [List.any_eq_false]
    intro n hn
    rw [coreServes_dropSaved, hserve n hn]
    exact Bool.false_ne_true
  change (ite (v.launch.cores.any (fun n => !(coreServes (dropSaved p c.key w) n)) = true) _ _ : World).cores = _
  rw [hall, if_neg Bool.false_ne_true, bump_cores, nbgRestored_cores]
  exact takeTurn_cores _ _ _

/-! ### A partition beyond the device's sixteen

The statement speaks of every partition number. SCHED_SAVE_p of partition 0x124040 would lie where the system cache's read
counter lies, so that reading back a launch's first record moves the place of its second. -/

/-- The partition whose SCHED_SAVE would be DBG_SYSC_RD. -/
def farPart : Nat := 0x124040

theorem rSCHED_SAVE_farPart : rSCHED_SAVE farPart = rDBG_SYSC_RD := rfl

/-- The first line of its save area: the host tier's first. -/
def farLine : Nat := 2 ^ 41

/-- The poisoned line: in the second record, line 13312, of the core's remaining state. -/
def farBad : Nat := farLine + 13824 + 13312

/-- Saved on cores 0 and 1. -/
def farLaunch : Launch :=
  { work := 0, ctx := 0, coop := false, groups := 1, regs := 8, slmKib := 0, placed := 1, cores := [0, 1], shrunk := false,
    stop := none, barCores := [], bars := [], barMsgs := [], barRels := [], halted := [], freed := [], pageIns := 0,
    pageLimit := 0, started := 0, epoch := 0, lcb := [], entry := 0, ftz := false, seed := 0 }

def farSaved : Saved := { launch := farLaunch, cores := [(0, Core.reset), (1, Core.reset)], lost := false, slot := 0 }

/-- The released entry of the launch. -/
def farWork : Work :=
  { q := 0, node := none, kind := 1, ctx := 0, part := farPart, stamp := 0, epoch := 0, since := 0, limit := 0, order := 0
    cmd := [], begun := true, stop := none, fin := none, notify := false, cookie := 0, arg0 := 0, arg1 := 0 }

/-- The launch is saved; the lines of its first record are present, and one of its second is poisoned. -/
def farWorld : World :=
  { World.reset with
    regs := [(rDBG_SYSC_RD, BitVec.ofNat 64 (128 * farLine))]
    mem := { Mem.reset with sysBusy := false, lines := recordLines farLine, poison := [farBad] }
    fe := { Fe.reset with works := [(0, farWork)] }
    sched := { Sched.reset with saved := [(farPart, [farSaved])] } }

/-- The launch is the scheduler's choice. -/
def farCand : Cand := candOf farWorld 0 farWork true false false

theorem farWorld_restores : feHeld farWorld = false ∧ mget farWorld.fe.launches farPart = none ∧
    choose farWorld farPart = some farCand ∧ farCand.saved = true ∧
    (savedOf farWorld farPart).find? (fun v => v.launch.work = farCand.key) = some farSaved ∧ farSaved.lost = false ∧
    (∀ n ∈ farSaved.launch.cores, coreServes farWorld n = true) ∧ (farSaved.cores.map (·.1)).Nodup := by
  decide +kernel

/-- A record of slot 0 lies as far into the save area as there are records before it. -/
theorem recordPa_slot_zero (w : World) (p i : Nat) :
    recordPa w p 0 i = fld w (rSCHED_SAVE p) 12 40 * 4096 + i * recordSize := by
  simp [recordPa]

theorem recordPa_farPart {w : World} {k : Nat} (h : rg w rDBG_SYSC_RD = 128 * farLine + k * recordSize) (hk : k < 2) (i : Nat) :
    recordPa w farPart 0 i = 128 * (farLine + 13824 * (k + i)) := by
  rw [recordPa_slot_zero, rSCHED_SAVE_farPart, fld, h, bits_eq, farLine, recordSize]
  omega

/-! #### What RESTORE_COMPLETE makes of the second core -/

/-- Where the first record is to be read: the launch is no longer saved. -/
def farStart : World := dropSaved farPart 0 farWorld

theorem rg_farWorld : rg farWorld rDBG_SYSC_RD = 128 * farLine := by decide +kernel

theorem farWorld_memoryAlone : memoryAlone farWorld := ⟨fun _ => rfl, rfl⟩

theorem farStart_noneModified : NoneModified farStart := memoryAlone_noneModified (w := farWorld) farWorld_memoryAlone

theorem farStart_idle : farStart.mem.sysBusy = false := by simp [farStart, dropSaved, setSched, farWorld, Mem.reset]

theorem farStart_lines : farStart.mem.lines = recordLines farLine := by simp only [farStart, dropSaved, setSched, farWorld]

theorem farWorld_onePoisoned : OnePoisoned farBad farWorld := by simp [OnePoisoned, farWorld, Mem.reset]

/-- The first record has been read. -/
def farFirst : World := reloadCore farPart 0 ((0, Core.reset), 0) farStart

/-- The save area now seems to begin one record later. -/
theorem rg_farFirst : rg farFirst rDBG_SYSC_RD = 128 * farLine + 1 * recordSize := by
  have hstart : rg farStart rDBG_SYSC_RD = 128 * farLine + 0 * recordSize := by rw [Nat.zero_mul]; exact rg_farWorld
  have hpa : recordPa farStart farPart 0 0 = 128 * farLine := recordPa_farPart hstart (by omega) 0
  have hread := rg_loadRecord_present (a := farLine) farStart_noneModified farStart_idle farStart_lines
    (by rw [farLine]; omega) (by rw [farLine, recordSize]; omega) (by rw [hstart, farLine, recordSize]; omega)
  rw [farFirst, reloadCore, rg_updCore, hpa, hread, hstart, Nat.zero_mul, Nat.add_zero, Nat.one_mul]

theorem farFirst_onePoisoned : OnePoisoned farBad farFirst := reloadCore_onePoisoned _ _ _ farWorld_onePoisoned

/-- The second core takes back a record in which nothing is poisoned. -/
theorem farWorld_restored_marks : (coreOf (restoreComplete farPart farWorld) 1).marks = [] := by
  obtain ⟨_, hfree, hc, hsaved, hv, hlost, hserve, _⟩ := farWorld_restores
  rw [coreOf_congr (restoreComplete_cores hfree hc hsaved hv hlost hserve)]
  have hread := loadRecord_stable (onePoisoned_stable farBad) (128 * (farLine + 13824 * (1 + 1))) farFirst_onePoisoned
  have hnone : (loadRecord (128 * (farLine + 13824 * (1 + 1))) farFirst).1 = [] := by
    rw [loadRecord_fst, badLines_eq_nil hread (by unfold farBad; omega)]
  have hsecond := reloadCore_core farPart 0 ((1, Core.reset), 1) farFirst
  rw [recordPa_farPart rg_farFirst (by omega), hnone] at hsecond
  exact congrArg Core.marks hsecond

/-- In the place that the statement names, the last part of the second record is poisoned. -/
theorem badLines_farWorld : badLines farWorld (recordPa farWorld farPart 0 1) = [13312] := by
  have hstart : rg farWorld rDBG_SYSC_RD = 128 * farLine + 0 * recordSize := by rw [Nat.zero_mul]; exact rg_farWorld
  rw [recordPa_farPart hstart (by omega)]
  exact badLines_eq_singleton (j := 13312) farWorld_onePoisoned (by omega)

/-- A line of a core's remaining state leaves its mark. -/
theorem markRestored_ctl (c : Core) : (markRestored [13312] c).marks = sIns c.marks ctlMark := rfl

/-- Refutes O36, in the clause of RESTORE_COMPLETE. Of every partition number it says that each saved core comes back with
the poison of the record that the save area held for it before the command. RESTORE_COMPLETE takes each record's place from
SCHED_SAVE_p when it comes to that record. The counterexample's number lies beyond the device's sixteen partitions: there the
register would be the system cache's read counter, so that reading the first record moves the place of the second, and core 1
comes back without the poison of the record that was its own. -/
theorem not_launchesAreSavedAndStepsDecided : ¬ Obligations.LaunchesAreSavedAndStepsDecided := by
  unfold Obligations.LaunchesAreSavedAndStepsDecided
  rintro ⟨_, hrestore, _⟩
  obtain ⟨hheld, hfree, hc, hsaved, hv, hlost, hserve, hnodup⟩ := farWorld_restores
  obtain ⟨t, hexec, _, _, hcores, _⟩ := hrestore ⟨[], farWorld⟩ farPart farCand farSaved hheld hfree hc hsaved hv hlost hserve hnodup
  have hw : t.w = restoreComplete farPart farWorld := by
    have hrun := run_w (f := fun w => if feHeld w then w else restoreComplete farPart w) hexec
    rw [hrun]
    simp [hheld]
  obtain ⟨ls, hcore, hbad⟩ := hcores (1, Core.reset) 1 (by simp [farSaved])
  have hmarks := congrArg Core.marks hcore
  rw [hw, farWorld_restored_marks, hbad farWorld_memoryAlone, show farSaved.slot = 0 from rfl, badLines_farWorld,
    markRestored_ctl] at hmarks
  exact absurd hmarks (by decide)

end Sys2Proof.Machine
